-- ==== Sys2Proof/Word.lean ====
section
/-! DEFINITION. Word types of Ozvex-1 (R3, R33), and tables with a default, the one container the state uses for
numbered registers: an index that no entry covers reads as the default, so a table needs no length invariant. -/

namespace Sys2Proof

/-- A vector-register lane value or an instruction word. -/
abbrev Word := BitVec 32
/-- A doubleword: PCs, host registers, special registers of 64 bits. -/
abbrev DWord := BitVec 64
/-- The smallest addressable unit. -/
abbrev Byte := BitVec 8
/-- A set of lanes; bit i is lane i (a paired group has 64 lanes, R273). -/
abbrev Mask := BitVec 64

/-- Entry `i` of a table with default `d`. -/
def Tbl.get {α : Type} (d : α) : List α → Nat → α
  | [], _ => d
  | x :: _, 0 => x
  | _ :: xs, n + 1 => Tbl.get d xs n

/-- The table with entry `i` replaced, padded with the default up to `i` where it is shorter. -/
def Tbl.set {α : Type} (d : α) : List α → Nat → α → List α
  | [], 0, v => [v]
  | [], n + 1, v => d :: Tbl.set d [] n v
  | _ :: xs, 0, v => v :: xs
  | x :: xs, n + 1, v => x :: Tbl.set d xs n v

/-- The lanes of a mask in ascending order. -/
def Mask.lanes (m : Mask) : List Nat := (List.range 64).filter fun i => m.getLsbD i

/-- The lowest lane of a mask (Lowest() of R39). -/
def Mask.lowest (m : Mask) : Option Nat := (List.range 64).find? fun i => m.getLsbD i

/-- The number of lanes of a mask. -/
def Mask.count (m : Mask) : Nat := m.lanes.length

/-- The mask of one lane. -/
def Mask.bit (i : Nat) : Mask := BitVec.ofNat 64 (2 ^ i)

/-- The mask of the lanes for which `f` holds. -/
def Mask.ofFn (f : Nat → Bool) : Mask :=
  BitVec.ofNat 64 ((List.range 64).foldl (fun acc i => if f i then acc + 2 ^ i else acc) 0)

end Sys2Proof
end

