-- ==== Sys2Proof/Config.lean ====
section
/-! DEFINITION. What an implementation fixes (the FL9 figures of R9, R38, R44, R58, R62, R101, R234) and the FREE VALUES:
opaque constants without a body, about which nothing can be proved, for every choice the spec leaves open. -/

namespace Sys2Proof.Config

/-! ### FREE VALUES (log entry 10; marked DESIGN CHOICE there, and safe: a statement holds for every value of them) -/

/-- How many cycles beyond the first one a step takes (R2: timing is not architectural). -/
opaque stepCycles : Nat → Nat
/-- Which of the enabled moves comes next (R2, R282; the order in which agents progress). -/
opaque nextTurn : Nat → Nat
/-- Whether a plain load that finds a line in its core's L1 takes it, stale as it may be, where the memory model lets it (R136). -/
opaque l1Hit : Nat → Bool
/-- The physical error, if any, that strikes between two steps (R139, R141): its kind and where it strikes. -/
opaque upset : Nat → Nat × Nat × Nat
/-- Whether a fetch of a stored location returns the old word before ICINV (R81, R268). -/
opaque staleFetch : Nat → Bool
/-- A frame of a partition's memory, by its number within the package, that the Sheaf holds free when it needs one for a demand page (R425 rule 1: which frame is
not architectural, and the spec does not say which frames a partition has). The model takes it only where nothing uses it. -/
opaque grantedFrame : Nat → Nat
/-- Which free frame the Sheaf takes for a demand page (R425 rule 1: not architectural). -/
opaque demandPick : Nat → Nat
/-- Whether the ROM's checks of a firmware image pass: digest and signature (R402 steps 2, 3). -/
opaque firmwareSigned : List (BitVec 8) → Bool
/-- The version word that a firmware image carries (R402 step 4, R398 BOOTSTAT). -/
opaque firmwareVersion : List (BitVec 8) → BitVec 32
/-- The bytes that the security block answers to an SPDM request at a moment, given the fuse seed and the measurements (R404: nonces and key shares are fresh for each). -/
opaque spdmAnswer : Nat → List (BitVec 8) → List (BitVec 8) → List (BitVec 8)
/-- emax of a number format that has no finite value but 0 (R200: the logarithm of 0). -/
opaque emaxUnstated : Int
/-- The IDE keys that a KEY_EXCHANGE session supplies, if the request and its answer establish one (R404). -/
opaque sessionKeys : Nat → List (BitVec 8) → Option (List (BitVec 8))
/-- The boot ROM and the fuse configuration, which the measurements cover besides the firmware and the rollback counter (R404). -/
opaque romAndFuses : List (BitVec 8)
/-- What an image's husk record does not say of a capsule restored from it (R371): the PC of the HENTER of an adoption. -/
opaque restoredHenter : Nat → BitVec 64
/-- The mask and the count of result registers of a displaced holder restored from an image whose lock block has another holder by now (R371: no field holds them). -/
opaque restoredMask : Nat → BitVec 32 × Nat
/-- How many of its three attempts a retraining of an E-port fails (R122). -/
opaque retrainFailures : Nat → Nat

/-- Which entry a full TLB or walk cache gives up (R56: no replacement is stated). -/
opaque evicted : Nat → Nat
/-- Whether a walk of an entry with CH set gives one translation of its contiguous group (R51). -/
opaque contiguous : Nat → Bool
/-- How full the fullest receive buffer of an E-port is: 0 below one half, 1 up to three quarters, 2 above, 3 without room (R121, R123: no size is stated). -/
opaque receiveFill : Nat → Nat
/-- The destination field of an IDLE or NAK, which ends at the other side of its link (R118). -/
opaque linkDst : Nat → BitVec 9

/-- The ramp rate that the Sheaf falls back to when a plate sensor passes its limit (R12 chapter, R329). -/
opaque rampAfterSensor : Nat → Nat

/-- What a host reads where the spec gives an offset of BAR 0 no value: ID and the write-only registers (R397, R400). -/
opaque unstatedRead : Nat → BitVec 64

/-! ### FL9 figures -/

/-- Stacked DRAM of the package in bytes (R44). -/
def dramBytes : Nat := 0x003000000000
/-- First byte of the CXL tier (R44). -/
def cxlBase : Nat := 0x100000000000
/-- Bytes of one CXL port's range (R44). -/
def cxlPortBytes : Nat := 0x018000000000
/-- Register-file rows of a core (R9, R271). -/
def rowsPerCore : Nat := 3072
/-- Hardware group slots of a core (R270). -/
def groupSlots : Nat := 64
/-- Local memory of a core in bytes (R134). -/
def localBytes : Nat := 393216
/-- Bytes of one hardware group's divergence area (R278). -/
def divAreaBytes : Nat := 768
/-- Local program-level and trap-level divergence entries of a hardware group (R278). -/
def divProgEntries : Nat := 16
def divTrapEntries : Nat := 8
/-- Operand-log entries of a core and of a group (R62). -/
def logPerCore : Nat := 64
def logPerGroup : Nat := 8
/-- Request records of a core (R103). -/
def copyRecords : Nat := 32
/-- Destination bytes of a copy chunk (R100). -/
def chunkBytes : Nat := 2048
/-- Recipe records of a core and of a group (R153). -/
def recipesPerCore : Nat := 256
def recipesPerGroup : Nat := 16
/-- Matrix instructions queued by a core and by a group (R234). -/
def mxPerCore : Nat := 16
def mxPerGroup : Nat := 8
/-- Operand-buffer units of 4 KiB, B-SRAM units of 256 bytes per slice (R232). -/
def obUnits : Nat := 128
def bUnits : Nat := 64
/-- Pages of a PUBLISH region (R107). -/
def publishPages : Nat := 4096
/-- Unfinished child launches of one launch (R314 LIMIT). -/
def childLimit : Nat := 256
/-- Ready-pool entries (R315). -/
def poolEntries : Nat := 16384
/-- Replay-buffer flits of an E-port (R120). -/
def replayFlits : Nat := 2048
/-- Entries of a core's L1 TLB, of a quad's L2 TLB and of a die's walk cache (R9). -/
def l1TlbEntries : Nat := 64
def l2TlbEntries : Nat := 4096
def walkCacheEntries : Nat := 1024
/-- 64-byte lines of a core's L1 data cache (R9: 128 KiB). -/
def l1Lines : Nat := 2048
/-- Entries of the Sheaf's event queue, and its cores (R403). -/
def sheafQueue : Nat := 4096
def sheafCores : Nat := 12
/-- Words of a core's instruction cache (R134). -/
def icacheWords : Nat := 16384
/-- Loop buffers of a core, and the words of one (R305). -/
def loopBuffers : Nat := 8
def loopWords : Nat := 48
/-- Cycles within which an eligible group is granted (R282). -/
def grantCycles : Nat := 1024
/-- Cycles of one heartbeat (R10). -/
def heartbeatCycles : Nat := 1024
/-- Cycles of a time in microseconds, rounded up (R5): the counter runs at 1.05 GHz. -/
def cyclesOfUs (us : Nat) : Nat := (us * 1050 : Nat)

end Sys2Proof.Config
end

