-- ==== Sys2Proof/Syntax.lean ====
section
/-! DEFINITION. The rows of spec/opcode_table.json as ONE inductive, Instr: one constructor per row, instructions with
the fields of their encodings (R25, R26 and the chapters' own layouts), events with what the event brings with it. -/

namespace Sys2Proof

/-- The three control bits of a first word (R17). -/
structure Hdr where
  c : Bool
  u : Bool
  s : Bool
  deriving DecidableEq, Repr

/-- Shift kinds of SHF and SHFI (R172). -/
inductive ShfOp | shl | shr | sra | rol
  deriving DecidableEq, Repr
/-- MINMAX operations (R173). -/
inductive MinMaxOp | min | max | minu | maxu
  deriving DecidableEq, Repr
/-- UNARY operations (R173). -/
inductive UnaryOp | clz | popc | brev | abs | neg | not
  deriving DecidableEq, Repr
/-- BFE operations (R174). -/
inductive BfeOp | zx | sx
  deriving DecidableEq, Repr
/-- INT64 operations (R175). -/
inductive Int64Op | add64 | sub64 | mulw | mulwu
  deriving DecidableEq, Repr
/-- Integer conditions (R177). -/
inductive ICond | eq | ne | lt | le | gt | ge | ltu | geu
  deriving DecidableEq, Repr
/-- Floating conditions (R222). -/
inductive FCond | eq | ne | lt | le | gt | ge | num | nan
  deriving DecidableEq, Repr
/-- PCOMB operations (R178). -/
inductive PcombOp | and | or | xor | andn
  deriving DecidableEq, Repr
/-- VOTE kinds (R180). -/
inductive VoteKind | all | any | ballot | count | eq
  deriving DecidableEq, Repr
/-- REDUX operations (R182). -/
inductive ReduxOp | radd | rmin | rmax | rand | ror | rxor
  deriving DecidableEq, Repr
/-- FMINMAX operations (R217). -/
inductive FMinMaxOp | fmin | fmax | minnum | maxnum
  deriving DecidableEq, Repr
/-- FUN operations (R218). -/
inductive FunOp | fabs | fneg | frcp | frsq | fsqrt | fexp2 | flog2 | ftanh | ffloor | fceil | ftrunc | frint
  deriving DecidableEq, Repr
/-- FREDUX operations (R228). -/
inductive FReduxOp | fradd | frmax | framax | frmin
  deriving DecidableEq, Repr
/-- CVT type codes (R223). -/
inductive CvtTy | f32 | f16 | bf16 | s32 | u32 | f16h | bf16h
  deriving DecidableEq, Repr
/-- Rounding modes (R194). -/
inductive Rnd | rne | rz | sr
  deriving DecidableEq, Repr
/-- AGET selectors (R73). -/
inductive AgetSel | ptr | base | len | perm | rem
  deriving DecidableEq, Repr
/-- Memory scopes (R26). -/
inductive Scope | core | quad | die | pkg | pod | sys
  deriving DecidableEq, Repr
/-- Memory orders (R80). -/
inductive Order | plain | acqrel | relaxed | sc
  deriving DecidableEq, Repr
/-- Access sizes of LDL and STL (R26 sz, R83). -/
inductive LmSize | w | d | q
  deriving DecidableEq, Repr
/-- Atomic operations (R84). -/
inductive AtomOp | add | and | or | xor | min | max | minu | maxu | xchg | incw | decw | fadd | fmin | fmax
  deriving DecidableEq, Repr
/-- FENCE kinds (R88). -/
inductive FenceKind | acq | rel | full | sc
  deriving DecidableEq, Repr
/-- PREF targets (R89). -/
inductive PrefTarget | l1 | l2 | xl
  deriving DecidableEq, Repr
/-- CCTL operations (R90). -/
inductive CctlOp | l1inv | l2wb | l2evict | icpf
  deriving DecidableEq, Repr
/-- Element types of the accumulator drains (R245). -/
inductive AccTy | f32 | bf16 | f16 | a56
  deriving DecidableEq, Repr
/-- Sparsity of an MXLOOP (R238). -/
inductive Sparsity | dense | s8 | s4
  deriving DecidableEq, Repr
/-- HSTORE sizes (R359). -/
inductive HSize | b | h | w | d
  deriving DecidableEq, Repr
/-- Barrier levels (R299). -/
inductive Level | core | quad | die | pkg | pod
  deriving DecidableEq, Repr
/-- Special registers (R189). -/
inductive SReg
  | laneid | groupid | teamid | nodeid | core | quad | die | pkg | nlanes | cycle | heartbeat
  | foldpol | matcnt | rngs | x0 | x1 | x2 | trapcause | trappc | trapinfo | huskstat
  deriving DecidableEq, Repr

/-- The operand fields of format M (R25): address register, offset register (63: none), scope, order, hint. -/
structure MOp where
  an : BitVec 4
  vo : BitVec 6
  scope : Scope
  order : Order
  nt : Bool
  deriving DecidableEq, Repr

/-- A flit as it arrives (R117, R118), less its type, which the constructor of Instr names. -/
structure Flit where
  cls : BitVec 2
  rsv : BitVec 3
  seq : BitVec 16
  ack : BitVec 16
  dst : BitVec 9
  src : BitVec 9
  tag : BitVec 16
  hops : BitVec 4
  rate : BitVec 8
  w : Bool
  payload : List Byte
  deriving DecidableEq, Repr

/-- Why a slot cannot fetch (R16). -/
inductive FetchCause | outside | noExec | secondWord
  deriving DecidableEq, Repr

/-- TDI states that a transition reaches (R405). -/
inductive TdiState | unlocked | locked | run | error
  deriving DecidableEq, Repr

/-- The rows of the opcode table. -/
inductive Instr
  -- I pipe (R31, R169 to R182)
  | nop (s : Bool)
  | iadd (h : Hdr) (vd va : BitVec 6) (pa : BitVec 2) (vb : BitVec 6) (pb : BitVec 2)
  | isub (h : Hdr) (vd va : BitVec 6) (pa : BitVec 2) (vb : BitVec 6) (pb : BitVec 2)
  | imul (h : Hdr) (vd va : BitVec 6) (pa : BitVec 2) (vb : BitVec 6) (pb : BitVec 2)
  | imulh (h : Hdr) (vd va : BitVec 6) (pa : BitVec 2) (vb : BitVec 6) (pb : BitVec 2)
  | imulhu (h : Hdr) (vd va : BitVec 6) (pa : BitVec 2) (vb : BitVec 6) (pb : BitVec 2)
  | imad (h : Hdr) (vd va vb : BitVec 6) (vc : BitVec 4)
  | iaddi (h : Hdr) (vd va : BitVec 6) (imm : BitVec 10)
  | and (h : Hdr) (vd va : BitVec 6) (pa : BitVec 2) (vb : BitVec 6) (pb : BitVec 2)
  | or (h : Hdr) (vd va : BitVec 6) (pa : BitVec 2) (vb : BitVec 6) (pb : BitVec 2)
  | xor (h : Hdr) (vd va : BitVec 6) (pa : BitVec 2) (vb : BitVec 6) (pb : BitVec 2)
  | andi (h : Hdr) (vd va : BitVec 6) (imm : BitVec 10)
  | ori (h : Hdr) (vd va : BitVec 6) (imm : BitVec 10)
  | xori (h : Hdr) (vd va : BitVec 6) (imm : BitVec 10)
  | shf (h : Hdr) (vd va vb : BitVec 6) (op : ShfOp)
  | shfi (h : Hdr) (vd va : BitVec 6) (op : ShfOp) (amount : BitVec 5)
  | minmax (h : Hdr) (vd va vb : BitVec 6) (op : MinMaxOp)
  | unary (h : Hdr) (vd va : BitVec 6) (op : UnaryOp)
  | bfe (h : Hdr) (vd va vb : BitVec 6) (op : BfeOp)
  | bfi (h : Hdr) (vd va vb : BitVec 6) (vc : BitVec 4)
  | sel (h : Hdr) (vd va vb : BitVec 6) (p : BitVec 3) (inv : Bool)
  | icmp (h : Hdr) (pd : BitVec 3) (cond : ICond) (va vb : BitVec 6) (pacc : BitVec 3) (comb : Bool)
  | icmpi (h : Hdr) (pd : BitVec 3) (cond : ICond) (va : BitVec 6) (imm : BitVec 10)
  | pcomb (h : Hdr) (pd pa pb : BitVec 3) (op : PcombOp)
  | mov (h : Hdr) (vd va : BitVec 6) (pa : BitVec 2)
  | movi (h : Hdr) (vd : BitVec 6) (imm : BitVec 16)
  | movhi (h : Hdr) (vd : BitVec 6) (imm : BitVec 16)
  | li (h : Hdr) (vd : BitVec 6) (lit : Word)
  | vote (h : Hdr) (vd : BitVec 6) (p : BitVec 3) (kind : VoteKind)
  | shfl (h : Hdr) (vd va vb : BitVec 6) (pb : BitVec 2)
  | int64 (h : Hdr) (vd va vb : BitVec 6) (op : Int64Op)
  | redux (h : Hdr) (vd va : BitVec 6) (op : ReduxOp)
  -- F pipe (R215 to R229)
  | fadd (h : Hdr) (vd va : BitVec 6) (pa : BitVec 2) (vb : BitVec 6) (pb : BitVec 2)
  | fsub (h : Hdr) (vd va : BitVec 6) (pa : BitVec 2) (vb : BitVec 6) (pb : BitVec 2)
  | fmul (h : Hdr) (vd va : BitVec 6) (pa : BitVec 2) (vb : BitVec 6) (pb : BitVec 2)
  | fma (h : Hdr) (vd va vb : BitVec 6) (vc : BitVec 4)
  | fmac (h : Hdr) (vd va : BitVec 6) (pa : BitVec 2) (vb : BitVec 6) (pb : BitVec 2)
  | fminmax (h : Hdr) (vd va vb : BitVec 6) (op : FMinMaxOp)
  | func (h : Hdr) (vd va : BitVec 6) (op : FunOp)
  | fcmp (h : Hdr) (pd : BitVec 3) (cond : FCond) (va vb : BitVec 6) (pacc : BitVec 3) (comb : Bool)
  | hadd2 (h : Hdr) (vd va : BitVec 6) (pa : BitVec 2) (vb : BitVec 6) (pb : BitVec 2)
  | hmul2 (h : Hdr) (vd va : BitVec 6) (pa : BitVec 2) (vb : BitVec 6) (pb : BitVec 2)
  | hfma2 (h : Hdr) (vd va vb : BitVec 6) (vc : BitVec 4)
  | hfmac2 (h : Hdr) (vd va : BitVec 6) (pa : BitVec 2) (vb : BitVec 6) (pb : BitVec 2)
  | cvt (h : Hdr) (vd va : BitVec 6) (src dst : CvtTy) (rnd : Rnd)
  | cvtn (h : Hdr) (vd va : BitVec 6) (fmt : BitVec 2) (rnd : Rnd) (vb : BitVec 6)
  | cvtw (h : Hdr) (vd va : BitVec 6) (fmt : BitVec 2) (rnd : Rnd) (vb : BitVec 6)
  | fscale (h : Hdr) (vd va : BitVec 6) (pa : BitVec 2) (vb : BitVec 6) (pb : BitVec 2)
  | fredux (h : Hdr) (vd va : BitVec 6) (op : FReduxOp)
  | fmtset (h : Hdr) (fd : BitVec 2) (va : BitVec 6)
  | dot4s (h : Hdr) (vd va : BitVec 6) (pa : BitVec 2) (vb : BitVec 6) (pb : BitVec 2)
  | dot4u (h : Hdr) (vd va : BitVec 6) (pa : BitVec 2) (vb : BitVec 6) (pb : BitVec 2)
  -- address registers (R71 to R74)
  | aset (h : Hdr) (an : BitVec 4) (vq : BitVec 6)
  | aadvPair (h : Hdr) (an : BitVec 4) (vp : BitVec 6)
  | aadvImm (h : Hdr) (an : BitVec 4) (imm : BitVec 16)
  | aget (h : Hdr) (vd : BitVec 6) (an : BitVec 4) (sel : AgetSel)
  | anarrow (h : Hdr) (ad as : BitVec 4) (vp : BitVec 6) (clr : BitVec 8)
  -- memory (R77 to R90)
  | ldB (h : Hdr) (vt : BitVec 6) (m : MOp)
  | ldH (h : Hdr) (vt : BitVec 6) (m : MOp)
  | ldW (h : Hdr) (vt : BitVec 6) (m : MOp)
  | ldD (h : Hdr) (vt : BitVec 6) (m : MOp)
  | ldQ (h : Hdr) (vt : BitVec 6) (m : MOp)
  | stB (h : Hdr) (vt : BitVec 6) (m : MOp)
  | stH (h : Hdr) (vt : BitVec 6) (m : MOp)
  | stW (h : Hdr) (vt : BitVec 6) (m : MOp)
  | stD (h : Hdr) (vt : BitVec 6) (m : MOp)
  | stQ (h : Hdr) (vt : BitVec 6) (m : MOp)
  | ldkW (h : Hdr) (vt : BitVec 6) (an : BitVec 4) (vo : BitVec 6) (nt : Bool)
  | ldkD (h : Hdr) (vt : BitVec 6) (an : BitVec 4) (vo : BitVec 6) (nt : Bool)
  | ldl (h : Hdr) (vt vo : BitVec 6) (sz : LmSize) (imm : BitVec 8)
  | stl (h : Hdr) (vt vo : BitVec 6) (sz : LmSize) (imm : BitVec 8)
  | atom (h : Hdr) (vt : BitVec 6) (m : MOp) (op : AtomOp) (dw : Bool) (vs : BitVec 6)
  | atoml (h : Hdr) (vt vo : BitVec 6) (order : Order) (nt : Bool) (op : AtomOp) (dw : Bool) (vs : BitVec 6)
  | red (h : Hdr) (m : MOp) (op : AtomOp) (dw : Bool) (vs : BitVec 6)
  | cas (h : Hdr) (vt : BitVec 6) (m : MOp) (dw : Bool) (vc vn : BitVec 6)
  | fence (h : Hdr) (kind : FenceKind) (scope : Scope)
  | pref (h : Hdr) (target : PrefTarget) (an : BitVec 4) (vo : BitVec 6) (nt : Bool)
  | cctl (h : Hdr) (op : CctlOp) (an : BitVec 4)
  -- engines (R103 to R107)
  | qsub (h : Hdr) (vd vo : BitVec 6) (imm : BitVec 10)
  | cbinit (h : Hdr) (vp vo : BitVec 6) (imm : BitVec 9)
  | cbwait (h : Hdr) (vo : BitVec 6) (imm : BitVec 9)
  | sleepuntil (h : Hdr) (vp : BitVec 6)
  | sleepuntilChk (h : Hdr) (vp vo : BitVec 6) (imm : BitVec 9)
  | publish (h : Hdr) (an : BitVec 4)
  -- matrix (R238 to R250)
  | accst (h : Hdr) (an : BitVec 4) (t : Bool) (ty : AccTy) (rnd : Rnd) (va : BitVec 6)
  | accld (h : Hdr) (an : BitVec 4) (t : Bool) (ty : AccTy) (va : BitVec 6)
  | obres (h : Hdr) (vd : BitVec 6) (ob : BitVec 3) (vp : BitVec 6)
  | obrel (h : Hdr) (ob : BitVec 3)
  | bres (h : Hdr) (vd : BitVec 6) (b : BitVec 2) (vp : BitVec 6)
  | brel (h : Hdr) (b : BitVec 2)
  | mxloop (h : Hdr) (t : Bool) (ob : BitVec 3) (b : BitVec 2) (vq : BitVec 6) (sp : Sparsity) (z : Bool)
      (kc n : BitVec 12) (mob : BitVec 3)
  | mxwait (h : Hdr)
  | accz (h : Hdr) (t : Bool)
  | acczFree (h : Hdr) (t : Bool)
  | accrd (h : Hdr) (vd : BitVec 6) (t : Bool) (ty : AccTy) (rnd : Rnd) (va : BitVec 6)
  | accwr (h : Hdr) (vs : BitVec 6) (t : Bool) (ty : AccTy) (add : Bool) (va : BitVec 6)
  | mxfrz (h : Hdr)
  | mxfrzThaw (h : Hdr)
  | mxsta (h : Hdr) (vq : BitVec 6)
  -- recipes and scopes (R183 to R187)
  | mkrcp (h : Hdr) (vd : BitVec 6) (n : BitVec 3)
  | rmat (h : Hdr) (vd : BitVec 6)
  | rmatAll (h : Hdr)
  | rstat (h : Hdr) (vd va : BitVec 6)
  | scopeOpen (h : Hdr) (vlo vhi : BitVec 6)
  | scopeClose (h : Hdr)
  -- control flow (R290 to R302)
  | bra (h : Hdr) (p : BitVec 3) (inv : Bool) (off : BitVec 18) (rpo : BitVec 24)
  | jmp (h : Hdr) (off : BitVec 22)
  | call (h : Hdr) (off : BitVec 16) (fs : BitVec 6)
  | calli (h : Hdr) (vp : BitVec 6) (tag : BitVec 8) (fs : BitVec 6)
  | jmpi (h : Hdr) (vp : BitVec 6) (tag : BitVec 8)
  | jmpiDesc (h : Hdr) (vp : BitVec 6) (tag : BitVec 8) (an : BitVec 4)
  | ret (h : Hdr)
  | pad (h : Hdr) (tag : BitVec 8)
  | rjoinSet (h : Hdr) (j : BitVec 3)
  | rjoinAdd (h : Hdr) (j : BitVec 3)
  | rjoinWait (h : Hdr) (j : BitVec 3)
  | exit (h : Hdr)
  | bar (h : Hdr) (lvl : Level)
  | waitSleep (h : Hdr) (imm : BitVec 16)
  | waitYield (h : Hdr)
  | loop (h : Hdr) (vc : BitVec 6) (n : BitVec 4)
  -- husks (R355 to R369)
  | henter (h : Hdr) (vd : BitVec 6) (an : BitVec 4) (nres : BitVec 3) (mask : Word)
  | hstore (h : Hdr) (sz : HSize) (vs : BitVec 6) (an : BitVec 4) (vo : BitVec 6)
  | hexit (h : Hdr)
  | habort (h : Hdr)
  -- tillers (R383 to R389)
  | mark (h : Hdr) (tag : BitVec 8) (off : Word)
  | cut (h : Hdr) (tag : BitVec 8) (vd : BitVec 6) (regmask : Word)
  | graft (h : Hdr) (vh : BitVec 6)
  | unmark (h : Hdr) (tag : BitVec 8)
  | tdrop (h : Hdr) (vh : BitVec 6)
  | tinfo (h : Hdr) (vd vh : BitVec 6)
  -- launch and system (R323, R188, R337 to R339)
  | launch (h : Hdr) (vp : BitVec 6) (prio : BitVec 8)
  | mfs (h : Hdr) (vd : BitVec 6) (sr : SReg)
  | mts (h : Hdr) (vd : BitVec 6) (sr : SReg)
  | trap (h : Hdr) (imm : BitVec 12)
  | tret (h : Hdr)
  | icinv (h : Hdr) (an : BitVec 4)
  | icinvAll (h : Hdr)
  | bkpt (h : Hdr) (imm : BitVec 12)
  -- events of translation and the operand log (R56 to R66, R425); g is a resident group's index
  | pageWalk (asid va : Nat) (write : Bool)
  | demandFault (n pick : Nat)
  | operandLogReplay (g : Nat)
  | orphanThreshold (g : Nat)
  | migration (asid va frame : Nat)
  -- events of the copy engine and of sleeping groups (R100, R105 to R107, R301, R10)
  | copyChunk (core : Nat)
  | cbwaitWake (g : Nat)
  | sleepuntilWake (g : Nat)
  | sleepExpiry (g : Nat) (slotB : Bool)
  | publishFlip (g : Nat)
  | heartbeatTick
  | patrolScrub (word : Nat) (errors : Nat)
  -- events of the fabric (R119 to R128)
  | idle (port : Nat) (f : Flit)
  | write (port : Nat) (f : Flit)
  | read (port : Nat) (f : Flit)
  | atomic (port : Nat) (f : Flit)
  | readResp (port : Nat) (f : Flit)
  | atomicResp (port : Nat) (f : Flit)
  | ack (port : Nat) (f : Flit)
  | bulk (port : Nat) (f : Flit)
  | nak (port : Nat) (f : Flit)
  | drain (port : Nat) (f : Flit)
  | drainAck (port : Nat) (f : Flit)
  | replayTimeout (port : Nat)
  | portRetrain (port failures : Nat)
  | routeUpdate (dest : Nat) (entry : DWord)
  -- events of the matrix array and the register file (R234 to R244, R156, R160)
  | matrixWorkBegin (g : Nat)
  | matrixBlock (g : Nat)
  | acczClaim (g : Nat)
  | registerFold (g : Nat) (vd : BitVec 6)
  | registerUnspill (g : Nat) (vd : BitVec 6)
  -- events of the hub (R315 to R325)
  | podBarrierUpdate (team : Nat)
  | podBarrierRelease (team : Nat)
  | launchComplete (l : Nat)
  | dispatchDecision (core : Nat)
  | launchAccept (g : Nat)
  | doorbell (fn : Nat) (queue : BitVec 12)
  | queueMap (queue : Nat)
  | packetNop (slot : Nat)
  | packetLaunch (slot : Nat)
  | packetSignal (slot : Nat)
  | packetWait (slot : Nat)
  | packetFence (slot : Nat)
  -- partitions, the ladder, halts (R327 to R349)
  | coreRevocation (core : Nat)
  | rescueTimeout (part : Nat)
  | stopRequest (l : Nat)
  | graceTimer (l : Nat)
  | killTimer (l : Nat)
  | instructionHalt (team : Nat)
  | contextResume (k core : Nat)
  | coreStateError (core : Nat) (group : Option Nat)
  | latencyMonitor
  -- husk unit (R360 to R367)
  | huskCommit (g : Nat)
  | henterWake (g : Nat)
  | huskOrphanRequest (g : Nat)
  | holderReturn (g : Nat)
  | huskPurge (key : DWord)
  -- host and firmware (R267, R396 to R405, R426)
  | tenantStop (part : Nat)
  | queueReset (queue : Nat)
  | invcmd (val : DWord)
  | invalidationComplete
  | partcfg (part : Nat) (val : DWord)
  | partquads (part : Nat) (val : DWord)
  | retrain (val : DWord)
  | routewr (val : DWord)
  | routerd (val : DWord)
  | orphth (val : Word)
  | qosp50 (val : DWord)
  | qosp99 (val : DWord)
  | fltrespReplay (part : Nat) (val : DWord)
  | fltrespUnresolvable (part : Nat) (val : DWord)
  | fltcfg (part : Nat) (val : DWord)
  | fltcons (part : Nat) (val : DWord)
  | registerWrite (offset : Nat) (val : DWord)
  | powerOnReset
  | recov (len : DWord)
  | spdmRequest (req : List Byte)
  | tdispTransition (vf : Nat) (st : TdiState)
  | cxlPortFailure (port : Nat)
  | reservedMajor (w : Word)
  | fetchFault (cause : FetchCause)
  | reservedPacket (slot : Nat)
  | crcFailure (port : Nat)
  | flitSlot (port : Nat)
  | fabcmd (val : DWord)
  | fltbase (part : Nat) (val : DWord)
  | hostSideReset
  | hostMemoryAccess (data : Option (List Byte)) (pa n : Nat)
  | plateSensorLimit
  deriving DecidableEq, Repr

end Sys2Proof
end

