-- ==== Sys2Proof/WellFormed.lean ====
section
/-! DEFINITION. The static checks of an instruction's fields that R32 makes at orders 1, 3 and 4, as one Boolean: pair and
quad alignment, field values that an entry refuses, and U on a forbidden major (R23, R31). Checks that need the packet
(R18, R29) or the mask (R23 required) are made when the instruction issues. -/

namespace Sys2Proof

/-- The U classes of R23. -/
inductive UClass | permitted | forbidden | required
  deriving DecidableEq, Repr

/-- The control bits of an instruction; events carry none. -/
def Instr.hdr : Instr → Hdr
  | .nop s => ⟨false, false, s⟩
  | .iadd h .. | .isub h .. | .imul h .. | .imulh h .. | .imulhu h .. | .imad h .. | .iaddi h .. | .and h .. | .or h ..
  | .xor h .. | .andi h .. | .ori h .. | .xori h .. | .shf h .. | .shfi h .. | .minmax h .. | .unary h .. | .bfe h ..
  | .bfi h .. | .sel h .. | .icmp h .. | .icmpi h .. | .pcomb h .. | .mov h .. | .movi h .. | .movhi h .. | .li h ..
  | .vote h .. | .shfl h .. | .int64 h .. | .redux h .. | .fadd h .. | .fsub h .. | .fmul h .. | .fma h .. | .fmac h ..
  | .fminmax h .. | .func h .. | .fcmp h .. | .hadd2 h .. | .hmul2 h .. | .hfma2 h .. | .hfmac2 h .. | .cvt h ..
  | .cvtn h .. | .cvtw h .. | .fscale h .. | .fredux h .. | .fmtset h .. | .dot4s h .. | .dot4u h .. | .aset h ..
  | .aadvPair h .. | .aadvImm h .. | .aget h .. | .anarrow h .. | .ldB h .. | .ldH h .. | .ldW h .. | .ldD h ..
  | .ldQ h .. | .stB h .. | .stH h .. | .stW h .. | .stD h .. | .stQ h .. | .ldkW h .. | .ldkD h .. | .ldl h ..
  | .stl h .. | .atom h .. | .atoml h .. | .red h .. | .cas h .. | .fence h .. | .pref h .. | .cctl h .. | .qsub h ..
  | .cbinit h .. | .cbwait h .. | .sleepuntil h .. | .sleepuntilChk h .. | .publish h .. | .accst h .. | .accld h ..
  | .obres h .. | .obrel h .. | .bres h .. | .brel h .. | .mxloop h .. | .mxwait h | .accz h .. | .acczFree h ..
  | .accrd h .. | .accwr h .. | .mxfrz h | .mxfrzThaw h | .mxsta h .. | .mkrcp h .. | .rmat h .. | .rmatAll h
  | .rstat h .. | .scopeOpen h .. | .scopeClose h | .bra h .. | .jmp h .. | .call h .. | .calli h .. | .jmpi h ..
  | .jmpiDesc h .. | .ret h | .pad h .. | .rjoinSet h .. | .rjoinAdd h .. | .rjoinWait h .. | .exit h | .bar h ..
  | .waitSleep h .. | .waitYield h | .loop h .. | .henter h .. | .hstore h .. | .hexit h | .habort h | .mark h ..
  | .cut h .. | .graft h .. | .unmark h .. | .tdrop h .. | .tinfo h .. | .launch h .. | .mfs h .. | .mts h ..
  | .trap h .. | .tret h | .icinv h .. | .icinvAll h | .bkpt h .. => h
  | _ => ⟨false, false, false⟩

/-- The U class of the instruction's major (R31). -/
def Instr.uclass : Instr → UClass
  | .fmtset .. | .aset .. | .aadvPair .. | .aadvImm .. | .aget .. | .anarrow .. | .qsub .. | .cbinit .. | .cbwait ..
  | .sleepuntil .. | .sleepuntilChk .. | .publish .. | .accst .. | .accld .. | .obres .. | .obrel .. | .bres ..
  | .brel .. | .mxloop .. | .mxwait .. | .accz .. | .acczFree .. | .accrd .. | .accwr .. | .mxfrz .. | .mxfrzThaw ..
  | .mxsta .. => .required
  | .nop .. | .vote .. | .shfl .. | .redux .. | .fredux .. | .fence .. | .cctl .. | .mkrcp .. | .rmat .. | .rmatAll ..
  | .scopeOpen .. | .scopeClose .. | .bra .. | .jmp .. | .call .. | .calli .. | .jmpi .. | .jmpiDesc .. | .ret ..
  | .pad .. | .rjoinSet .. | .rjoinAdd .. | .rjoinWait .. | .exit .. | .bar .. | .waitSleep .. | .waitYield ..
  | .loop .. | .henter .. | .hstore .. | .hexit .. | .habort .. | .mark .. | .cut .. | .graft .. | .unmark ..
  | .tdrop .. | .tinfo .. | .launch .. | .trap .. | .tret .. | .icinv .. | .icinvAll .. | .bkpt .. => .forbidden
  | _ => .permitted

/-- Words of the instruction (R29): two with an extension or literal word; events have none. -/
def Instr.words : Instr → Nat
  | .li .. | .atom .. | .atoml .. | .red .. | .cas .. | .mxloop .. | .bra .. | .henter .. | .mark .. | .cut .. => 2
  | _ => 1

/-- A special register of 64 bits (R189). -/
def SReg.wide : SReg → Bool
  | .cycle | .heartbeat | .trappc | .trapinfo => true
  | _ => false

/-- A special register to which MTS is an instruction (R188, R189): those with a write access at some level. -/
def SReg.writable : SReg → Bool
  | .foldpol | .matcnt | .rngs | .x0 | .x1 | .x2 | .trappc | .trapinfo => true
  | _ => false

/-- An even register number (pairs, R26). -/
def evenReg (v : BitVec 6) : Bool := v.toNat % 2 == 0
/-- A register number that is a multiple of 4 (quads, R26). -/
def quadReg (v : BitVec 6) : Bool := v.toNat % 4 == 0
/-- v62 or v63, the frame and stack offsets. -/
def stackReg (v : BitVec 6) : Bool := v.toNat == 62 || v.toNat == 63
/-- Set bits of a register mask. -/
def popCount (m : Word) : Nat := ((List.range 32).filter fun i => m.getLsbD i).length

/-- With order 0b00 the scope is 0 (R26). -/
def MOp.ok (m : MOp) : Bool := m.order != .plain || m.scope == .core
/-- Atomics refuse order 0b00 (R85). -/
def MOp.atomicOk (m : MOp) : Bool := m.order != .plain

/-- An operation of R84 that takes size W only. -/
def AtomOp.floating : AtomOp → Bool
  | .fadd | .fmin | .fmax => true
  | _ => false

/-- A CVT type that is an integer (R223). -/
def CvtTy.isInt : CvtTy → Bool
  | .s32 | .u32 => true
  | _ => false
/-- A CVT type that only a source may have (R223). -/
def CvtTy.sourceOnly : CvtTy → Bool
  | .f16h | .bf16h => true
  | _ => false

/-- The static checks of one instruction; an event is checked for the ranges of its unit numbers where it names any. -/
def Instr.wellFormed : Instr → Bool
  | .int64 _ vd va vb op =>
    evenReg vd && (match op with
      | .add64 | .sub64 => evenReg va && evenReg vb
      | .mulw | .mulwu => true)
  | .vote h .. | .shfl h .. | .redux h .. | .fredux h .. => !h.u
  | .cvt _ _ _ src dst rnd => !dst.sourceOnly && !(src.isInt && dst.isInt && rnd != .rne)
  | .aset _ _ vq => quadReg vq
  | .aadvPair _ _ vp => evenReg vp
  | .aget _ vd _ _ => evenReg vd
  | .anarrow _ _ _ vp _ => evenReg vp
  | .ldB _ _ m | .ldH _ _ m | .ldW _ _ m | .stB _ _ m | .stH _ _ m | .stW _ _ m => m.ok
  | .ldD _ vt m | .stD _ vt m => evenReg vt && m.ok
  | .ldQ _ vt m | .stQ _ vt m => quadReg vt && m.ok
  | .ldkD _ vt _ _ _ => evenReg vt
  | .ldl _ vt _ sz _ | .stl _ vt _ sz _ =>
    match sz with
    | .w => true
    | .d => evenReg vt
    | .q => quadReg vt
  | .atom _ vt m op dw vs => m.atomicOk && !(op.floating && dw) && (!dw || (evenReg vt && evenReg vs))
  | .atoml _ vt _ order _ op dw vs => order != .plain && !(op.floating && dw) && (!dw || (evenReg vt && evenReg vs))
  | .red _ m op dw vs => m.atomicOk && op != .xchg && !(op.floating && dw) && (!dw || evenReg vs)
  | .cas _ vt m dw vc vn => m.atomicOk && (!dw || (evenReg vt && evenReg vc && evenReg vn))
  | .fence h kind scope => !h.u && (kind != .sc || scope == .sys)
  | .cctl h op an => !h.u && (op != .l1inv || an == 0)
  | .qsub _ vd _ _ => evenReg vd
  | .cbinit _ vp _ _ | .sleepuntil _ vp | .sleepuntilChk _ vp _ _ => evenReg vp
  | .accst _ _ _ ty rnd va => evenReg va && (ty != .a56 || rnd == .rne)
  | .accld _ _ _ _ va => evenReg va
  | .obres _ _ _ vp | .bres _ _ _ vp => evenReg vp
  | .mxloop _ _ _ _ vq sp _ kc n mob => quadReg vq && kc != 0 && n != 0 && (sp != .dense || mob == 0)
  | .accrd _ vd _ ty rnd _ => ty != .a56 || (rnd == .rne && evenReg vd)
  | .accwr _ vs _ ty _ _ => ty != .a56 || evenReg vs
  | .mxsta _ vq => quadReg vq
  | .mkrcp h _ _ => !h.c && !h.u
  | .rmat h _ => !h.u
  | .scopeOpen h vlo vhi => !h.u && vlo.toNat ≤ vhi.toNat && vhi.toNat < 62
  | .call h _ fs => !h.u && fs != 0
  | .calli h vp _ fs => !h.u && evenReg vp && fs != 0
  | .jmpi h vp _ => !h.u && evenReg vp
  | .jmpiDesc h vp _ _ => !h.u && evenReg vp
  | .rmatAll h | .scopeClose h | .bra h .. | .jmp h .. | .ret h | .pad h .. | .rjoinSet h .. | .rjoinAdd h ..
  | .rjoinWait h .. | .exit h | .bar h .. | .waitSleep h .. | .waitYield h | .loop h .. | .hexit h | .habort h
  | .trap h .. | .tret h | .icinv h .. | .icinvAll h | .bkpt h .. => !h.u
  | .henter h vd _ nres mask =>
    !h.u && 1 ≤ popCount mask && popCount mask ≤ 8 && nres.toNat ≤ 4 && nres.toNat ≤ popCount mask
      && !mask.getLsbD vd.toNat && !stackReg vd
  | .hstore h sz vs _ _ => !h.u && (sz != .d || evenReg vs)
  | .mark h tag _ => !h.u && !h.c && tag != 0
  | .cut h tag vd _ => !h.u && !h.c && tag != 0 && !stackReg vd
  | .graft h vh | .tdrop h vh => !h.u && !h.c && !stackReg vh
  | .unmark h _ => !h.u && !h.c
  | .tinfo h vd vh => !h.u && !h.c && evenReg vd && !stackReg vd && !stackReg vh
  | .launch h vp _ => !h.u && evenReg vp
  | .mfs _ vd sr => !sr.wide || evenReg vd
  | .mts _ vd sr => sr.writable && (!sr.wide || evenReg vd)
  | .reservedMajor w =>
    let mj := (w.toNat / 2 ^ 22) % 128
    (0x34 ≤ mj && mj ≤ 0x3B) || (0x55 ≤ mj && mj ≤ 0x57) || mj == 0x5F || mj == 0x6B
      || (mj == 0x7F && 6 ≤ (w.toNat / 2 ^ 12) % 16)
  | .idle port _ | .write port _ | .read port _ | .atomic port _ | .readResp port _ | .atomicResp port _ | .ack port _
  | .bulk port _ | .nak port _ | .drain port _ | .drainAck port _ | .replayTimeout port | .crcFailure port
  | .flitSlot port => port < 18
  | .portRetrain port failures => port < 18 && failures ≤ 3
  | .routeUpdate dest _ => dest < 512
  | .copyChunk core | .dispatchDecision core | .coreRevocation core | .contextResume _ core => core < 256
  | .coreStateError core _ => core < 256
  | .packetNop slot | .packetLaunch slot | .packetSignal slot | .packetWait slot | .packetFence slot
  | .reservedPacket slot => slot < 64
  | .rescueTimeout part | .tenantStop part | .partcfg part _ | .partquads part _ | .fltrespReplay part _
  | .fltrespUnresolvable part _ | .fltcfg part _ | .fltcons part _ | .fltbase part _ => part < 16
  | .doorbell fn _ => fn < 256
  | .queueMap q | .queueReset q => q < 4096
  | .cxlPortFailure port => port < 8
  | .tdispTransition vf _ => vf < 256
  | _ => true

end Sys2Proof
end

