-- ==== Sys2Proof/Decode.lean ====
section
/-! DEFINITION. The decoder of first words and extension words (R17, R25, R26, R29 to R32 and the chapters' own layouts), total
on any words and on any bytes, rejecting by name; and after it the encoder, written from the same tables. -/

namespace Sys2Proof

/-- Why a word is no instruction: the causes of R32 at orders 1, 3 and 4, and a byte list that ends inside a word. -/
inductive DecodeError | illegalOp | badForm | truncated
  deriving DecidableEq, Repr

/-- Bits [lo+n-1 : lo] of a word. -/
def fld (w : Word) (lo n : Nat) : BitVec n := w.extractLsb' lo n
/-- Bit k of a word. -/
def bitOf (w : Word) (k : Nat) : Bool := w.getLsbD k
/-- The control bits of a first word (R17). -/
def hdrOf (w : Word) : Hdr := ⟨bitOf w 31, bitOf w 30, bitOf w 29⟩
/-- Bits [lo+n-1 : lo] are zero. -/
def zeroAt (w : Word) (lo n : Nat) : Bool := fld w lo n == 0

def ShfOp.of : Nat → Option ShfOp | 0 => some .shl | 1 => some .shr | 2 => some .sra | 3 => some .rol | _ => none
def MinMaxOp.of : Nat → Option MinMaxOp | 0 => some .min | 1 => some .max | 2 => some .minu | 3 => some .maxu | _ => none
def UnaryOp.of : Nat → Option UnaryOp
  | 0 => some .clz | 1 => some .popc | 2 => some .brev | 3 => some .abs | 4 => some .neg | 5 => some .not | _ => none
def BfeOp.of : Nat → Option BfeOp | 0 => some .zx | 1 => some .sx | _ => none
def Int64Op.of : Nat → Option Int64Op
  | 0 => some .add64 | 1 => some .sub64 | 2 => some .mulw | 3 => some .mulwu | _ => none
def ICond.of : Nat → ICond
  | 0 => .eq | 1 => .ne | 2 => .lt | 3 => .le | 4 => .gt | 5 => .ge | 6 => .ltu | _ => .geu
def FCond.of : Nat → FCond
  | 0 => .eq | 1 => .ne | 2 => .lt | 3 => .le | 4 => .gt | 5 => .ge | 6 => .num | _ => .nan
def PcombOp.of : Nat → PcombOp | 0 => .and | 1 => .or | 2 => .xor | _ => .andn
def VoteKind.of : Nat → Option VoteKind
  | 0 => some .all | 1 => some .any | 2 => some .ballot | 3 => some .count | 4 => some .eq | _ => none
def ReduxOp.of : Nat → Option ReduxOp
  | 0 => some .radd | 1 => some .rmin | 2 => some .rmax | 3 => some .rand | 4 => some .ror | 5 => some .rxor | _ => none
def FMinMaxOp.of : Nat → Option FMinMaxOp
  | 0 => some .fmin | 1 => some .fmax | 2 => some .minnum | 3 => some .maxnum | _ => none
def FunOp.of : Nat → Option FunOp
  | 0 => some .fabs | 1 => some .fneg | 2 => some .frcp | 3 => some .frsq | 4 => some .fsqrt | 5 => some .fexp2
  | 6 => some .flog2 | 7 => some .ftanh | 8 => some .ffloor | 9 => some .fceil | 10 => some .ftrunc | 11 => some .frint
  | _ => none
def FReduxOp.of : Nat → Option FReduxOp
  | 0 => some .fradd | 1 => some .frmax | 2 => some .framax | 3 => some .frmin | _ => none
def CvtTy.of : Nat → Option CvtTy
  | 0 => some .f32 | 1 => some .f16 | 2 => some .bf16 | 3 => some .s32 | 4 => some .u32 | 5 => some .f16h
  | 6 => some .bf16h | _ => none
def Rnd.of : Nat → Option Rnd | 0 => some .rne | 1 => some .rz | 2 => some .sr | _ => none
def AgetSel.of : Nat → Option AgetSel
  | 0 => some .ptr | 1 => some .base | 2 => some .len | 3 => some .perm | 4 => some .rem | _ => none
def Scope.of : Nat → Option Scope
  | 0 => some .core | 1 => some .quad | 2 => some .die | 3 => some .pkg | 4 => some .pod | 5 => some .sys | _ => none
def Order.of : Nat → Order | 0 => .plain | 1 => .acqrel | 2 => .relaxed | _ => .sc
def LmSize.of : Nat → Option LmSize | 0 => some .w | 1 => some .d | 2 => some .q | _ => none
def AtomOp.of : Nat → Option AtomOp
  | 0 => some .add | 1 => some .and | 2 => some .or | 3 => some .xor | 4 => some .min | 5 => some .max | 6 => some .minu
  | 7 => some .maxu | 8 => some .xchg | 9 => some .incw | 10 => some .decw | 11 => some .fadd | 12 => some .fmin
  | 13 => some .fmax | _ => none
def FenceKind.of : Nat → FenceKind | 0 => .acq | 1 => .rel | 2 => .full | _ => .sc
def PrefTarget.of : Nat → Option PrefTarget | 0 => some .l1 | 1 => some .l2 | 2 => some .xl | _ => none
def CctlOp.of : Nat → Option CctlOp
  | 0 => some .l1inv | 1 => some .l2wb | 2 => some .l2evict | 3 => some .icpf | _ => none
def AccTy.of : Nat → AccTy | 0 => .f32 | 1 => .bf16 | 2 => .f16 | _ => .a56
def Sparsity.of : Nat → Option Sparsity | 0 => some .dense | 1 => some .s8 | 2 => some .s4 | _ => none
def HSize.of : Nat → HSize | 0 => .b | 1 => .h | 2 => .w | _ => .d
def Level.of : Nat → Option Level
  | 0 => some .core | 1 => some .quad | 2 => some .die | 3 => some .pkg | 4 => some .pod | _ => none
def SReg.of : Nat → Option SReg
  | 0x000 => some .laneid | 0x001 => some .groupid | 0x002 => some .teamid | 0x003 => some .nodeid | 0x004 => some .core
  | 0x005 => some .quad | 0x006 => some .die | 0x007 => some .pkg | 0x008 => some .nlanes | 0x010 => some .cycle
  | 0x011 => some .heartbeat | 0x020 => some .foldpol | 0x021 => some .matcnt | 0x022 => some .rngs | 0x030 => some .x0
  | 0x031 => some .x1 | 0x032 => some .x2 | 0x040 => some .trapcause | 0x041 => some .trappc | 0x042 => some .trapinfo
  | 0x050 => some .huskstat | _ => none

/-- A field value that must be listed: BAD_FORM otherwise. -/
def formed {α : Type} : Option α → Except DecodeError α
  | some a => .ok a
  | none => .error .badForm
/-- An fn value that the major's table must list: ILLEGAL_OP otherwise (R26 fn). -/
def listed {α : Type} : Option α → Except DecodeError α
  | some a => .ok a
  | none => .error .illegalOp
/-- Must-be-zero fields: BAD_FORM otherwise. -/
def need (b : Bool) (i : Except DecodeError Instr) : Except DecodeError Instr := if b then i else .error .badForm

/-- Format R (R25). -/
def decR (w : Word) (k : Hdr → BitVec 6 → BitVec 6 → BitVec 2 → BitVec 6 → BitVec 2 → Instr) : Except DecodeError Instr :=
  .ok (k (hdrOf w) (fld w 16 6) (fld w 10 6) (fld w 8 2) (fld w 2 6) (fld w 0 2))
/-- Format Q. -/
def decQ (w : Word) (k : Hdr → BitVec 6 → BitVec 6 → BitVec 6 → BitVec 4 → Instr) : Except DecodeError Instr :=
  .ok (k (hdrOf w) (fld w 16 6) (fld w 10 6) (fld w 4 6) (fld w 0 4))
/-- Format I. -/
def decI (w : Word) (k : Hdr → BitVec 6 → BitVec 6 → BitVec 10 → Instr) : Except DecodeError Instr :=
  .ok (k (hdrOf w) (fld w 16 6) (fld w 10 6) (fld w 0 10))
/-- Format F with its operation. -/
def decF {α : Type} (w : Word) (of : Nat → Option α) (k : Hdr → BitVec 6 → BitVec 6 → BitVec 6 → α → Instr) :
    Except DecodeError Instr :=
  (listed (of (fld w 0 4).toNat)).map fun op => k (hdrOf w) (fld w 16 6) (fld w 10 6) (fld w 4 6) op
/-- Format F with vb unused (R27). -/
def decF1 {α : Type} (w : Word) (of : Nat → Option α) (k : Hdr → BitVec 6 → BitVec 6 → α → Instr) :
    Except DecodeError Instr :=
  (listed (of (fld w 0 4).toNat)).bind fun op =>
    need (zeroAt w 4 6) (.ok (k (hdrOf w) (fld w 16 6) (fld w 10 6) op))
/-- Format K. -/
def decK (w : Word) (k : Hdr → BitVec 6 → BitVec 16 → Instr) : Except DecodeError Instr :=
  .ok (k (hdrOf w) (fld w 16 6) (fld w 0 16))
/-- The M-format operand (R25). -/
def mopOf (w : Word) : Except DecodeError MOp :=
  (formed (Scope.of (fld w 3 3).toNat)).map fun sc =>
    { an := fld w 12 4, vo := fld w 6 6, scope := sc, order := Order.of (fld w 1 2).toNat, nt := bitOf w 0 }
/-- Format M of loads and stores. -/
def decM (w : Word) (k : Hdr → BitVec 6 → MOp → Instr) : Except DecodeError Instr :=
  (mopOf w).map fun m => k (hdrOf w) (fld w 16 6) m
/-- Format M with order and scope zero (LDK). -/
def decMk (w : Word) (k : Hdr → BitVec 6 → BitVec 4 → BitVec 6 → Bool → Instr) : Except DecodeError Instr :=
  need (zeroAt w 1 5) (.ok (k (hdrOf w) (fld w 16 6) (fld w 12 4) (fld w 6 6) (bitOf w 0)))
/-- Format LM. -/
def decLm (w : Word) (k : Hdr → BitVec 6 → BitVec 6 → LmSize → BitVec 8 → Instr) : Except DecodeError Instr :=
  (formed (LmSize.of (fld w 8 2).toNat)).map fun sz => k (hdrOf w) (fld w 16 6) (fld w 10 6) sz (fld w 0 8)
/-- Format N. -/
def decN (w : Word) (k : Hdr → BitVec 6 → BitVec 6 → BitVec 2 → Rnd → BitVec 6 → Instr) : Except DecodeError Instr :=
  (formed (Rnd.of (fld w 6 2).toNat)).map fun r => k (hdrOf w) (fld w 16 6) (fld w 10 6) (fld w 8 2) r (fld w 0 6)

/-- The op field of an extension word of R84: reserved values are ILLEGAL_OP. -/
def atomOpOf (e : Word) : Except DecodeError AtomOp := listed (AtomOp.of (fld e 27 5).toNat)
/-- The size field of R84: W or D. -/
def atomDw (e : Word) : Except DecodeError Bool :=
  match (fld e 25 2).toNat with
  | 0 => .ok false
  | 1 => .ok true
  | _ => .error .badForm

/-- ATOM, ATOML and RED share the extension word of R84, with vn zero. -/
def decAtom (w e : Word) (k : MOp → AtomOp → Bool → BitVec 6 → Except DecodeError Instr) : Except DecodeError Instr :=
  (atomOpOf e).bind fun op => (mopOf w).bind fun m => (atomDw e).bind fun dw =>
    need (zeroAt e 0 19) (k m op dw (fld e 19 6))

/-- SYS (0x7F): MFS, MTS, TRAP, TRET, ICINV, BKPT (R188, R337 to R339). -/
def decSys (w : Word) : Except DecodeError Instr :=
  let h := hdrOf w
  match (fld w 12 4).toNat with
  | 0 => (formed (SReg.of (fld w 0 12).toNat)).map fun r => .mfs h (fld w 16 6) r
  | 1 => (formed (SReg.of (fld w 0 12).toNat)).map fun r => .mts h (fld w 16 6) r
  | 2 => need (zeroAt w 16 6) (.ok (.trap h (fld w 0 12)))
  | 3 => need (zeroAt w 16 6 && zeroAt w 0 12) (.ok (.tret h))
  | 4 => need (zeroAt w 16 6 && zeroAt w 5 7)
      (if bitOf w 4 then need (zeroAt w 0 4) (.ok (.icinvAll h)) else .ok (.icinv h (fld w 0 4)))
  | 5 => need (zeroAt w 16 6) (.ok (.bkpt h (fld w 0 12)))
  | _ => .error .illegalOp

/-- HUSK (0x7C), by payload bits [21:18] (R355). -/
def decHusk (w e : Word) : Except DecodeError Instr :=
  let h := hdrOf w
  match (fld w 18 4).toNat with
  | 0 => need (zeroAt w 0 5) (.ok (.henter h (fld w 12 6) (fld w 8 4) (fld w 5 3) e))
  | 1 => .ok (.hstore h (HSize.of (fld w 16 2).toNat) (fld w 10 6) (fld w 6 4) (fld w 0 6))
  | 2 => need (zeroAt w 0 18) (.ok (.hexit h))
  | 3 => need (zeroAt w 0 18) (.ok (.habort h))
  | _ => .error .illegalOp

/-- TILLER (0x7D), by payload bits [21:18] (R383). -/
def decTiller (w e : Word) : Except DecodeError Instr :=
  let h := hdrOf w
  match (fld w 18 4).toNat with
  | 0 => need (zeroAt w 0 10) (.ok (.mark h (fld w 10 8) e))
  | 1 => need (zeroAt w 0 4) (.ok (.cut h (fld w 10 8) (fld w 4 6) e))
  | 2 => need (zeroAt w 0 12) (.ok (.graft h (fld w 12 6)))
  | 3 => need (zeroAt w 0 10) (.ok (.unmark h (fld w 10 8)))
  | 4 => need (zeroAt w 0 12) (.ok (.tdrop h (fld w 12 6)))
  | 5 => need (zeroAt w 0 6) (.ok (.tinfo h (fld w 12 6) (fld w 6 6)))
  | _ => .error .illegalOp

/-- Majors 0x00 to 0x1F (R30). -/
def decInt (w e : Word) (mj : Nat) : Except DecodeError Instr :=
  let h := hdrOf w
  match mj with
  | 0x00 => need (zeroAt w 0 22 && !bitOf w 31 && !bitOf w 30) (.ok (.nop (bitOf w 29)))
  | 0x01 => decR w .iadd
  | 0x02 => decR w .isub
  | 0x03 => decR w .imul
  | 0x04 => decR w .imulh
  | 0x05 => decR w .imulhu
  | 0x06 => decQ w .imad
  | 0x07 => decI w .iaddi
  | 0x08 => decR w .and
  | 0x09 => decR w .or
  | 0x0A => decR w .xor
  | 0x0B => decI w .andi
  | 0x0C => decI w .ori
  | 0x0D => decI w .xori
  | 0x0E => decF w ShfOp.of .shf
  | 0x0F => need (zeroAt w 5 3) ((listed (ShfOp.of (fld w 8 2).toNat)).map fun op =>
      .shfi h (fld w 16 6) (fld w 10 6) op (fld w 0 5))
  | 0x10 => decF w MinMaxOp.of .minmax
  | 0x11 => decF1 w UnaryOp.of .unary
  | 0x12 => decF w BfeOp.of .bfe
  | 0x13 => decQ w .bfi
  | 0x14 => .ok (.sel h (fld w 16 6) (fld w 10 6) (fld w 4 6) (fld w 1 3) (bitOf w 0))
  | 0x15 => .ok (.icmp h (fld w 19 3) (ICond.of (fld w 16 3).toNat) (fld w 10 6) (fld w 4 6) (fld w 1 3) (bitOf w 0))
  | 0x16 => .ok (.icmpi h (fld w 19 3) (ICond.of (fld w 16 3).toNat) (fld w 10 6) (fld w 0 10))
  | 0x17 => need (zeroAt w 0 11) (.ok (.pcomb h (fld w 19 3) (fld w 16 3) (fld w 13 3) (PcombOp.of (fld w 11 2).toNat)))
  | 0x18 => need (zeroAt w 0 8) (.ok (.mov h (fld w 16 6) (fld w 10 6) (fld w 8 2)))
  | 0x19 => decK w .movi
  | 0x1A => decK w .movhi
  | 0x1B => need (zeroAt w 0 16) (.ok (.li h (fld w 16 6) e))
  | 0x1C => need (zeroAt w 0 10) ((formed (VoteKind.of (fld w 10 3).toNat)).map fun k =>
      .vote h (fld w 16 6) (fld w 13 3) k)
  | 0x1D => need (zeroAt w 8 2) (.ok (.shfl h (fld w 16 6) (fld w 10 6) (fld w 2 6) (fld w 0 2)))
  | 0x1E => decF w Int64Op.of .int64
  | 0x1F => decF1 w ReduxOp.of .redux
  | _ => .error .illegalOp

/-- Majors 0x20 to 0x3F. -/
def decFloat (w : Word) (mj : Nat) : Except DecodeError Instr :=
  let h := hdrOf w
  match mj with
  | 0x20 => decR w .fadd
  | 0x21 => decR w .fsub
  | 0x22 => decR w .fmul
  | 0x23 => decQ w .fma
  | 0x24 => decR w .fmac
  | 0x25 => decF w FMinMaxOp.of .fminmax
  | 0x26 => decF1 w FunOp.of .func
  | 0x27 => .ok (.fcmp h (fld w 19 3) (FCond.of (fld w 16 3).toNat) (fld w 10 6) (fld w 4 6) (fld w 1 3) (bitOf w 0))
  | 0x28 => decR w .hadd2
  | 0x29 => decR w .hmul2
  | 0x2A => decQ w .hfma2
  | 0x2B => decR w .hfmac2
  | 0x2C => (formed (CvtTy.of (fld w 6 4).toNat)).bind fun src => (formed (CvtTy.of (fld w 2 4).toNat)).bind fun dst =>
      (formed (Rnd.of (fld w 0 2).toNat)).map fun r => .cvt h (fld w 16 6) (fld w 10 6) src dst r
  | 0x2D => decN w .cvtn
  | 0x2E => decN w .cvtw
  | 0x2F => decR w .fscale
  | 0x30 => decF1 w FReduxOp.of .fredux
  | 0x31 => need (zeroAt w 16 4 && zeroAt w 0 10) (.ok (.fmtset h (fld w 20 2) (fld w 10 6)))
  | 0x32 => decR w .dot4s
  | 0x33 => decR w .dot4u
  | 0x3C => need (zeroAt w 16 2 && zeroAt w 0 10) (.ok (.aset h (fld w 18 4) (fld w 10 6)))
  | 0x3D => need (zeroAt w 16 1) (if bitOf w 17 then .ok (.aadvImm h (fld w 18 4) (fld w 0 16))
      else need (zeroAt w 0 10) (.ok (.aadvPair h (fld w 18 4) (fld w 10 6))))
  | 0x3E => need (zeroAt w 0 9) ((formed (AgetSel.of (fld w 9 3).toNat)).map fun sel =>
      .aget h (fld w 16 6) (fld w 12 4) sel)
  | 0x3F => .ok (.anarrow h (fld w 18 4) (fld w 14 4) (fld w 8 6) (fld w 0 8))
  | _ => .error .illegalOp

/-- Majors 0x40 to 0x5F. A CAS whose op is 14 to 31 breaks two lines of R84 (op must be 0, and a reserved op): the model reads it as BAD_FORM, by CAS's own line (DESIGN CHOICE, log entry 70). -/
def decMem (w e : Word) (mj : Nat) : Except DecodeError Instr :=
  let h := hdrOf w
  match mj with
  | 0x40 => decM w .ldB
  | 0x41 => decM w .ldH
  | 0x42 => decM w .ldW
  | 0x43 => decM w .ldD
  | 0x44 => decM w .ldQ
  | 0x45 => decM w .stB
  | 0x46 => decM w .stH
  | 0x47 => decM w .stW
  | 0x48 => decM w .stD
  | 0x49 => decM w .stQ
  | 0x4A => decMk w .ldkW
  | 0x4B => decMk w .ldkD
  | 0x4C => decLm w .ldl
  | 0x4D => decLm w .stl
  | 0x4E => decAtom w e fun m op dw vs => .ok (.atom h (fld w 16 6) m op dw vs)
  | 0x4F => decAtom w e fun m op dw vs => need (m.an == 0 && m.scope == .core)
      (.ok (.atoml h (fld w 16 6) m.vo m.order m.nt op dw vs))
  | 0x50 => (atomOpOf e).bind fun op => if op == .xchg then .error .illegalOp else
      decAtom w e fun m op dw vs => need (zeroAt w 16 6) (.ok (.red h m op dw vs))
  | 0x51 => (mopOf w).bind fun m => (atomDw e).bind fun dw =>
      need (zeroAt e 27 5 && zeroAt e 0 13) (.ok (.cas h (fld w 16 6) m dw (fld e 19 6) (fld e 13 6)))
  | 0x52 => need (zeroAt w 0 17) ((formed (Scope.of (fld w 17 3).toNat)).map fun sc =>
      .fence h (FenceKind.of (fld w 20 2).toNat) sc)
  | 0x53 => need (zeroAt w 1 5) ((formed (PrefTarget.of (fld w 16 6).toNat)).map fun t =>
      .pref h t (fld w 12 4) (fld w 6 6) (bitOf w 0))
  | 0x54 => (listed (CctlOp.of (fld w 19 3).toNat)).bind fun op => need (zeroAt w 0 15) (.ok (.cctl h op (fld w 15 4)))
  | 0x58 => .ok (.qsub h (fld w 16 6) (fld w 10 6) (fld w 0 10))
  | 0x59 => need (zeroAt w 9 1) (.ok (.cbinit h (fld w 16 6) (fld w 10 6) (fld w 0 9)))
  | 0x5A => need (zeroAt w 16 6 && zeroAt w 9 1) (.ok (.cbwait h (fld w 10 6) (fld w 0 9)))
  | 0x5B => if bitOf w 9 then .ok (.sleepuntilChk h (fld w 16 6) (fld w 10 6) (fld w 0 9))
      else need (zeroAt w 0 16) (.ok (.sleepuntil h (fld w 16 6)))
  | 0x5C => need (zeroAt w 0 18) (.ok (.publish h (fld w 18 4)))
  | 0x5D => need (zeroAt w 12 1 && zeroAt w 0 6) ((formed (Rnd.of (fld w 13 2).toNat)).map fun r =>
      .accst h (fld w 18 4) (bitOf w 17) (AccTy.of (fld w 15 2).toNat) r (fld w 6 6))
  | 0x5E => need (zeroAt w 12 3 && zeroAt w 0 6)
      (.ok (.accld h (fld w 18 4) (bitOf w 17) (AccTy.of (fld w 15 2).toNat) (fld w 6 6)))
  | _ => .error .illegalOp

/-- Majors 0x60 to 0x6F. -/
def decMx (w e : Word) (mj : Nat) : Except DecodeError Instr :=
  let h := hdrOf w
  match mj with
  | 0x60 => need (zeroAt w 12 1 && zeroAt w 0 6) (.ok (.obres h (fld w 16 6) (fld w 13 3) (fld w 6 6)))
  | 0x61 => need (zeroAt w 16 6 && zeroAt w 0 13) (.ok (.obrel h (fld w 13 3)))
  | 0x62 => need (zeroAt w 12 2 && zeroAt w 0 6) (.ok (.bres h (fld w 16 6) (fld w 14 2) (fld w 6 6)))
  | 0x63 => need (zeroAt w 16 6 && zeroAt w 0 14) (.ok (.brel h (fld w 14 2)))
  | 0x64 => need (zeroAt w 0 7 && zeroAt e 0 5) ((formed (Sparsity.of (fld w 8 2).toNat)).map fun sp =>
      .mxloop h (bitOf w 21) (fld w 18 3) (fld w 16 2) (fld w 10 6) sp (bitOf w 7) (fld e 20 12) (fld e 8 12) (fld e 5 3))
  | 0x65 => need (zeroAt w 0 22) (.ok (.mxwait h))
  | 0x66 => need (zeroAt w 0 20) (.ok (if bitOf w 20 then .acczFree h (bitOf w 21) else .accz h (bitOf w 21)))
  | 0x67 => need (zeroAt w 0 5) ((formed (Rnd.of (fld w 11 2).toNat)).map fun r =>
      .accrd h (fld w 16 6) (bitOf w 15) (AccTy.of (fld w 13 2).toNat) r (fld w 5 6))
  | 0x68 => need (zeroAt w 0 5 && zeroAt w 11 1)
      (.ok (.accwr h (fld w 16 6) (bitOf w 15) (AccTy.of (fld w 13 2).toNat) (bitOf w 12) (fld w 5 6)))
  | 0x69 => need (zeroAt w 0 21) (.ok (if bitOf w 21 then .mxfrzThaw h else .mxfrz h))
  | 0x6A => need (zeroAt w 0 16) (.ok (.mxsta h (fld w 16 6)))
  | 0x6C => need (zeroAt w 0 13) (.ok (.mkrcp h (fld w 16 6) (fld w 13 3)))
  | 0x6D => need (zeroAt w 0 15) (if bitOf w 15 then need (zeroAt w 16 6) (.ok (.rmatAll h))
      else .ok (.rmat h (fld w 16 6)))
  | 0x6E => need (zeroAt w 0 10) (.ok (.rstat h (fld w 16 6) (fld w 10 6)))
  | 0x6F => need (zeroAt w 0 9) (if bitOf w 21 then need (zeroAt w 9 12) (.ok (.scopeClose h))
      else .ok (.scopeOpen h (fld w 15 6) (fld w 9 6)))
  | _ => .error .illegalOp

/-- Majors 0x70 to 0x7F. -/
def decCtl (w e : Word) (mj : Nat) : Except DecodeError Instr :=
  let h := hdrOf w
  match mj with
  | 0x70 => need (zeroAt e 0 8) (.ok (.bra h (fld w 19 3) (bitOf w 18) (fld w 0 18) (fld e 8 24)))
  | 0x71 => .ok (.jmp h (fld w 0 22))
  | 0x72 => .ok (.call h (fld w 6 16) (fld w 0 6))
  | 0x73 => need (zeroAt w 0 2) (.ok (.calli h (fld w 16 6) (fld w 8 8) (fld w 2 6)))
  | 0x74 => need (zeroAt w 0 3) (if bitOf w 3 then .ok (.jmpiDesc h (fld w 16 6) (fld w 8 8) (fld w 4 4))
      else need (zeroAt w 4 4) (.ok (.jmpi h (fld w 16 6) (fld w 8 8))))
  | 0x75 => need (zeroAt w 0 22) (.ok (.ret h))
  | 0x76 => need (zeroAt w 0 14) (.ok (.pad h (fld w 14 8)))
  | 0x77 => match (fld w 20 2).toNat with
    | 0 => need (zeroAt w 0 17) (.ok (.rjoinSet h (fld w 17 3)))
    | 1 => need (zeroAt w 0 17) (.ok (.rjoinAdd h (fld w 17 3)))
    | 2 => need (zeroAt w 0 17) (.ok (.rjoinWait h (fld w 17 3)))
    | _ => .error .illegalOp
  | 0x78 => need (zeroAt w 0 22) (.ok (.exit h))
  | 0x79 => need (zeroAt w 0 19) ((formed (Level.of (fld w 19 3).toNat)).map fun l => .bar h l)
  | 0x7A => match (fld w 20 2).toNat with
    | 0 => need (zeroAt w 16 4) (.ok (.waitSleep h (fld w 0 16)))
    | 1 => need (zeroAt w 0 20) (.ok (.waitYield h))
    | _ => .error .illegalOp
  | 0x7B => need (zeroAt w 0 12) (.ok (.loop h (fld w 16 6) (fld w 12 4)))
  | 0x7C => decHusk w e
  | 0x7D => decTiller w e
  | 0x7E => match (fld w 18 4).toNat with
    | 0 => need (zeroAt w 0 4) (.ok (.launch h (fld w 12 6) (fld w 4 8)))
    | _ => .error .illegalOp
  | 0x7F => decSys w
  | _ => .error .illegalOp

/-- The major opcode of a first word (R17). -/
def majorOf (w : Word) : Nat := (fld w 22 7).toNat

/-- The fields of the instruction whose first word is w and whose second word, if it has one, is e. -/
def parse (w e : Word) : Except DecodeError Instr :=
  let mj := majorOf w
  if mj < 0x20 then decInt w e mj
  else if mj < 0x40 then decFloat w mj
  else if mj < 0x60 then decMem w e mj
  else if mj < 0x70 then decMx w e mj
  else decCtl w e mj

/-- The decoder: orders 1, 3 and 4 of R32. -/
def decode (w e : Word) : Except DecodeError Instr :=
  (parse w e).bind fun i => if i.wellFormed then .ok i else .error .badForm

/-- Words that an instruction occupies, from its first word's major alone (R29). -/
def wordsOf (w : Word) : Nat :=
  match majorOf w with
  | 0x1B | 0x4E | 0x4F | 0x50 | 0x51 | 0x64 | 0x70 => 2
  | 0x7C => if (fld w 18 4).toNat = 0 then 2 else 1
  | 0x7D => if (fld w 18 4).toNat ≤ 1 then 2 else 1
  | _ => 1

/-- A little-endian word from four bytes (R3, R15). -/
def wordOfBytes (b0 b1 b2 b3 : Byte) : Word := b3 ++ b2 ++ b1 ++ b0

/-- The decoder on bytes: one instruction and the bytes after it. -/
def decodeBytes : List Byte → Except DecodeError (Instr × List Byte)
  | b0 :: b1 :: b2 :: b3 :: rest =>
    let w := wordOfBytes b0 b1 b2 b3
    if wordsOf w = 2 then
      match rest with
      | c0 :: c1 :: c2 :: c3 :: rest' => (decode w (wordOfBytes c0 c1 c2 c3)).map fun i => (i, rest')
      | _ => .error .truncated
    else (decode w 0).map fun i => (i, rest)
  | _ => .error .truncated

/-- The instruction that an instruction of nbits bits decodes to (the host's numbering: the first word is bits [31:0]). -/
def decodeTableWord (nbits w : Nat) : Option Instr :=
  let v := w % 2 ^ nbits
  match decode (BitVec.ofNat 32 v) (BitVec.ofNat 32 (v / 2 ^ 32)) with
  | .ok i => some i
  | .error _ => none

/-! ### The encoder -/

def ShfOp.code : ShfOp → BitVec 4 | .shl => 0 | .shr => 1 | .sra => 2 | .rol => 3
def MinMaxOp.code : MinMaxOp → BitVec 4 | .min => 0 | .max => 1 | .minu => 2 | .maxu => 3
def UnaryOp.code : UnaryOp → BitVec 4 | .clz => 0 | .popc => 1 | .brev => 2 | .abs => 3 | .neg => 4 | .not => 5
def BfeOp.code : BfeOp → BitVec 4 | .zx => 0 | .sx => 1
def Int64Op.code : Int64Op → BitVec 4 | .add64 => 0 | .sub64 => 1 | .mulw => 2 | .mulwu => 3
def ICond.code : ICond → BitVec 3
  | .eq => 0 | .ne => 1 | .lt => 2 | .le => 3 | .gt => 4 | .ge => 5 | .ltu => 6 | .geu => 7
def FCond.code : FCond → BitVec 3
  | .eq => 0 | .ne => 1 | .lt => 2 | .le => 3 | .gt => 4 | .ge => 5 | .num => 6 | .nan => 7
def PcombOp.code : PcombOp → BitVec 2 | .and => 0 | .or => 1 | .xor => 2 | .andn => 3
def VoteKind.code : VoteKind → BitVec 3 | .all => 0 | .any => 1 | .ballot => 2 | .count => 3 | .eq => 4
def ReduxOp.code : ReduxOp → BitVec 4 | .radd => 0 | .rmin => 1 | .rmax => 2 | .rand => 3 | .ror => 4 | .rxor => 5
def FMinMaxOp.code : FMinMaxOp → BitVec 4 | .fmin => 0 | .fmax => 1 | .minnum => 2 | .maxnum => 3
def FunOp.code : FunOp → BitVec 4
  | .fabs => 0 | .fneg => 1 | .frcp => 2 | .frsq => 3 | .fsqrt => 4 | .fexp2 => 5 | .flog2 => 6 | .ftanh => 7
  | .ffloor => 8 | .fceil => 9 | .ftrunc => 10 | .frint => 11
def FReduxOp.code : FReduxOp → BitVec 4 | .fradd => 0 | .frmax => 1 | .framax => 2 | .frmin => 3
def CvtTy.code : CvtTy → BitVec 4
  | .f32 => 0 | .f16 => 1 | .bf16 => 2 | .s32 => 3 | .u32 => 4 | .f16h => 5 | .bf16h => 6
def Rnd.code : Rnd → BitVec 2 | .rne => 0 | .rz => 1 | .sr => 2
def AgetSel.code : AgetSel → BitVec 3 | .ptr => 0 | .base => 1 | .len => 2 | .perm => 3 | .rem => 4
def Scope.code : Scope → BitVec 3 | .core => 0 | .quad => 1 | .die => 2 | .pkg => 3 | .pod => 4 | .sys => 5
def Order.code : Order → BitVec 2 | .plain => 0 | .acqrel => 1 | .relaxed => 2 | .sc => 3
def LmSize.code : LmSize → BitVec 2 | .w => 0 | .d => 1 | .q => 2
def AtomOp.code : AtomOp → BitVec 5
  | .add => 0 | .and => 1 | .or => 2 | .xor => 3 | .min => 4 | .max => 5 | .minu => 6 | .maxu => 7 | .xchg => 8
  | .incw => 9 | .decw => 10 | .fadd => 11 | .fmin => 12 | .fmax => 13
def FenceKind.code : FenceKind → BitVec 2 | .acq => 0 | .rel => 1 | .full => 2 | .sc => 3
def PrefTarget.code : PrefTarget → BitVec 6 | .l1 => 0 | .l2 => 1 | .xl => 2
def CctlOp.code : CctlOp → BitVec 3 | .l1inv => 0 | .l2wb => 1 | .l2evict => 2 | .icpf => 3
def AccTy.code : AccTy → BitVec 2 | .f32 => 0 | .bf16 => 1 | .f16 => 2 | .a56 => 3
def Sparsity.code : Sparsity → BitVec 2 | .dense => 0 | .s8 => 1 | .s4 => 2
def HSize.code : HSize → BitVec 2 | .b => 0 | .h => 1 | .w => 2 | .d => 3
def Level.code : Level → BitVec 3 | .core => 0 | .quad => 1 | .die => 2 | .pkg => 3 | .pod => 4
def SReg.code : SReg → BitVec 12
  | .laneid => 0x000 | .groupid => 0x001 | .teamid => 0x002 | .nodeid => 0x003 | .core => 0x004 | .quad => 0x005
  | .die => 0x006 | .pkg => 0x007 | .nlanes => 0x008 | .cycle => 0x010 | .heartbeat => 0x011 | .foldpol => 0x020
  | .matcnt => 0x021 | .rngs => 0x022 | .x0 => 0x030 | .x1 => 0x031 | .x2 => 0x032 | .trapcause => 0x040
  | .trappc => 0x041 | .trapinfo => 0x042 | .huskstat => 0x050

/-- A Boolean field of one bit. -/
def b1 (b : Bool) : BitVec 1 := BitVec.ofBool b
/-- C, U, S and the major: bits [31:22] (R17). -/
def top (h : Hdr) (mj : BitVec 7) : BitVec 10 := b1 h.c ++ b1 h.u ++ b1 h.s ++ mj

def encR (h : Hdr) (mj : BitVec 7) (vd va : BitVec 6) (pa : BitVec 2) (vb : BitVec 6) (pb : BitVec 2) : Word :=
  top h mj ++ vd ++ va ++ pa ++ vb ++ pb
def encQ (h : Hdr) (mj : BitVec 7) (vd va vb : BitVec 6) (vc : BitVec 4) : Word := top h mj ++ vd ++ va ++ vb ++ vc
def encI (h : Hdr) (mj : BitVec 7) (vd va : BitVec 6) (imm : BitVec 10) : Word := top h mj ++ vd ++ va ++ imm
def encM (h : Hdr) (mj : BitVec 7) (vt : BitVec 6) (m : MOp) : Word :=
  top h mj ++ vt ++ m.an ++ m.vo ++ m.scope.code ++ m.order.code ++ b1 m.nt
def encMk (h : Hdr) (mj : BitVec 7) (vt : BitVec 6) (an : BitVec 4) (vo : BitVec 6) (nt : Bool) : Word :=
  top h mj ++ vt ++ an ++ vo ++ (0 : BitVec 5) ++ b1 nt
def encLm (h : Hdr) (mj : BitVec 7) (vt vo : BitVec 6) (sz : LmSize) (imm : BitVec 8) : Word :=
  top h mj ++ vt ++ vo ++ sz.code ++ imm
def encP (h : Hdr) (mj : BitVec 7) (pd cond : BitVec 3) (va vb : BitVec 6) (pacc : BitVec 3) (comb : Bool) : Word :=
  top h mj ++ pd ++ cond ++ va ++ vb ++ pacc ++ b1 comb
def encN (h : Hdr) (mj : BitVec 7) (vd va : BitVec 6) (f : BitVec 2) (r : Rnd) (vb : BitVec 6) : Word :=
  top h mj ++ vd ++ va ++ f ++ r.code ++ vb
/-- A payload of 22 bits after the top. -/
def encOwn (h : Hdr) (mj : BitVec 7) (p : BitVec 22) : Word := top h mj ++ p
/-- The extension word of R84. -/
def encE (op : BitVec 5) (dw : Bool) (vs vn : BitVec 6) : Word := op ++ (0 : BitVec 1) ++ b1 dw ++ vs ++ vn ++ (0 : BitVec 13)

/-- The first word of an instruction (0 for an event). -/
def encode1 : Instr → Word
  | .nop s => encOwn ⟨false, false, s⟩ 0x00 0
  | .iadd h vd va pa vb pb => encR h 0x01 vd va pa vb pb
  | .isub h vd va pa vb pb => encR h 0x02 vd va pa vb pb
  | .imul h vd va pa vb pb => encR h 0x03 vd va pa vb pb
  | .imulh h vd va pa vb pb => encR h 0x04 vd va pa vb pb
  | .imulhu h vd va pa vb pb => encR h 0x05 vd va pa vb pb
  | .imad h vd va vb vc => encQ h 0x06 vd va vb vc
  | .iaddi h vd va imm => encI h 0x07 vd va imm
  | .and h vd va pa vb pb => encR h 0x08 vd va pa vb pb
  | .or h vd va pa vb pb => encR h 0x09 vd va pa vb pb
  | .xor h vd va pa vb pb => encR h 0x0A vd va pa vb pb
  | .andi h vd va imm => encI h 0x0B vd va imm
  | .ori h vd va imm => encI h 0x0C vd va imm
  | .xori h vd va imm => encI h 0x0D vd va imm
  | .shf h vd va vb op => encQ h 0x0E vd va vb op.code
  | .shfi h vd va op n => encI h 0x0F vd va ((op.code.setWidth 2 : BitVec 2) ++ (0 : BitVec 3) ++ n)
  | .minmax h vd va vb op => encQ h 0x10 vd va vb op.code
  | .unary h vd va op => encQ h 0x11 vd va 0 op.code
  | .bfe h vd va vb op => encQ h 0x12 vd va vb op.code
  | .bfi h vd va vb vc => encQ h 0x13 vd va vb vc
  | .sel h vd va vb p inv => top h 0x14 ++ vd ++ va ++ vb ++ p ++ b1 inv
  | .icmp h pd cond va vb pacc comb => encP h 0x15 pd cond.code va vb pacc comb
  | .icmpi h pd cond va imm => top h 0x16 ++ pd ++ cond.code ++ va ++ imm
  | .pcomb h pd pa pb op => top h 0x17 ++ pd ++ pa ++ pb ++ op.code ++ (0 : BitVec 11)
  | .mov h vd va pa => encR h 0x18 vd va pa 0 0
  | .movi h vd imm => top h 0x19 ++ vd ++ imm
  | .movhi h vd imm => top h 0x1A ++ vd ++ imm
  | .li h vd _ => top h 0x1B ++ vd ++ (0 : BitVec 16)
  | .vote h vd p kind => top h 0x1C ++ vd ++ p ++ kind.code ++ (0 : BitVec 10)
  | .shfl h vd va vb pb => encR h 0x1D vd va 0 vb pb
  | .int64 h vd va vb op => encQ h 0x1E vd va vb op.code
  | .redux h vd va op => encQ h 0x1F vd va 0 op.code
  | .fadd h vd va pa vb pb => encR h 0x20 vd va pa vb pb
  | .fsub h vd va pa vb pb => encR h 0x21 vd va pa vb pb
  | .fmul h vd va pa vb pb => encR h 0x22 vd va pa vb pb
  | .fma h vd va vb vc => encQ h 0x23 vd va vb vc
  | .fmac h vd va pa vb pb => encR h 0x24 vd va pa vb pb
  | .fminmax h vd va vb op => encQ h 0x25 vd va vb op.code
  | .func h vd va op => encQ h 0x26 vd va 0 op.code
  | .fcmp h pd cond va vb pacc comb => encP h 0x27 pd cond.code va vb pacc comb
  | .hadd2 h vd va pa vb pb => encR h 0x28 vd va pa vb pb
  | .hmul2 h vd va pa vb pb => encR h 0x29 vd va pa vb pb
  | .hfma2 h vd va vb vc => encQ h 0x2A vd va vb vc
  | .hfmac2 h vd va pa vb pb => encR h 0x2B vd va pa vb pb
  | .cvt h vd va src dst r => top h 0x2C ++ vd ++ va ++ src.code ++ dst.code ++ r.code
  | .cvtn h vd va f r vb => encN h 0x2D vd va f r vb
  | .cvtw h vd va f r vb => encN h 0x2E vd va f r vb
  | .fscale h vd va pa vb pb => encR h 0x2F vd va pa vb pb
  | .fredux h vd va op => encQ h 0x30 vd va 0 op.code
  | .fmtset h fd va => top h 0x31 ++ fd ++ (0 : BitVec 4) ++ va ++ (0 : BitVec 10)
  | .dot4s h vd va pa vb pb => encR h 0x32 vd va pa vb pb
  | .dot4u h vd va pa vb pb => encR h 0x33 vd va pa vb pb
  | .aset h an vq => top h 0x3C ++ an ++ (0 : BitVec 2) ++ vq ++ (0 : BitVec 10)
  | .aadvPair h an vp => top h 0x3D ++ an ++ (0 : BitVec 2) ++ vp ++ (0 : BitVec 10)
  | .aadvImm h an imm => top h 0x3D ++ an ++ (2 : BitVec 2) ++ imm
  | .aget h vd an sel => top h 0x3E ++ vd ++ an ++ sel.code ++ (0 : BitVec 9)
  | .anarrow h ad as vp clr => top h 0x3F ++ ad ++ as ++ vp ++ clr
  | .ldB h vt m => encM h 0x40 vt m
  | .ldH h vt m => encM h 0x41 vt m
  | .ldW h vt m => encM h 0x42 vt m
  | .ldD h vt m => encM h 0x43 vt m
  | .ldQ h vt m => encM h 0x44 vt m
  | .stB h vt m => encM h 0x45 vt m
  | .stH h vt m => encM h 0x46 vt m
  | .stW h vt m => encM h 0x47 vt m
  | .stD h vt m => encM h 0x48 vt m
  | .stQ h vt m => encM h 0x49 vt m
  | .ldkW h vt an vo nt => encMk h 0x4A vt an vo nt
  | .ldkD h vt an vo nt => encMk h 0x4B vt an vo nt
  | .ldl h vt vo sz imm => encLm h 0x4C vt vo sz imm
  | .stl h vt vo sz imm => encLm h 0x4D vt vo sz imm
  | .atom h vt m _ _ _ => encM h 0x4E vt m
  | .atoml h vt vo order nt _ _ _ => encM h 0x4F vt ⟨0, vo, .core, order, nt⟩
  | .red h m _ _ _ => encM h 0x50 0 m
  | .cas h vt m _ _ _ => encM h 0x51 vt m
  | .fence h kind sc => top h 0x52 ++ kind.code ++ sc.code ++ (0 : BitVec 17)
  | .pref h t an vo nt => encMk h 0x53 t.code an vo nt
  | .cctl h op an => top h 0x54 ++ op.code ++ an ++ (0 : BitVec 15)
  | .qsub h vd vo imm => encI h 0x58 vd vo imm
  | .cbinit h vp vo imm => encI h 0x59 vp vo ((0 : BitVec 1) ++ imm)
  | .cbwait h vo imm => encI h 0x5A 0 vo ((0 : BitVec 1) ++ imm)
  | .sleepuntil h vp => encI h 0x5B vp 0 0
  | .sleepuntilChk h vp vo imm => encI h 0x5B vp vo ((1 : BitVec 1) ++ imm)
  | .publish h an => top h 0x5C ++ an ++ (0 : BitVec 18)
  | .accst h an t ty r va => top h 0x5D ++ an ++ b1 t ++ ty.code ++ r.code ++ (0 : BitVec 1) ++ va ++ (0 : BitVec 6)
  | .accld h an t ty va => top h 0x5E ++ an ++ b1 t ++ ty.code ++ (0 : BitVec 3) ++ va ++ (0 : BitVec 6)
  | .obres h vd ob vp => top h 0x60 ++ vd ++ ob ++ (0 : BitVec 1) ++ vp ++ (0 : BitVec 6)
  | .obrel h ob => top h 0x61 ++ (0 : BitVec 6) ++ ob ++ (0 : BitVec 13)
  | .bres h vd b vp => top h 0x62 ++ vd ++ b ++ (0 : BitVec 2) ++ vp ++ (0 : BitVec 6)
  | .brel h b => top h 0x63 ++ (0 : BitVec 6) ++ b ++ (0 : BitVec 14)
  | .mxloop h t ob b vq sp z _ _ _ => top h 0x64 ++ b1 t ++ ob ++ b ++ vq ++ sp.code ++ b1 z ++ (0 : BitVec 7)
  | .mxwait h => encOwn h 0x65 0
  | .accz h t => top h 0x66 ++ b1 t ++ (0 : BitVec 21)
  | .acczFree h t => top h 0x66 ++ b1 t ++ (1 : BitVec 1) ++ (0 : BitVec 20)
  | .accrd h vd t ty r va => top h 0x67 ++ vd ++ b1 t ++ ty.code ++ r.code ++ va ++ (0 : BitVec 5)
  | .accwr h vs t ty add va => top h 0x68 ++ vs ++ b1 t ++ ty.code ++ b1 add ++ (0 : BitVec 1) ++ va ++ (0 : BitVec 5)
  | .mxfrz h => encOwn h 0x69 0
  | .mxfrzThaw h => encOwn h 0x69 0x200000
  | .mxsta h vq => top h 0x6A ++ vq ++ (0 : BitVec 16)
  | .mkrcp h vd n => top h 0x6C ++ vd ++ n ++ (0 : BitVec 13)
  | .rmat h vd => top h 0x6D ++ vd ++ (0 : BitVec 16)
  | .rmatAll h => encOwn h 0x6D 0x8000
  | .rstat h vd va => top h 0x6E ++ vd ++ va ++ (0 : BitVec 10)
  | .scopeOpen h vlo vhi => top h 0x6F ++ (0 : BitVec 1) ++ vlo ++ vhi ++ (0 : BitVec 9)
  | .scopeClose h => encOwn h 0x6F 0x200000
  | .bra h p inv off _ => top h 0x70 ++ p ++ b1 inv ++ off
  | .jmp h off => encOwn h 0x71 off
  | .call h off fs => top h 0x72 ++ off ++ fs
  | .calli h vp tag fs => top h 0x73 ++ vp ++ tag ++ fs ++ (0 : BitVec 2)
  | .jmpi h vp tag => top h 0x74 ++ vp ++ tag ++ (0 : BitVec 8)
  | .jmpiDesc h vp tag an => top h 0x74 ++ vp ++ tag ++ an ++ (8 : BitVec 4)
  | .ret h => encOwn h 0x75 0
  | .pad h tag => top h 0x76 ++ tag ++ (0 : BitVec 14)
  | .rjoinSet h j => top h 0x77 ++ (0 : BitVec 2) ++ j ++ (0 : BitVec 17)
  | .rjoinAdd h j => top h 0x77 ++ (1 : BitVec 2) ++ j ++ (0 : BitVec 17)
  | .rjoinWait h j => top h 0x77 ++ (2 : BitVec 2) ++ j ++ (0 : BitVec 17)
  | .exit h => encOwn h 0x78 0
  | .bar h lvl => top h 0x79 ++ lvl.code ++ (0 : BitVec 19)
  | .waitSleep h imm => top h 0x7A ++ (0 : BitVec 6) ++ imm
  | .waitYield h => encOwn h 0x7A 0x100000
  | .loop h vc n => top h 0x7B ++ vc ++ n ++ (0 : BitVec 12)
  | .henter h vd an nres _ => top h 0x7C ++ (0 : BitVec 4) ++ vd ++ an ++ nres ++ (0 : BitVec 5)
  | .hstore h sz vs an vo => top h 0x7C ++ (1 : BitVec 4) ++ sz.code ++ vs ++ an ++ vo
  | .hexit h => top h 0x7C ++ (2 : BitVec 4) ++ (0 : BitVec 18)
  | .habort h => top h 0x7C ++ (3 : BitVec 4) ++ (0 : BitVec 18)
  | .mark h tag _ => top h 0x7D ++ (0 : BitVec 4) ++ tag ++ (0 : BitVec 10)
  | .cut h tag vd _ => top h 0x7D ++ (1 : BitVec 4) ++ tag ++ vd ++ (0 : BitVec 4)
  | .graft h vh => top h 0x7D ++ (2 : BitVec 4) ++ vh ++ (0 : BitVec 12)
  | .unmark h tag => top h 0x7D ++ (3 : BitVec 4) ++ tag ++ (0 : BitVec 10)
  | .tdrop h vh => top h 0x7D ++ (4 : BitVec 4) ++ vh ++ (0 : BitVec 12)
  | .tinfo h vd vh => top h 0x7D ++ (5 : BitVec 4) ++ vd ++ vh ++ (0 : BitVec 6)
  | .launch h vp prio => top h 0x7E ++ (0 : BitVec 4) ++ vp ++ prio ++ (0 : BitVec 4)
  | .mfs h vd sr => top h 0x7F ++ vd ++ (0 : BitVec 4) ++ sr.code
  | .mts h vd sr => top h 0x7F ++ vd ++ (1 : BitVec 4) ++ sr.code
  | .trap h imm => top h 0x7F ++ (0 : BitVec 6) ++ (2 : BitVec 4) ++ imm
  | .tret h => top h 0x7F ++ (0 : BitVec 6) ++ (3 : BitVec 4) ++ (0 : BitVec 12)
  | .icinv h an => top h 0x7F ++ (0 : BitVec 6) ++ (4 : BitVec 4) ++ (0 : BitVec 8) ++ an
  | .icinvAll h => top h 0x7F ++ (0 : BitVec 6) ++ (4 : BitVec 4) ++ (0x010 : BitVec 12)
  | .bkpt h imm => top h 0x7F ++ (0 : BitVec 6) ++ (5 : BitVec 4) ++ imm
  | .reservedMajor w => w
  | _ => 0

/-- The second word of a two-word instruction (0 otherwise). -/
def encode2 : Instr → Word
  | .li _ _ lit => lit
  | .atom _ _ _ op dw vs => encE op.code dw vs 0
  | .atoml _ _ _ _ _ op dw vs => encE op.code dw vs 0
  | .red _ _ op dw vs => encE op.code dw vs 0
  | .cas _ _ _ dw vc vn => encE 0 dw vc vn
  | .mxloop _ _ _ _ _ _ _ kc n mob => kc ++ n ++ mob ++ (0 : BitVec 5)
  | .bra _ _ _ _ rpo => rpo ++ (0 : BitVec 8)
  | .henter _ _ _ _ mask => mask
  | .mark _ _ off => off
  | .cut _ _ _ regmask => regmask
  | _ => 0

/-- A row that stands for words of its own (an instruction), as opposed to an event or a refusal of a word. -/
def Instr.isWord : Instr → Bool
  | .nop .. | .iadd .. | .isub .. | .imul .. | .imulh .. | .imulhu .. | .imad .. | .iaddi .. | .and .. | .or ..
  | .xor .. | .andi .. | .ori .. | .xori .. | .shf .. | .shfi .. | .minmax .. | .unary .. | .bfe .. | .bfi ..
  | .sel .. | .icmp .. | .icmpi .. | .pcomb .. | .mov .. | .movi .. | .movhi .. | .li .. | .vote .. | .shfl ..
  | .int64 .. | .redux .. | .fadd .. | .fsub .. | .fmul .. | .fma .. | .fmac .. | .fminmax .. | .func .. | .fcmp ..
  | .hadd2 .. | .hmul2 .. | .hfma2 .. | .hfmac2 .. | .cvt .. | .cvtn .. | .cvtw .. | .fscale .. | .fredux ..
  | .fmtset .. | .dot4s .. | .dot4u .. | .aset .. | .aadvPair .. | .aadvImm .. | .aget .. | .anarrow .. | .ldB ..
  | .ldH .. | .ldW .. | .ldD .. | .ldQ .. | .stB .. | .stH .. | .stW .. | .stD .. | .stQ .. | .ldkW .. | .ldkD ..
  | .ldl .. | .stl .. | .atom .. | .atoml .. | .red .. | .cas .. | .fence .. | .pref .. | .cctl .. | .qsub ..
  | .cbinit .. | .cbwait .. | .sleepuntil .. | .sleepuntilChk .. | .publish .. | .accst .. | .accld .. | .obres ..
  | .obrel .. | .bres .. | .brel .. | .mxloop .. | .mxwait .. | .accz .. | .acczFree .. | .accrd .. | .accwr ..
  | .mxfrz .. | .mxfrzThaw .. | .mxsta .. | .mkrcp .. | .rmat .. | .rmatAll .. | .rstat .. | .scopeOpen ..
  | .scopeClose .. | .bra .. | .jmp .. | .call .. | .calli .. | .jmpi .. | .jmpiDesc .. | .ret .. | .pad ..
  | .rjoinSet .. | .rjoinAdd .. | .rjoinWait .. | .exit .. | .bar .. | .waitSleep .. | .waitYield .. | .loop ..
  | .henter .. | .hstore .. | .hexit .. | .habort .. | .mark .. | .cut .. | .graft .. | .unmark .. | .tdrop ..
  | .tinfo .. | .launch .. | .mfs .. | .mts .. | .trap .. | .tret .. | .icinv .. | .icinvAll .. | .bkpt .. => true
  | _ => false

/-- The words of an instruction, in code order; an event has none. -/
def encode (i : Instr) : List Word :=
  if i.isWord then (if i.words = 2 then [encode1 i, encode2 i] else [encode1 i]) else []

end Sys2Proof
end

