-- ==== Sys2Proof/Machine/State.lean ====
section
/-! DEFINITION. The state of one package of Ozvex-1 as plain data, and the state right after power-on reset. Section numbers in the
docstrings are the rules of spec/ that name each piece of state. Register files are tables with a default (Word.lean):
an index that no entry covers reads as the default, so a register that nothing has written reads its reset value. -/

namespace Sys2Proof.Machine

/-- Sparse storage: (address, byte) pairs, addresses strictly rising, no listed byte 0 (see Memory.wf in Mem.lean). -/
abbrev Mem := List Host.Cell

/-! ### A group's registers (R33, R145, R153) -/

/-- An address descriptor (R68). -/
structure Desc where
  pointer : DWord
  base : DWord
  length : BitVec 48
  perm : BitVec 16
  deriving DecidableEq, Repr

/-- The null descriptor, which passes no access (R69). -/
def Desc.null : Desc := ⟨0, 0, 0, 0⟩

/-- A set of registers of every kind that a recipe can pin (R152, R163). -/
structure Pins where
  v : BitVec 64
  p : BitVec 8
  x : BitVec 3
  a : BitVec 16
  f : BitVec 4
  deriving DecidableEq, Repr

/-- No register at all. -/
def Pins.none : Pins := ⟨0, 0, 0, 0, 0⟩

/-- A recipe record (R153, R163): the slice's PC and words, vd, the lanes M and the pinned inputs. -/
structure Recipe where
  pc : DWord
  words : List Word
  vd : BitVec 6
  m : Mask
  pins : Pins
  deriving DecidableEq, Repr

/-- How a vector register is held (R145). -/
inductive Hold
  | empty
  | rows (vals : List Word) (poison : Mask)
  | uniform (val : Word) (poison : Bool)
  | folded
  | spilled (vals : List Word) (poison : Mask)
  deriving DecidableEq, Repr

/-- A vector register: how it is held, its recipe when it has one (R145, R153), and its source locks (R148). -/
structure VReg where
  hold : Hold
  recipe : Option Recipe
  locks : Nat
  deriving DecidableEq, Repr

/-- An EMPTY register (R145). -/
def VReg.empty : VReg := ⟨.empty, none, 0⟩

/-- A loop record (R302), the words of the body that one of its core's loop buffers holds, and whether an ICINV over the body has made them old
(R268, R305). -/
structure LoopRec where
  start : DWord
  stop : DWord
  remaining : Word
  buf : List (Nat × Word)
  old : Bool
  deriving DecidableEq, Repr

/-- The slice of a MKRCP in its first execution (R150 to R153): the slice's first word, its words, vd, the lanes at the
MKRCP, the inputs pinned and the registers written so far, and whether the conditions of R153 still hold. -/
structure SliceRun where
  mkrcp : DWord
  first : DWord
  words : List Word
  vd : BitVec 6
  m : Mask
  pins : Pins
  written : Pins
  ok : Bool
  deriving DecidableEq, Repr

/-- Why a path that holds a slot does not issue although its registers are ready: WAIT.SLEEP until a cycle (R301), or an address
whose page fault must be resolved before a fetch can go on (R16, R150, R288, R333); or answers of another package with values that a slice, the stack or a fetch needs (R43, R82, R126, R286), `ask` while a word of code is still to be asked for. -/
inductive Wait
  | sleep (until_ : Nat)
  | page (va : Nat)
  | remote (tags : List Nat)
  | ask (va pa : Nat)
  deriving DecidableEq, Repr

/-- A path in a program-counter slot (R274, R345); `pinned` where the GRAFT at its pc has pinned its slots and not yet copied them (R386, R391). -/
structure Path where
  pc : DWord
  mask : Mask
  rpc : DWord
  loop : Option LoopRec
  slice : Option SliceRun
  wait : Option Wait
  pinned : Bool
  deriving DecidableEq, Repr

/-- The two program-counter slots (R274). -/
inductive SlotId | a | b
  deriving DecidableEq, Repr

/-- Kinds of divergence entries (R277). -/
inductive EntryKind
  | join
  | parked
  | held (bar : Nat) (rel : Bool)
  deriving DecidableEq, Repr

/-- A divergence stack entry (R277). -/
structure DivEntry where
  kind : EntryKind
  pc : DWord
  mask : Mask
  rpc : DWord
  deriving DecidableEq, Repr

/-- The trap state of a group (R334, R344): DF marks a deferred PAGE_FATAL or ADDR_PERM of R64. -/
structure TrapState where
  level : Bool
  slot : SlotId
  df : Bool
  cause : BitVec 8
  pc : DWord
  info : DWord
  savedA : Option Path
  savedB : Option Path
  deriving DecidableEq, Repr

/-- A trap about to be taken: its cause, TRAPINFO, TRAPPC, and whether it is one of R64. -/
structure TrapReq where
  cause : BitVec 8
  info : DWord
  pc : DWord
  df : Bool
  deriving DecidableEq, Repr

/-- Poison marks of up to 16 bytes: bit 0 for the low 8 bytes, bit 1 for the high 8 (R141: the granule is the 64-bit word). -/
abbrev Marks := BitVec 2

/-- One lane's part of a memory instruction: its effective address and its store data, with the data's marks (R60, R142). -/
structure LaneAcc where
  lane : Nat
  ea : Nat
  data : BitVec 128
  poison : Marks
  deriving DecidableEq, Repr

/-- What an operand-log entry waits to do: an access, to be replayed (R63); the regeneration of a folded register (R161), named by the fault; or the
issue, once more, of an instruction whose own accesses come before its other effects (R286, R356, R383); or the effect of a register instruction, whose path has gone on,
once the register named is regenerated (R37, R161). -/
inductive LogKind
  | access
  | regen (r : BitVec 6)
  | again
  | perform (r : BitVec 6)
  deriving DecidableEq, Repr

/-- An operand-log entry (R60, R346 LOG): the instruction, its PC and slot, the active mask, the lanes' accesses, the pages still
untranslated, the cycle at which it has waited for the orphan threshold (R65), what it waits to do, and whether later accesses of its lanes perform
after it (an acquire or sc access by its order, its capsule or its page: R258, R261, R264); `seq` is the step at which it issued, which orders a group's accesses (R64). -/
structure LogEntry where
  instr : Instr
  pc : DWord
  slot : SlotId
  mask : Mask
  lanes : List LaneAcc
  pages : List Nat
  due : Nat
  kind : LogKind
  acq : Bool
  seq : Nat
  deriving DecidableEq, Repr

/-- What a whole group sleeps for (R24 rule 4): the instruction named issues again when the sleep ends, unless its own
event completes it. -/
inductive Sleep
  | cbwait (slot : SlotId) (la : Nat)
  | sleepuntil (slot : SlotId) (t : DWord) (chk : Option Nat)
  | fenceSC (slot : SlotId)
  | publish (slot : SlotId) (base len : Nat)
  | mxwait (slot : SlotId)
  | launch (slot : SlotId) (img : DWord) (q : Nat)
  | henter (slot : SlotId)
  deriving DecidableEq, Repr

/-- A matrix-side reservation (R232): element type, format word, size in units, first unit, and its bytes (for a b slot,
byte o of slice j lies at j × 16384 + o). -/
structure Resv where
  size : Nat
  etype : Nat
  fmt : Word
  start : Nat
  data : Mem
  poison : List Nat
  deriving DecidableEq, Repr

/-- One accumulator tile (R233, R205): 128 rows of 256 A56 entries, and a poison bit for each. -/
structure Tile where
  rows : List (List (BitVec 56))
  poison : List (BitVec 256)
  deriving DecidableEq, Repr

/-- Matrix work of a group (R234): the instruction, its PC, the lanes its destination is written in, its register operands
once it has begun with the descriptor that they give an ACCST or ACCLD (R247), how far it has come (iteration and local K of an MXLOOP, row of an ACCST or ACCLD), whether it runs ahead of frozen
work (R249), the page it waits for, the slot or tile that a handler changed under it (R236 reason 9), and whether a handler issued it, at trap
level (R236). -/
structure MxWork where
  instr : Instr
  pc : DWord
  mask : Mask
  ops : Option (List Word)
  desc : Desc
  it : Nat
  k : Nat
  ahead : Bool
  waitPage : Option Nat
  spoiled : Option Nat
  handler : Bool
  deriving DecidableEq, Repr

/-- A pending deferred fault of matrix work (R236). -/
structure MxFault where
  reason : Nat
  what : Nat
  pc : DWord
  deriving DecidableEq, Repr

/-- A commit request of an HSTORE (R359): the data's physical address once its page is translated, bytes, data, the checkpoint PC,
the epoch and step it carries, and the checkpoint captured: count, predicates and register values with their poison. -/
structure Commit where
  pa : Option Nat
  bytes : Nat
  data : Nat
  cpc : DWord
  epoch : Word
  step : Nat
  icount : Nat
  preds : Nat
  vals : List (Word × Bool)
  deriving DecidableEq, Repr

/-- The husk record of a group (R371); `desched` marks a descheduled group whose orphan request is not yet sent (R362), `dispos` the
result slot of an adoption (4 for none), `henter` the PC of the HENTER. The stash keeps the registers' poison marks (R142). -/
structure Husk where
  lock : Nat
  inside : Bool
  adopt : Bool
  orphd : Bool
  waitd : Bool
  lane : Nat
  epoch : Word
  mask : Word
  nres : Nat
  icount : Nat
  step : Nat
  henter : DWord
  dispos : Nat
  smask : Word
  sregs : List (Word × Bool)
  spreds : BitVec 4
  sa0 : Desc
  sa1 : Desc
  desched : Bool
  commit : Option Commit
  deriving DecidableEq, Repr

/-- A memory instruction some of whose accesses travel to other packages (R126): the tags of the requests still unanswered, the
lanes it writes, what the lanes have received, its PC, the accesses of its lanes, whether later accesses perform after it, and the step at which it issued. -/
structure RemoteWait where
  instr : Instr
  mask : Mask
  tags : List Nat
  got : List (Nat × BitVec 128 × Marks)
  pc : DWord
  accs : List LaneAcc
  acq : Bool
  seq : Nat
  deriving DecidableEq, Repr

/-- What arbitration keeps of a group (R24, R282, R301): the cycle since which it has been eligible, the step of its last grant, the slot that issued then,
and the step of a YIELD that other groups still have to be granted before. -/
structure Sched where
  readyAt : Nat
  granted : Nat
  last : SlotId
  yielded : Option Nat
  deriving DecidableEq, Repr

/-- A group never granted, eligible from a cycle on. -/
def Sched.from_ (cycle : Nat) : Sched := ⟨cycle, 0, .b, none⟩

/-- A resident group (R269), or a pair of hardware groups issuing as one (R273). `copyFaults` lists the barriers of its copy requests that
have faulted (R114), `kdata` the launch-constant values of other packages that its slices have asked for and not yet used (physical address, bytes, value: R54, R82), `heard` what
other packages have answered to the instruction at hand about the stack (R286), `adopted` counts the adoptions that the HENTER at hand has completed (R356),
`spilt` the lowest entries of the stack that lie in the spill area (R278); `l1Since` is the step from which its plain loads may be
served by the L1: a line read before it is older than something that the group has since waited for (R136, R257, R258). -/
structure Group where
  team : Nat
  gid : Nat
  width : Nat
  hwslot : Nat
  lslot : Nat
  key : DWord
  v : List VReg
  p : List Mask
  pPoison : List Mask
  x : List (BitVec 16)
  a : List Desc
  f : List Word
  j : List Mask
  ob : List (Option Resv)
  b : List (Option Resv)
  tiles : List (Option Tile)
  foldpol : Word
  matcnt : Word
  rngs : List Word
  scopes : List (BitVec 6 × BitVec 6)
  slotA : Option Path
  slotB : Option Path
  stack : List DivEntry
  tstack : List DivEntry
  spilt : Nat
  exited : Mask
  trap : TrapState
  deferred : Option TrapReq
  log : List LogEntry
  remote : List RemoteWait
  asleep : Option Sleep
  mx : List MxWork
  frozen : Bool
  mxFault : Option MxFault
  copyFaults : List Nat
  husk : Option Husk
  deliv : Bool
  abort : Bool
  adopted : Nat
  kdata : List (Nat × Nat × BitVec 128)
  heard : List (Nat × Nat × BitVec 128)
  l1Since : Nat
  sched : Sched
  live : Bool
  deriving DecidableEq, Repr

/-! ### Teams, launches, cores -/

/-- A team (R269): its node and launch, core, width, groups by GROUPID, its range of the core's local memory (R83, R271: first byte and size), the range's bytes with their
poisoned 64-bit words,
exception counts (R350), restart-safe mark (R349), effective priority (R317), rescue priority (R327), the cycle of the hub's request to pre-empt it (R328), place in its core. -/
structure Team where
  teamId : Word
  launch : Nat
  node : Nat
  core : Nat
  width : Nat
  floor : Nat
  localBase : Nat
  localSize : Nat
  localMem : Mem
  localPoison : List Nat
  counts : List Nat
  safe : Bool
  prio : Nat
  rescue : Bool
  halting : Option Nat
  started : Nat
  groups : List Nat
  podGen : Option Nat
  podDone : Bool
  live : Bool
  deriving DecidableEq, Repr

/-- A tile operand of a node record (R311). -/
structure TileOp where
  base : Nat
  length : Nat
  an : Nat
  perm : Nat
  deriving DecidableEq, Repr

/-- A node record (R311). -/
structure NodeRec where
  entry : Nat
  groups : Nat
  width : Nat
  floor : Nat
  rs : Bool
  localUnits : Nat
  delta : Int
  gang : Nat
  gid : Nat
  npred : Nat
  nsucc : Nat
  first : Nat
  tiles : List TileOp
  deriving DecidableEq, Repr

/-- The states of a node (R342): waiting, ready, resident, saved, complete, faulted. -/
inductive NodeSt | waiting | ready | resident | saved | complete | faulted
  deriving DecidableEq, Repr

/-- A node's run state: its state, whether it has faulted fatally while its team still runs (R316), the predecessors left (R315), the cycle it became ready,
its base priority, and the cycle at which it came into the central ready pool, from which it ages (R315, R317). -/
structure NodeRun where
  st : NodeSt
  bad : Bool
  preds : Nat
  readyAt : Nat
  prio : Nat
  pooled : Option Nat
  deriving DecidableEq, Repr

/-- The launch header's fields (R310). -/
structure Header where
  nsect : Nat
  hostVisible : Bool
  nodes : Nat
  nnodes : Nat
  gmax : Nat
  seed : Word
  sects : Nat
  edges : Nat
  backing : Nat
  spill : Nat
  d : Nat
  ws : Nat
  stack : Nat
  arena : Nat
  alen : Nat
  record : Nat
  status : Nat
  signal : Nat
  addend : DWord
  podbar : Nat
  context : Nat
  deriving DecidableEq, Repr

/-- States of the escalation ladder (R328). -/
inductive Ladder | soft | halt | kill | stopped
  deriving DecidableEq, Repr

/-- A launch (R310 to R316): serial, image, address space, partition, queue, header, code sections (base, length), edge table,
nodes, completed counts (R350), faulted mark with first node and reason, unfinished children, launch slots in use, teams dispatched
so far (R189), and the ladder with the cycle of its request. `told` is how far its completion has come: 1 once its record is
written, 2 its status word, 3 its signal (R316). `qprio` is the queue priority that applies (R317, R318, R323). -/
structure Launch where
  serial : Nat
  img : Nat
  asid : Nat
  part : Nat
  queue : Nat
  parent : Option Nat
  qprio : Option Nat
  msix : Option Nat
  hdr : Header
  sects : List (Nat × Nat)
  edges : List Nat
  nodes : List NodeRec
  runs : List NodeRun
  podNodes : List Nat
  podWord : Nat
  podTotal : Nat
  counts : List Nat
  faulted : Option (Nat × Nat)
  children : Nat
  slots : List Nat
  teamCount : Nat
  ladder : Option Ladder
  stopAt : Nat
  told : Nat
  live : Bool
  deriving DecidableEq, Repr

/-- A copy request outstanding in a core's engine (R91, R100, R113): the block and list snapshots, the destination bytes
credited (P), the generator state after them, its promise, the page it waits for, the tags of its fabric chunks in flight with
the destination bytes that they carry, the remote source bytes received for the chunk to come, what each tag sent (address and bytes), and
the tags of the chunks whose block has failed its check once (R133), with 65,536 for a source chunk still to be asked for again. -/
structure CopyReq where
  core : Nat
  team : Nat
  group : Nat
  block : BitVec 512
  list : List DWord
  done : Nat
  rng : Word
  promise : Nat
  waitPage : Option Nat
  tags : List Nat
  owed : Nat
  inbuf : List (Nat × Byte)
  sent : List (Nat × Nat × List Byte)
  retried : List Nat
  deriving DecidableEq, Repr

/-- A core (R9): out of service after a core-state error (R349), the partition that borrows it, the cycle at which its owner revoked it
(R327), and the groups whose MXLOOPs have the matrix array or wait for it, in the order in which they reached their heads (R235). -/
structure CoreSt where
  out : Bool
  lentTo : Option Nat
  revoking : Option Nat
  array : List Nat
  deriving DecidableEq, Repr

/-- A line of a core's L1 data cache (R9, R134, R136): 64 bytes of this package's memory at 64 × `line`, read at a step, with their poisoned 64-bit words. -/
structure L1Line where
  core : Nat
  line : Nat
  at_ : Nat
  data : Nat
  poison : BitVec 8
  deriving DecidableEq, Repr

/-- A saved team (R340 to R347): its context, the cycle of its save, and the range of addresses of its image. -/
structure Saved where
  team : Team
  groups : List Group
  copies : List CopyReq
  at_ : Nat
  addr : Nat
  size : Nat
  deriving DecidableEq, Repr

/-! ### Translation and the Sheaf -/

/-- A TLB (R9, R56): a core's L1, or the L2 that a quad shares. -/
inductive TlbUnit
  | l1 (core : Nat)
  | l2 (quad : Nat)
  deriving DecidableEq, Repr

/-- A non-leaf entry that a die's walk cache holds (R56): the level of its table (1 top, 2 middle), the part of the address above the entry's reach, the entry. -/
structure WalkEntry where
  die : Nat
  asid : Nat
  level : Nat
  prefix_ : Nat
  pte : DWord
  deriving DecidableEq, Repr

/-- A translation held by a TLB (R56): page number, leaf entry, whether it maps 512 MiB, and whether it serves its contiguous group of 32 pages (R51). -/
structure TlbEntry where
  unit : TlbUnit
  asid : Nat
  page : Nat
  pte : DWord
  big : Bool
  mid : Bool
  deriving DecidableEq, Repr

/-- Kinds of access that a fault ring record names (R426). -/
inductive AccKind | load | store | atomic | fetch | copyRead | copyWrite
  deriving DecidableEq, Repr

/-- Where a page fault stands (R60, R425, R426): posted to the Sheaf, waiting for ring space, or with the driver. -/
inductive FaultAt | posted | ringWait | driver
  deriving DecidableEq, Repr

/-- A page fault the Sheaf holds. -/
structure PageFault where
  asid : Nat
  page : Nat
  kind : AccKind
  at_ : FaultAt
  malformed : Bool
  deriving DecidableEq, Repr

/-- A hardware queue slot (R321, R330): its queue, the priority and the write index of the last kick (R318, R321), bounds, histogram, last window, and the cycle from
which it has been idle. -/
structure QSlot where
  queue : Option Nat
  prio : Nat
  upto : Nat
  b50 : Nat
  b99 : Nat
  hist : List Nat
  last : List Nat
  idleSince : Nat
  deriving DecidableEq, Repr

/-- A partition block (R398, R426), the partition's free frames for demand pages (R425), the ranges of its save pool that stopped launches keep, and the packages that its cores have written to since the
last drain, a stop under way and a stop done (R267). `cfgNext` is a PARTCFG written and not yet in force (R399). -/
structure Part where
  cfg : DWord
  cfgNext : Option DWord
  grace : Nat
  kill : Nat
  saveBase : DWord
  saveLen : DWord
  kept : List (Nat × Nat)
  stop : DWord
  stopStatus : DWord
  dirtyBase : DWord
  dirtyCap : DWord
  quads : DWord
  fltbase : DWord
  fltcfg : DWord
  fltcons : DWord
  fltNext : Nat
  freeFrames : List Nat
  wrote : List Nat
  stopping : Bool
  stopped : Bool
  deriving DecidableEq, Repr

/-! ### The fabric (R115 to R133) -/

/-- A flit ready to be sent or sent and not yet acknowledged: its type code (R119), its fields, the cycle it was last sent, and whether it is a request of this
package's own (R122). -/
structure OutFlit where
  type : Nat
  flit : Flit
  at_ : Nat
  own : Bool
  deriving DecidableEq, Repr

/-- An E-port (R120 to R123): up, down; the next sequence number to send and to accept; the send queue, the replay buffer and the place in it from
which flits are sent again; replays since ack last advanced; a retraining under way; a NAK owed, and one sent since the last acceptance; the
rate received and the rate advertised; slots counted towards the next step of that rate, which of the last 255 slots started a flit, and the 256 bytes of
the flit put on the link last (R117). -/
structure Port where
  up : Bool
  down : Bool
  nextSeq : Nat
  expectSeq : Nat
  sendq : List OutFlit
  replay : List OutFlit
  resend : Nat
  replays : Nat
  retraining : Bool
  nakDue : Bool
  nakSent : Bool
  rateIn : Nat
  rateOut : Nat
  slots : Nat
  recent : List Bool
  wire : List Byte
  deriving DecidableEq, Repr

/-- A copy chunk of which flits have arrived (R130): its source, tag and destination, the port it is passed on by when it is for another package, its
descriptor, whether it is compressed, whether its route was invalid or its hops spent, so that its flits are discarded (R124), and the stream bytes so far. -/
structure ChunkIn where
  src : Nat
  tag : Nat
  via : Option Nat
  pa : Nat
  len : Nat
  stream : Nat
  w : Bool
  drop : Bool
  got : List Byte
  deriving DecidableEq, Repr

/-- What a remote operation completes when its answer arrives (R126): lanes of a group, values of n bytes that a group's path waits for, by virtual and physical address (for its slices, or for one instruction, words of code among them), a copy chunk, an update of a signal of an address space with the message that follows it (R316, R322), a drain, the read of a WAIT packet of an address space at a
read index, bytes of a launch image or a ring, or a step of a pod barrier whose word lies in another package (R325). -/
inductive RemoteFor
  | lanes (g : Nat) (lanes : List Nat)
  | reads (g n : Nat) (at_ : List (Nat × Nat)) (keep : Bool)
  | copy (core : Nat) (write : Bool)
  | signal (asid : Nat) (msix : Option Nat)
  | drain (part : Nat)
  | packetWait (asid slot rd : Nat)
  | hub (asid : Nat) (pas : List Nat)
  | pod (team phase seen : Nat)
  deriving DecidableEq, Repr

/-- A remote operation awaiting its response or acknowledgement. -/
structure RemoteOp where
  tag : Nat
  pkg : Nat
  part : Nat
  write : Bool
  for_ : RemoteFor
  deriving DecidableEq, Repr

/-- A flit for a package whose route is being changed, not yet in a send queue (R125): its type, and the address of the chunk that a BULK flit is of. -/
structure HeldFlit where
  type : Nat
  flit : Flit
  pa : Nat
  deriving DecidableEq, Repr

/-- A drain request of another package not yet answered (R128). -/
structure DrainReq where
  src : Nat
  tag : Nat
  part : Nat
  deriving DecidableEq, Repr

/-! ### The host's registers (R398, R400) and boot (R402) -/

/-- Registers of BAR 0 that are not in a partition block; `invnow` and `fabnow` are the INVADDR and FABDATA of the commands under way (R399, R400), `msixTable` the bytes
of the MSI-X table and pending-bit array that have been written (R397). -/
structure HostRegs where
  astbase : DWord
  invaddr : DWord
  invcmd : DWord
  invnow : DWord
  orphth : Word
  fabcmd : DWord
  fabdata : DWord
  fabnow : DWord
  qoscfg : DWord
  qosp50 : DWord
  qosp99 : DWord
  recov : DWord
  ramp : Nat
  msixTable : Mem
  deriving DecidableEq, Repr

/-- Boot and the security block (R402, R404, R405); `ideKeys` are the IDE keys that the last KEY_EXCHANGE session supplied. -/
structure Boot where
  state : Nat
  fwver : Word
  flash : List Byte
  window : List Byte
  rollback : Word
  seed : List Byte
  answers : List (List Byte)
  ideKeys : List Byte
  tdi : List TdiState
  tdiNext : List (Nat × TdiState)
  deriving DecidableEq, Repr

/-- An event posted to the Sheaf and not yet run (R403): the event, the user queue whose ordering lock it takes, and the address space and page of a demand fault. -/
structure Posting where
  event : Instr
  queue : Option Nat
  page : Option (Nat × Nat)
  deriving DecidableEq, Repr

/-- The completion of a host read of device memory (R395, R143): the address, the byte, and whether it is poisoned data. -/
structure Completion where
  addr : DWord
  data : Byte
  poisoned : Bool
  deriving DecidableEq, Repr

/-- A line of the Sheaf's log for the host driver (R336, R316, R143). -/
structure SheafNote where
  what : Nat
  cause : BitVec 8
  pc : DWord
  info : DWord
  deriving DecidableEq, Repr

/-- The package. Fields `ticks`, `turn`, `fill`, `inbox`, `cur`, `chain` are the MODEL'S own: the counter that the free values are
applied to, the choice of the next enabled move, how full receive buffers are (log entry 50), the inputs not yet taken with the count at which each comes, the issuing group and slot, and
the members left of the chain that is issuing. `resetting` are the queues whose reset is under way (R323); `corrected` counts corrected errors by structure (R139); `purged` are the keys of the husk holders that have been
purged (R367); `hubHeard` are bytes of other packages that the hub has asked for, none where one cannot be read, `outgoing` words of areas in other packages that are to be written there: address space, address, bytes, value (R43); `rampTimes` are the cycles of the latest starts and stops of teams along the ramp (R329); `held` are answers and passing flits that a change of their route stalls (R125); `posted` is the Sheaf's event queue, oldest first (R403); `hostReads` are completions of host reads; `migrating` are the pages that the Sheaf has
frozen to move: address space, page, new frame (R66). -/
structure State where
  mem : Mem
  memPoison : List Nat
  hostMem : Mem
  pkgId : BitVec 9
  cycle : Nat
  heartbeats : Nat
  ticks : Nat
  turn : Nat
  fill : Nat
  inbox : List (Nat × Instr)
  cur : Nat × SlotId
  chain : Nat
  groups : List (Option Group)
  teams : List (Option Team)
  launches : List (Option Launch)
  saved : List (Option Saved)
  cores : List CoreSt
  copies : List CopyReq
  tlb : List TlbEntry
  walks : List WalkEntry
  icache : List (Nat × Nat × Nat × Word)
  l1 : List L1Line
  faults : List PageFault
  sheafLog : List SheafNote
  msix : List Nat
  cxlBacked : List Nat
  queues : List Nat
  qcbBase : Nat
  qslots : List QSlot
  parts : List Part
  regs : HostRegs
  boot : Boot
  ports : List Port
  routes : List DWord
  remote : List RemoteOp
  held : List HeldFlit
  hubHeard : List (Nat × Option Byte)
  outgoing : List (Nat × Nat × Nat × Nat)
  drains : List DrainReq
  chunks : List ChunkIn
  nextTag : Nat
  nextSerial : Nat
  nextKey : Nat
  rampTimes : List Nat
  monitorAt : Nat
  corrected : List Nat
  huskLocks : List Nat
  purged : List Nat
  posted : List Posting
  hostReads : List Completion
  hostEvents : List Nat
  resetting : List Nat
  migrating : List (Nat × Nat × Nat)
  deriving DecidableEq, Repr

/-- Why a step stops with a fault. -/
inductive Fault
  /-- Raised by an instruction (not an event) when `cur` names no live path: no agent issues it, so the hardware has no such step.
  Safe: the model stops where it says nothing. -/
  | noIssuingGroup
  deriving DecidableEq, Repr

/-- Why a step is refused. -/
inductive Refusal
  /-- Raised by a dispatch arm whose instruction has no meaning yet. Safe: nothing can be proved about what follows. -/
  | notModelled (mnemonic : String)
  deriving DecidableEq, Repr

/-- A partition after reset (R398, R328, R58): walker quota 8, grace 20 µs, kill 200 µs, everything else 0. -/
def Part.reset : Part :=
  ⟨0x0008000000000000, none, 20, 200, 0, 0, [], 0, 0, 0, 0, 0, 0, 0, 0, 0, [], [], false, false⟩

/-- An E-port after reset: log entry 5. -/
def Port.reset : Port :=
  ⟨false, false, 0, 0, [], [], 0, 0, false, false, false, 255, 255, 0, [], []⟩

/-- A hardware queue slot that holds no queue. -/
def QSlot.reset : QSlot := ⟨none, 0, 0, 0, 0, [], [], 0⟩

/-- A core in service, not lent. -/
def CoreSt.reset : CoreSt := ⟨false, none, none, []⟩

/-- The package right after power-on reset (R10, R135, R398, R400, R402): the ROM is about to run, and no group is resident. -/
def State.reset : State where
  mem := []
  memPoison := []
  hostMem := []
  pkgId := 0
  cycle := 0
  heartbeats := 0
  ticks := 0
  turn := 0
  fill := 0
  inbox := []
  cur := (0, .a)
  chain := 0
  groups := []
  teams := []
  launches := []
  saved := []
  cores := []
  copies := []
  tlb := []
  walks := []
  icache := []
  l1 := []
  faults := []
  sheafLog := []
  msix := []
  cxlBacked := [0x018000000000, 0x018000000000, 0x018000000000, 0x018000000000,
    0x018000000000, 0x018000000000, 0x018000000000, 0x018000000000]
  queues := []
  qcbBase := 0
  qslots := []
  parts := []
  regs := ⟨0, 0, 0, 0, 10, 0, 0, 0, 0, 0, 0, 0, 16, []⟩
  boot := ⟨0, 0, [], [], 0, [], [], [], [], []⟩
  ports := []
  routes := []
  remote := []
  held := []
  hubHeard := []
  outgoing := []
  drains := []
  chunks := []
  nextTag := 0
  nextSerial := 0
  nextKey := 1
  rampTimes := []
  monitorAt := 1048576
  corrected := []
  huskLocks := []
  purged := []
  posted := []
  hostReads := []
  hostEvents := []
  resetting := []
  migrating := []

end Sys2Proof.Machine
end

