-- ==== Sys2Proof/Machine/Foot.lean ====
section
/-! DEFINITION. What an instruction reads and writes, as sets of registers (R18 rule 3, R36, R152), the pipe class it goes to (R31),
and the facts about majors that the chain, slice, loop and capsule checks ask (R18, R151, R303, R357). -/

namespace Sys2Proof.Machine

/-- A set of registers: vector, predicate, pattern, address and format registers; special registers by position in R189's list of
written ones (0 FOLDPOL, 1 MATCNT, 2 RNGS, 3 TRAPPC, 4 TRAPINFO); j registers; ob and b reservations; the two tiles. -/
structure Foot where
  v : BitVec 64
  p : BitVec 8
  x : BitVec 3
  a : BitVec 16
  f : BitVec 4
  sp : BitVec 8
  deriving DecidableEq, Repr

namespace Foot

/-- No register. -/
def none : Foot := ⟨0, 0, 0, 0, 0, 0⟩
/-- The registers of either set. -/
def union (s t : Foot) : Foot := ⟨s.v ||| t.v, s.p ||| t.p, s.x ||| t.x, s.a ||| t.a, s.f ||| t.f, s.sp ||| t.sp⟩
/-- The registers of both sets. -/
def inter (s t : Foot) : Foot := ⟨s.v &&& t.v, s.p &&& t.p, s.x &&& t.x, s.a &&& t.a, s.f &&& t.f, s.sp &&& t.sp⟩
/-- The registers of the first set that are not in the second. -/
def diff (s t : Foot) : Foot :=
  ⟨s.v &&& ~~~t.v, s.p &&& ~~~t.p, s.x &&& ~~~t.x, s.a &&& ~~~t.a, s.f &&& ~~~t.f, s.sp &&& ~~~t.sp⟩
/-- The set is empty. -/
def isEmpty (s : Foot) : Bool := s == none
/-- The union of a list of sets. -/
def all (l : List Foot) : Foot := l.foldl union none
/-- n vector registers from r upward. -/
def vs (r : BitVec 6) (n : Nat) : Foot :=
  { none with v := BitVec.ofNat 64 ((List.range n).foldl (fun acc k => acc + 2 ^ (r.toNat + k)) 0) }
/-- One vector register. -/
def v1 (r : BitVec 6) : Foot := vs r 1
/-- An offset register; 63 means none. -/
def off (r : BitVec 6) : Foot := if r == 63 then none else vs r 1
/-- The vector registers that a mask of v0 to v31 names. -/
def vmask (m : Word) : Foot := { none with v := m.setWidth 64 }
/-- A predicate; p7 is no register (R33). -/
def p1 (r : BitVec 3) : Foot := if r == 7 then none else { none with p := BitVec.ofNat 8 (2 ^ r.toNat) }
/-- An address register. -/
def a1 (r : BitVec 4) : Foot := { none with a := BitVec.ofNat 16 (2 ^ r.toNat) }
/-- A format register. -/
def f1 (r : BitVec 2) : Foot := { none with f := BitVec.ofNat 4 (2 ^ r.toNat) }
/-- The pattern register that a select names (R26). -/
def pat (s : BitVec 2) : Foot := if s == 0 then none else { none with x := BitVec.ofNat 3 (2 ^ (s.toNat - 1)) }
/-- A special register, or a pattern register by its number (R189). -/
def sreg : SReg → Foot
  | .foldpol => { none with sp := 1 }
  | .matcnt => { none with sp := 2 }
  | .rngs => { none with sp := 4 }
  | .trappc => { none with sp := 8 }
  | .trapinfo => { none with sp := 16 }
  | .x0 => { none with x := 1 }
  | .x1 => { none with x := 2 }
  | .x2 => { none with x := 4 }
  | _ => none
/-- RNGS, read and written by stochastic rounding (R197). -/
def sr (r : Rnd) : Foot := if r = .sr then { none with sp := 4 } else none
/-- As the pins of a recipe (R152). -/
def pins (s : Foot) : Pins := ⟨s.v, s.p, s.x, s.a, s.f⟩

end Foot

/-- A pins record as a set of registers. -/
def Pins.foot (p : Pins) : Foot := ⟨p.v, p.p, p.x, p.a, p.f, 0⟩

open Foot in
/-- Registers an instruction reads (R18, R36, R152). -/
def reads : Instr → Foot
  | .iadd _ _ va pa vb pb | .isub _ _ va pa vb pb | .imul _ _ va pa vb pb | .imulh _ _ va pa vb pb
  | .imulhu _ _ va pa vb pb | .and _ _ va pa vb pb | .or _ _ va pa vb pb | .xor _ _ va pa vb pb
  | .fadd _ _ va pa vb pb | .fsub _ _ va pa vb pb | .fmul _ _ va pa vb pb | .hadd2 _ _ va pa vb pb
  | .hmul2 _ _ va pa vb pb | .fscale _ _ va pa vb pb => all [v1 va, pat pa, v1 vb, pat pb]
  | .fmac _ vd va pa vb pb | .hfmac2 _ vd va pa vb pb | .dot4s _ vd va pa vb pb | .dot4u _ vd va pa vb pb =>
    all [v1 vd, v1 va, pat pa, v1 vb, pat pb]
  | .imad _ _ va vb vc | .bfi _ _ va vb vc | .fma _ _ va vb vc | .hfma2 _ _ va vb vc =>
    all [v1 va, v1 vb, v1 (48 + vc.setWidth 6)]
  | .iaddi _ _ va _ | .andi _ _ va _ | .ori _ _ va _ | .xori _ _ va _ | .shfi _ _ va _ _ | .unary _ _ va _
  | .func _ _ va _ | .redux _ _ va _ | .fredux _ _ va _ | .rstat _ _ va => v1 va
  | .shf _ _ va vb _ | .minmax _ _ va vb _ | .bfe _ _ va vb _ | .fminmax _ _ va vb _ => all [v1 va, v1 vb]
  | .sel _ _ va vb p _ => all [v1 va, v1 vb, p1 p]
  | .icmp _ _ _ va vb pacc _ | .fcmp _ _ _ va vb pacc _ => all [v1 va, v1 vb, p1 pacc]
  | .icmpi _ _ _ va _ => v1 va
  | .pcomb _ _ pa pb _ => all [p1 pa, p1 pb]
  | .mov _ _ va pa => all [v1 va, pat pa]
  | .movhi _ vd _ => v1 vd
  | .vote _ _ p _ => p1 p
  | .shfl _ _ va vb pb => all [v1 va, v1 vb, pat pb]
  | .int64 _ _ va vb op =>
    (match op with
    | .add64 | .sub64 => all [vs va 2, vs vb 2]
    | .mulw | .mulwu => all [v1 va, v1 vb])
  | .cvt _ _ va _ _ rnd => all [v1 va, sr rnd]
  | .cvtn _ vd va fmt rnd vb => all [v1 vd, v1 va, f1 fmt, sr rnd, v1 vb]
  | .cvtw _ _ va fmt rnd vb => all [v1 va, f1 fmt, sr rnd, v1 vb]
  | .fmtset _ _ va => v1 va
  | .aset _ _ vq => vs vq 4
  | .aadvPair _ an vp => all [a1 an, vs vp 2]
  | .aadvImm _ an _ => a1 an
  | .aget _ _ an _ => a1 an
  | .anarrow _ _ as vp _ => all [a1 as, vs vp 2]
  | .ldB _ _ m | .ldH _ _ m | .ldW _ _ m | .ldD _ _ m | .ldQ _ _ m => all [a1 m.an, off m.vo]
  | .stB _ vt m | .stH _ vt m | .stW _ vt m => all [v1 vt, a1 m.an, off m.vo]
  | .stD _ vt m => all [vs vt 2, a1 m.an, off m.vo]
  | .stQ _ vt m => all [vs vt 4, a1 m.an, off m.vo]
  | .ldkW _ _ an vo _ | .ldkD _ _ an vo _ => all [a1 an, off vo]
  | .ldl _ _ vo _ _ => off vo
  | .stl _ vt vo sz _ => all [vs vt (match sz with | .w => 1 | .d => 2 | .q => 4), off vo]
  | .atom _ _ m _ dw vs' => all [a1 m.an, off m.vo, vs vs' (if dw then 2 else 1)]
  | .atoml _ _ vo _ _ _ dw vs' => all [off vo, vs vs' (if dw then 2 else 1)]
  | .red _ m _ dw vs' => all [a1 m.an, off m.vo, vs vs' (if dw then 2 else 1)]
  | .cas _ _ m dw vc vn => all [a1 m.an, off m.vo, vs vc (if dw then 2 else 1), vs vn (if dw then 2 else 1)]
  | .pref _ _ an vo _ => all [a1 an, off vo]
  | .cctl _ op an => if op = .l1inv then none else a1 an
  | .qsub _ _ vo _ => off vo
  | .cbinit _ vp vo _ => all [vs vp 2, off vo]
  | .cbwait _ vo _ => off vo
  | .sleepuntil _ vp => vs vp 2
  | .sleepuntilChk _ vp vo _ => all [vs vp 2, off vo]
  | .publish _ an => a1 an
  | .accst _ an _ _ rnd va => all [a1 an, vs va 2, sr rnd]
  | .accld _ an _ _ va => all [a1 an, vs va 2]
  | .obres _ _ _ vp | .bres _ _ _ vp => vs vp 2
  | .mxloop _ _ _ _ vq _ _ _ _ _ => vs vq 4
  | .accrd _ _ _ _ rnd va => all [v1 va, sr rnd]
  | .accwr _ vs' _ ty _ va => all [vs vs' (if ty = .a56 then 2 else 1), v1 va]
  | .bra _ p _ _ _ => p1 p
  | .call _ _ _ => all [v1 62, v1 63, a1 15]
  | .calli _ vp _ _ => all [v1 62, v1 63, a1 15, vs vp 2]
  | .jmpi _ vp _ => vs vp 2
  | .jmpiDesc _ vp _ an => all [vs vp 2, a1 an]
  | .ret _ => all [v1 62, v1 63, a1 15]
  | .loop _ vc _ => v1 vc
  | .henter _ _ an _ mask => all [a1 an, a1 0, a1 1, vmask mask, { Foot.none with p := 0x0F }]
  | .hstore _ sz vs' an vo => all [vs vs' (if sz = .d then 2 else 1), a1 an, off vo]
  | .mark _ _ _ | .unmark _ _ => all [v1 62, v1 63, a1 15]
  | .cut _ _ _ m => all [v1 62, v1 63, a1 15, vmask m]
  | .graft _ vh => all [v1 vh, v1 62, v1 63, a1 15]
  | .tdrop _ vh | .tinfo _ _ vh => v1 vh
  | .launch _ vp _ => vs vp 2
  | .mfs _ _ sr' => sreg sr'
  | .mts _ vd sr' => vs vd (if sr'.wide then 2 else 1)
  | .icinv _ an => a1 an
  | _ => none

open Foot in
/-- Registers an instruction writes (R18, R36, R153). A write to p7 is none (R33). -/
def writes : Instr → Foot
  | .iadd _ vd .. | .isub _ vd .. | .imul _ vd .. | .imulh _ vd .. | .imulhu _ vd .. | .imad _ vd .. | .iaddi _ vd ..
  | .and _ vd .. | .or _ vd .. | .xor _ vd .. | .andi _ vd .. | .ori _ vd .. | .xori _ vd .. | .shf _ vd ..
  | .shfi _ vd .. | .minmax _ vd .. | .unary _ vd .. | .bfe _ vd .. | .bfi _ vd .. | .sel _ vd .. | .mov _ vd ..
  | .movi _ vd .. | .movhi _ vd .. | .li _ vd .. | .vote _ vd .. | .shfl _ vd .. | .redux _ vd .. | .fadd _ vd ..
  | .fsub _ vd .. | .fmul _ vd .. | .fma _ vd .. | .fmac _ vd .. | .fminmax _ vd .. | .func _ vd .. | .hadd2 _ vd ..
  | .hmul2 _ vd .. | .hfma2 _ vd .. | .hfmac2 _ vd .. | .fscale _ vd .. | .fredux _ vd .. | .dot4s _ vd ..
  | .dot4u _ vd .. | .rstat _ vd .. | .obres _ vd .. | .bres _ vd .. | .henter _ vd .. => v1 vd
  | .cut _ _ vd _ => all [v1 vd, v1 62, v1 63]
  | .cvt _ vd _ _ _ rnd | .cvtn _ vd _ _ rnd _ | .cvtw _ vd _ _ rnd _ => all [v1 vd, sr rnd]
  | .icmp _ pd .. | .icmpi _ pd .. | .fcmp _ pd .. | .pcomb _ pd .. => p1 pd
  | .int64 _ vd .. | .aget _ vd .. | .qsub _ vd .. | .tinfo _ vd .. => vs vd 2
  | .fmtset _ fd _ => f1 fd
  | .aset _ an _ | .aadvPair _ an _ | .aadvImm _ an _ => a1 an
  | .anarrow _ ad _ _ _ => a1 ad
  | .ldB _ vt _ | .ldH _ vt _ | .ldW _ vt _ => v1 vt
  | .ldD _ vt _ => vs vt 2
  | .ldQ _ vt _ => vs vt 4
  | .ldkW _ vt _ _ _ => v1 vt
  | .ldkD _ vt _ _ _ => vs vt 2
  | .ldl _ vt _ sz _ => vs vt (match sz with | .w => 1 | .d => 2 | .q => 4)
  | .atom _ vt _ _ dw _ | .atoml _ vt _ _ _ _ dw _ | .cas _ vt _ dw _ _ => vs vt (if dw then 2 else 1)
  | .accst _ _ _ _ rnd _ => sr rnd
  | .accrd _ vd _ ty rnd _ => all [vs vd (if ty = .a56 then 2 else 1), sr rnd]
  | .mxsta _ vq => vs vq 4
  | .call .. | .calli .. | .ret .. | .mark .. | .graft .. | .unmark .. => all [v1 62, v1 63]
  | .mfs _ vd sr' => vs vd (if sr'.wide then 2 else 1)
  | .mts _ _ sr' => sreg sr'
  | _ => none

/-- Pipe classes (R31). -/
inductive Pipe | i | f | m | x | b
  deriving DecidableEq, Repr

/-- The major opcode of an instruction. -/
def majorNum (i : Instr) : Nat := ((encode1 i).toNat / 2 ^ 22) % 128

/-- The pipe class of a major (R31). -/
def pipeOf (mj : Nat) : Pipe :=
  if mj < 0x20 then .i
  else if mj < 0x34 then .f
  else if mj < 0x40 then .i
  else if mj < 0x60 then .m
  else if mj < 0x6C then .x
  else if mj < 0x70 then .i
  else .b

/-- An instruction that may change the PC stands last in its chain (R18 rule 4). -/
def endsChain : Instr → Bool
  | .mfs .. | .mts .. | .icinv .. | .icinvAll .. | .henter .. | .hstore .. | .hexit .. | .habort .. | .mark ..
  | .cut .. | .graft .. | .unmark .. | .tdrop .. | .tinfo .. => false
  | i => decide (0x70 ≤ majorNum i)

/-- Words that no loop body holds (R303): majors 0x70 to 0x7E, and SYS with TRAP, TRET or BKPT. -/
def notInLoop : Instr → Bool
  | .trap .. | .tret .. | .bkpt .. => true
  | i => decide (0x70 ≤ majorNum i) && decide (majorNum i ≤ 0x7E)

/-- The instruction selects stochastic rounding (R151, R357). -/
def selectsSR : Instr → Bool
  | .cvt _ _ _ _ _ r | .cvtn _ _ _ _ r _ | .cvtw _ _ _ _ r _ => r == .sr
  | _ => false

/-- Words that a recipe slice may hold (R151): the I and F majors but FMTSET and stochastic rounding, and LDK. -/
def inSlice (i : Instr) : Bool :=
  !selectsSR i && (match i with
  | .fmtset .. => false
  | .ldkW .. | .ldkD .. => true
  | i => i.isWord && decide (majorNum i ≤ 0x33))

/-- The opcodes of a capsule word (R357), whatever registers it names: HUSK_FORBIDDEN otherwise. -/
def inCapsule : Instr → Bool
  | .cvtn .. | .cvtw .. | .fredux .. | .fmtset .. | .vote .. | .shfl .. | .redux .. => false
  | .cvt _ _ _ _ _ r => r != .sr
  | .ldB _ _ m | .ldH _ _ m | .ldW _ _ m | .ldD _ _ m | .ldQ _ _ m => m.order == .plain || m.order == .acqrel
  | .ldkW .. | .ldkD .. => true
  | .bra _ _ _ off _ => decide (0 < off.toInt)
  | .jmp _ off => decide (0 < off.toInt)
  | .loop .. | .hstore .. | .hexit .. => true
  | i => i.isWord && (decide (majorNum i ≤ 0x1B) || majorNum i == 0x1E ||
      (decide (0x20 ≤ majorNum i) && decide (majorNum i ≤ 0x2F)) || majorNum i == 0x32 || majorNum i == 0x33)

/-- The registers a capsule word names (R357): vector registers of the mask, p0 to p3 and p7, a0 and a1, no pattern. -/
def capsuleRegs (mask : Word) (i : Instr) : Bool :=
  let t := (reads i).union (writes i)
  (t.v &&& ~~~(mask.setWidth 64)) == 0 && (t.p &&& 0x70) == 0 && (t.a &&& 0xFFFC) == 0 && t.x == 0

end Sys2Proof.Machine
end

