-- ==== Sys2Proof/Machine/Mem.lean ====
section
/-! DEFINITION. Bytes in their canonical list form, the physical memory of the package with its poison, and address translation:
the three-level walk, its permissions and the TLBs (R43 to R59). -/

namespace Sys2Proof.Machine

/-! ### Sparse bytes -/

/-- The byte at an address; an unlisted address reads 0 (log entry 1). -/
def Mem.get : Mem → Nat → Byte
  | [], _ => 0
  | (b, v) :: m, a => if a = b then v else Mem.get m a

/-- The memory with one byte written, in canonical form: writing 0 removes the entry. -/
def Mem.set : Mem → Nat → Byte → Mem
  | [], a, v => if v = 0 then [] else [(a, v)]
  | (b, w) :: m, a, v =>
    if a < b then (if v = 0 then (b, w) :: m else (a, v) :: (b, w) :: m)
    else if a = b then (if v = 0 then m else (a, v) :: m)
    else (b, w) :: Mem.set m a v

/-- Every address of the list is above a bound, addresses rise strictly, and no listed byte is 0. -/
def Mem.wfFrom : Nat → Mem → Bool
  | _, [] => true
  | lo, (b, v) :: m => decide (lo ≤ b) && decide (v ≠ 0) && Mem.wfFrom (b + 1) m

/-- The canonical form. -/
def Mem.wf (m : Mem) : Bool := Mem.wfFrom 0 m
/-- The canonical form of the package's memory, by the name that the log uses. -/
abbrev Memory.wf (m : Mem) : Bool := Mem.wf m

/-- n bytes at an address as a number, little-endian (R3). -/
def Mem.readN (m : Mem) (a : Nat) : Nat → Nat
  | 0 => 0
  | n + 1 => (Mem.get m a).toNat + 256 * Mem.readN m (a + 1) n

/-- n bytes written at an address from a number, little-endian (R3). -/
def Mem.writeN (m : Mem) (a : Nat) : Nat → Nat → Mem
  | 0, _ => m
  | n + 1, v => Mem.writeN (Mem.set m a (BitVec.ofNat 8 v)) (a + 1) n (v / 256)

/-- A list of bytes written at an address. -/
def Mem.writeBytes (m : Mem) (a : Nat) : List Byte → Mem
  | [] => m
  | b :: bs => Mem.writeBytes (Mem.set m a b) (a + 1) bs

/-- n bytes at an address as a list. -/
def Mem.readBytes (m : Mem) (a : Nat) : Nat → List Byte
  | 0 => []
  | n + 1 => Mem.get m a :: Mem.readBytes m (a + 1) n

/-- The bytes of a range set to 0. -/
def Mem.clear (m : Mem) (a n : Nat) : Mem := m.filter fun c => c.1 < a || a + n ≤ c.1

/-- A number in a list of numbers without repeats. -/
def addNat (l : List Nat) (n : Nat) : List Nat := if l.contains n then l else n :: l
/-- A number taken out of a list. -/
def delNat (l : List Nat) (n : Nat) : List Nat := l.filter fun k => k != n

/-- The 64-bit words, by number, that n bytes at an address touch. -/
def wordsOfRange (a n : Nat) : List Nat :=
  if n = 0 then [] else (List.range ((a + n - 1) / 8 - a / 8 + 1)).map fun k => a / 8 + k

/-- Some word of the range is poisoned (R142 rule 1). -/
def poisonedIn (ps : List Nat) (a n : Nat) : Bool := (wordsOfRange a n).any ps.contains

/-- The marks of up to 16 bytes at an address, 8 bytes at a time. -/
def marksIn (ps : List Nat) (a n : Nat) : Marks :=
  (if poisonedIn ps a (Nat.min n 8) then 1 else 0) ||| (if poisonedIn ps (a + 8) (n - 8) then 2 else 0)

/-- The poison marks after n bytes are written at an address (R142 rule 2): poisoned data marks every word touched; clean data
clears the words it covers whole. -/
def poisonAfter (ps : List Nat) (a n : Nat) (bad : Bool) : List Nat :=
  (wordsOfRange a n).foldl (fun ps w =>
    if bad then addNat ps w
    else if a ≤ 8 * w && 8 * w + 8 ≤ a + n then delNat ps w else ps) ps

/-! ### Physical memory (R43, R44) -/

/-- The package id of a physical address. -/
def paPkg (pa : Nat) : Nat := pa / 2 ^ 45 % 512
/-- The local part of a physical address. -/
def paLocal (pa : Nat) : Nat := pa % 2 ^ 45
/-- The physical address is in this package (R43). -/
def State.isLocal (s : State) (pa : Nat) : Bool := paPkg pa == s.pkgId.toNat

/-- The CXL port of a local address of the CXL tier (R44). -/
def cxlPort (la : Nat) : Nat := (la - Config.cxlBase) / Config.cxlPortBytes

/-- A local address lies in stacked DRAM or in a backed part of the CXL tier (R44, R50). -/
def State.backed (s : State) (la : Nat) : Bool :=
  la < Config.dramBytes ||
    (Config.cxlBase ≤ la && la < Config.cxlBase + 8 * Config.cxlPortBytes &&
      (la - Config.cxlBase) % Config.cxlPortBytes < Tbl.get 0 s.cxlBacked (cxlPort la))

/-- n bytes at a local physical address (R43). -/
def State.readPA (s : State) (pa n : Nat) : Nat := Mem.readN s.mem (paLocal pa) n
/-- n bytes written at a local physical address with their poison mark. -/
def State.writePA (s : State) (pa n v : Nat) (bad : Bool) : State :=
  { s with mem := Mem.writeN s.mem (paLocal pa) n v, memPoison := poisonAfter s.memPoison (paLocal pa) n bad }
/-- Some of n bytes at a local physical address are poisoned. -/
def State.poisonedPA (s : State) (pa n : Nat) : Bool := poisonedIn s.memPoison (paLocal pa) n
/-- The marks of up to 16 bytes at a local physical address. -/
def State.marksPA (s : State) (pa n : Nat) : Marks := marksIn s.memPoison (paLocal pa) n
/-- Up to 16 bytes written at a local physical address, each 8 bytes with their own mark (R141, R142). -/
def State.writeMarked (s : State) (pa n v : Nat) (marks : Marks) : State :=
  if n ≤ 8 then s.writePA pa n v (marks != 0)
  else (s.writePA pa 8 (v % 2 ^ 64) (marks.getLsbD 0)).writePA (pa + 8) (n - 8) (v / 2 ^ 64) (marks.getLsbD 1)

/-- The die that is a local address's home (R44, R45): the one that holds it in stacked DRAM; in the CXL tier, PA[9:8]. -/
def homeDie (la : Nat) : Nat := if la < Config.dramBytes then la / (Config.dramBytes / 4) else la / 256 % 4
/-- The slice of the home die (R45). The slices' atomic and husk units act on one memory, one operation at a time, so what has one home has one order. -/
def homeSlice (la : Nat) : Nat := Nat.xor (la / 256 % 32) (la / 8192 % 32)

/-! ### Page-table entries (R49) -/

/-- Bit k of an entry. -/
def pteBit (e : DWord) (k : Nat) : Bool := e.getLsbD k
/-- The frame field: physical address bits [53:16]. -/
def pteFrame (e : DWord) : Nat := e.toNat / 2 ^ 16 % 2 ^ 38
/-- V, leaf, R, W, X, A, K, SC, TW, CH, FZ, AC, DT, TA. -/
def pteV (e : DWord) : Bool := pteBit e 0
def pteLeaf (e : DWord) : Bool := pteBit e 1
def pteR (e : DWord) : Bool := pteBit e 2
def pteW (e : DWord) : Bool := pteBit e 3
def pteX (e : DWord) : Bool := pteBit e 4
def pteA (e : DWord) : Bool := pteBit e 5
def pteK (e : DWord) : Bool := pteBit e 6
def pteSC (e : DWord) : Bool := pteBit e 7
def pteTW (e : DWord) : Bool := pteBit e 8
def pteTier (e : DWord) : Nat := e.toNat / 2 ^ 9 % 4
def pteCH (e : DWord) : Bool := pteBit e 11
def pteFZ (e : DWord) : Bool := pteBit e 12
def pteAC (e : DWord) : Bool := pteBit e 13
def pteDT (e : DWord) : Bool := pteBit e 14
def pteTA (e : DWord) : Bool := pteBit e 15

/-- The 16 KiB-unit table record of an address space (R320): top-table address, partition, valid. -/
structure AsRec where
  top : Nat
  asid : Nat
  part : Nat
  valid : Bool
  deriving DecidableEq, Repr

/-- Address-space record n, read from the table that ASTBASE locates (R320, R398): valid with V set and every field that must be zero zero (R4). -/
def State.asRec (s : State) (n : Nat) : AsRec :=
  let base := s.regs.astbase.toNat / 4096 * 4096 % 2 ^ 54
  let w0 := s.readPA (base + 16 * n) 8
  let w1 := s.readPA (base + 16 * n + 8) 8
  ⟨w0, w1 % 4096, w1 / 4096 % 16, w1 / 65536 == 1 && w0 / 2 ^ 54 == 0 && w0 % 4096 == 0⟩

/-- What a walk of the tables finds: a leaf with the physical address of its entry; a page fault; or a malformed entry. -/
inductive Walk
  | leaf (entryPA : Nat) (pte : DWord) (big : Bool)
  | fault (entryPA : Nat) (pte : DWord) (level : Nat)
  | malformed
  deriving DecidableEq, Repr

/-- The table that a non-leaf entry names can be read: local, and in DRAM or backed CXL (R48). -/
def State.tableOk (s : State) (pa : Nat) : Bool := s.isLocal pa && s.backed (paLocal pa)

/-- A leaf entry is well formed (R50): reserved bits, TW with an even frame, a local frame in a backed range; a middle leaf's
frame is a multiple of 8,192. -/
def State.leafOk (s : State) (e : DWord) (big : Bool) : Bool :=
  e.toNat / 2 ^ 54 == 0 && !(pteTW e && pteFrame e % 2 == 1) && (!big || pteFrame e % 8192 == 0) &&
    (!s.isLocal (pteFrame e * 65536) || s.backed (paLocal (pteFrame e * 65536)))

/-- A non-leaf entry is well formed (R50, R48). -/
def State.nodeOk (s : State) (e : DWord) : Bool :=
  e.toNat / 2 ^ 54 == 0 && e.toNat / 4 % 2 ^ 14 == 0 && s.tableOk (pteFrame e * 65536)

/-- The end of a walk, in the leaf table that a middle entry names. -/
def State.walk3 (s : State) (va : Nat) (e2 : DWord) : Walk :=
  let p3 := pteFrame e2 * 65536 + 8 * (va / 2 ^ 16 % 8192)
  let e3 := BitVec.ofNat 64 (s.readPA p3 8)
  if !pteV e3 then .fault p3 e3 3
  else if pteLeaf e3 && s.leafOk e3 false then .leaf p3 e3 false
  else .malformed

/-- A walk from the middle table that a top entry names. -/
def State.walk2 (s : State) (va : Nat) (e1 : DWord) : Walk :=
  let p2 := pteFrame e1 * 65536 + 8 * (va / 2 ^ 29 % 8192)
  let e2 := BitVec.ofNat 64 (s.readPA p2 8)
  if !pteV e2 then .fault p2 e2 2
  else if pteLeaf e2 then (if s.leafOk e2 true then .leaf p2 e2 true else .malformed)
  else if !s.nodeOk e2 then .malformed
  else s.walk3 va e2

/-- The walk for a page of an address space, from its top table (R47 to R50). The spec does not say what a walk does whose record
has V clear or a top table that is not aligned to 4 KiB: the model ends it as at a malformed entry (DESIGN CHOICE, log entry 63). -/
def State.walk (s : State) (asid va : Nat) : Walk :=
  let r := s.asRec asid
  if !r.valid || !s.tableOk r.top then .malformed else
  let p1 := r.top + 8 * (va / 2 ^ 42 % 512)
  let e1 := BitVec.ofNat 64 (s.readPA p1 8)
  if !pteV e1 then .fault p1 e1 1
  else if pteLeaf e1 || !s.nodeOk e1 then .malformed
  else s.walk2 va e1

/-- The non-leaf entry of a level that a die's walk cache holds for an address (R56). -/
def State.walkHeld (s : State) (die asid level va : Nat) : Option DWord :=
  (s.walks.find? fun w => w.die == die && w.asid == asid && w.level == level &&
    w.prefix_ == (if level == 1 then va / 2 ^ 42 else va / 2 ^ 29)).map WalkEntry.pte

/-- A walk by a die's walkers: it starts at the deepest level that the walk cache holds (R56). -/
def State.walkFrom (s : State) (die asid va : Nat) : Walk :=
  match s.walkHeld die asid 2 va, s.walkHeld die asid 1 va with
  | some e2, _ => s.walk3 va e2
  | none, some e1 => s.walk2 va e1
  | none, none => s.walk asid va

/-- The non-leaf entries that a walk to a leaf passes, as far as the walk cache does not hold them. -/
def State.walkPath (s : State) (die asid va : Nat) (big : Bool) : List WalkEntry :=
  let held1 := s.walkHeld die asid 1 va
  let e1 := held1.getD (BitVec.ofNat 64 (s.readPA ((s.asRec asid).top + 8 * (va / 2 ^ 42 % 512)) 8))
  if (s.walkHeld die asid 2 va).isSome then []
  else (if held1.isSome then [] else [⟨die, asid, 1, va / 2 ^ 42, e1⟩]) ++
    (if big then [] else [⟨die, asid, 2, va / 2 ^ 29, BitVec.ofNat 64 (s.readPA (pteFrame e1 * 65536 + 8 * (va / 2 ^ 29 % 8192)) 8)⟩])

/-- The physical address that a leaf entry gives for a virtual address (R49, R55): TA selects the second frame of a twin page. -/
def leafPA (pte : DWord) (big : Bool) (va : Nat) : Nat :=
  (pteFrame pte + (if pteTW pte && pteTA pte then 1 else 0)) * 65536 + (if big then va % 2 ^ 29 else va % 65536)

/-- The inactive frame of a twin page (R55, R108). -/
def leafTwinPA (pte : DWord) (big : Bool) (va : Nat) : Nat :=
  (pteFrame pte + (if pteTA pte then 0 else 1)) * 65536 + (if big then va % 2 ^ 29 else va % 65536)

/-! ### TLBs and walk caches (R51, R56) -/

/-- The pages that an entry translates: 8,192, a contiguous group of 32, or one. -/
def TlbEntry.reach (t : TlbEntry) : Nat := if t.big then 8192 else if t.mid then 32 else 1
/-- The entry translates an address. -/
def TlbEntry.covers (t : TlbEntry) (asid va : Nat) : Bool := t.asid == asid && t.page / t.reach == va / 65536 / t.reach
/-- The leaf that the entry gives for an address: in a contiguous group, the one derived from the entry that was walked (R51). -/
def TlbEntry.leafFor (t : TlbEntry) (va : Nat) : DWord :=
  if t.mid then t.pte + BitVec.ofNat 64 (va / 65536 % 32 * 65536) - BitVec.ofNat 64 (t.page % 32 * 65536) else t.pte

/-- The translation that a TLB holds for an address, if it may serve the access: one with DT clear serves no write (R52). -/
def State.tlbLookup (s : State) (unit : TlbUnit) (asid va : Nat) (write : Bool) : Option TlbEntry :=
  s.tlb.find? fun t => t.unit == unit && t.covers asid va && (!write || pteDT t.pte)

/-- A list without the item of number k among those that satisfy a test. -/
def dropNth {α : Type} (p : α → Bool) : Nat → List α → List α
  | _, [] => []
  | k, x :: xs => if p x then (match k with | 0 => xs | k + 1 => x :: dropNth p k xs) else x :: dropNth p k xs

/-- A list of which at most `bound` items satisfy a test before one more is put in front; which one leaves is a free value. -/
def makeRoom {α : Type} (p : α → Bool) (bound victim : Nat) (l : List α) : List α :=
  if (l.filter p).length < bound then l else dropNth p (victim % Nat.max 1 bound) l

/-- Entries that a TLB holds at most (R9). -/
def TlbUnit.size : TlbUnit → Nat
  | .l1 _ => Config.l1TlbEntries
  | .l2 _ => Config.l2TlbEntries

/-- A translation put into its TLB, in the place of any that the TLB holds for the address. -/
def State.tlbInsert (s : State) (t : TlbEntry) (va : Nat) : State :=
  let rest := s.tlb.filter fun x => !(x.unit == t.unit && x.covers t.asid va)
  { s with tlb := t :: makeRoom (fun x => x.unit == t.unit) t.unit.size (Config.evicted s.ticks) rest }

/-- Non-leaf entries put into a die's walk cache. -/
def State.walksInsert (s : State) (ws : List WalkEntry) : State :=
  ws.foldl (fun s w => { s with walks := w :: makeRoom (fun x => x.die == w.die) Config.walkCacheEntries (Config.evicted s.ticks) s.walks }) s

/-- The outcome of translating one page. -/
inductive Trans
  | ok (pa : Nat) (pte : DWord) (big : Bool)
  | fault
  | frozen
  | malformed
  deriving DecidableEq, Repr

/-- A leaf that a walk has found for a core: AC and, for a write, DT are set in the entry (R52), and the die's walk cache, the quad's TLB and the core's hold what the
walk found (R56); where the entry has CH set, they may hold its contiguous group at once (R51), which is a free value. -/
def State.leafFill (s : State) (core asid va : Nat) (write : Bool) (pe : Nat) (e : DWord) (big : Bool) : Trans × State :=
  let e' := e ||| (if write then 0x6000 else 0x2000)
  let s1 := s.walksInsert (s.walkPath (core / 64) asid va big)
  let s2 := if e' = e then s1 else s1.writePA pe 8 e'.toNat false
  let t : TlbEntry := ⟨.l2 (core / 4), asid, va / 65536, e', big, !big && pteCH e' && Config.contiguous s.ticks⟩
  (.ok (leafPA e' big va) e' big, (s2.tlbInsert t va).tlbInsert { t with unit := .l1 core } va)

/-- The walk of one page for a core (R52, R56, R60). -/
def State.walkFill (s : State) (core asid va : Nat) (write : Bool) : Trans × State :=
  match s.walkFrom (core / 64) asid va with
  | .malformed => (.malformed, s)
  | .fault _ _ _ => (.fault, s)
  | .leaf pe e big => if pteFZ e then (.frozen, s) else s.leafFill core asid va write pe e big

/-- Translation of one address for a core (R56): its own TLB first, then its quad's, then a walk. -/
def State.translate (s : State) (core asid va : Nat) (write : Bool) : Trans × State :=
  match s.tlbLookup (.l1 core) asid va write with
  | some t => (.ok (leafPA (t.leafFor va) t.big va) (t.leafFor va) t.big, s)
  | none =>
    match s.tlbLookup (.l2 (core / 4)) asid va write with
    | some t => (.ok (leafPA (t.leafFor va) t.big va) (t.leafFor va) t.big, s.tlbInsert { t with unit := .l1 core } va)
    | none => s.walkFill core asid va write

/-- Translation for an agent that has no TLB: the hubs and the Sheaf walk each time, and set AC and DT as every walk does (R52). -/
def State.translateHub (s : State) (asid va : Nat) (write : Bool) : Trans × State :=
  match s.walk asid va with
  | .malformed => (.malformed, s)
  | .fault _ _ _ => (.fault, s)
  | .leaf pe e big =>
    let e' := e ||| (if write then 0x6000 else 0x2000)
    if pteFZ e then (.frozen, s)
    else (.ok (leafPA e' big va) e' big, if e' = e then s else s.writePA pe 8 e'.toNat false)

/-- The page at an address has the SC attribute (R49, R261), as far as its entry is known: the translation held, the leaf in the tables, or the bits that
a demand entry keeps (R425 rule 1). -/
def State.pageSC (s : State) (core asid va : Nat) : Bool :=
  match s.tlbLookup (.l1 core) asid va false with
  | some t => pteSC t.pte
  | none =>
    match s.walk asid va with
    | .leaf _ e _ => pteSC e
    | .fault _ e 3 => pteLeaf e && pteSC e
    | _ => false

/-- The pages below a non-leaf entry of a level. -/
def WalkEntry.reach (w : WalkEntry) : Nat := if w.level == 1 then 2 ^ 26 else 8192

/-- Translations of an address space in a range of pages, and what walk caches hold of it, are dropped (R53). -/
def State.invalidate (s : State) (asid page n : Nat) : State :=
  let hit := fun (a first pages : Nat) => a == asid && (n == 0 || (decide (first < page + n) && decide (page < first + pages)))
  { s with
    tlb := s.tlb.filter fun t => !hit t.asid (t.page / t.reach * t.reach) t.reach
    walks := s.walks.filter fun w => !hit w.asid (w.prefix_ * w.reach) w.reach }

/-- The kinds of access whose page permissions R54 tells apart. -/
inductive Need | load | ldk | store | atomic | fetch | none_
  deriving DecidableEq, Repr

/-- The access writes (R52). -/
def Need.writes : Need → Bool
  | .store | .atomic => true
  | _ => false

/-- The kind in a fault ring record (R426). -/
def Need.kind : Need → AccKind
  | .store => .store
  | .atomic => .atomic
  | .fetch => .fetch
  | _ => .load

/-- The page permits the access (R54). -/
def pagePermits (pte : DWord) : Need → Bool
  | .load => pteR pte
  | .ldk => pteR pte && pteK pte
  | .store => pteW pte && !pteK pte
  | .atomic => pteR pte && pteW pte && pteA pte && !pteK pte
  | .fetch => pteX pte
  | .none_ => true

/-- A page fault is posted to the Sheaf, once for each page of an address space while it waits (R60, R426). -/
def State.postFault (s : State) (asid va : Nat) (kind : AccKind) (malformed : Bool) : State :=
  if s.faults.any (fun f => f.asid == asid && f.page == va / 65536) then s
  else { s with faults := s.faults ++ [⟨asid, va / 65536, kind, .posted, malformed⟩] }

/-- Reads n bytes of an address space by an agent of the hub, or none where the pages do not permit it or the address is
not of this package. The walk sets AC (R52). -/
def State.readVA (s : State) (asid va n : Nat) : Option Nat × State :=
  match s.translateHub asid va false with
  | (.ok pa pte _, s1) => (if pteR pte && s1.isLocal pa then some (s1.readPA pa n) else none, s1)
  | (_, s1) => (none, s1)

/-- Writes n bytes of an address space by an agent of the hub, or none where the pages do not permit it. Bytes of another package are to be sent there (R43). -/
def State.writeVA (s : State) (asid va n v : Nat) : Option State :=
  match s.translateHub asid va true with
  | (.ok pa pte _, s1) =>
    if !(pteW pte && !pteK pte) then none
    else if s.isLocal pa then some (s1.writePA pa n v false)
    else some { s1 with outgoing := s1.outgoing ++ [(asid, pa, n, v)] }
  | _ => none

end Sys2Proof.Machine
end

