-- ==== Sys2Proof/Machine/Ops.lean ====
section
/-! DEFINITION. The named operations that every meaning shares: groups, teams and launches by number; reading and writing registers
(R21, R33 to R35, R145); slots and the divergence stack (R274 to R279); barriers (R280, R298); retirement (R281, R316);
taking a trap and the double fault (R331 to R336); and issue, with the checks that come before an effect (R23, R32, R151, R303, R357). -/

namespace Sys2Proof.Machine

/-! ### Trap causes (R331) -/

def Cause.illegalOp : BitVec 8 := 0x01
def Cause.badForm : BitVec 8 := 0x02
def Cause.partialMask : BitVec 8 := 0x03
def Cause.addrLimit : BitVec 8 := 0x04
def Cause.addrPerm : BitVec 8 := 0x05
def Cause.misalign : BitVec 8 := 0x06
def Cause.pageFatal : BitVec 8 := 0x07
def Cause.padMismatch : BitVec 8 := 0x08
def Cause.lateCopy : BitVec 8 := 0x09
def Cause.poison : BitVec 8 := 0x0A
def Cause.huskMask : BitVec 8 := 0x0B
def Cause.huskReg : BitVec 8 := 0x0C
def Cause.huskOverrun : BitVec 8 := 0x0D
def Cause.huskForbidden : BitVec 8 := 0x0E
def Cause.huskRemote : BitVec 8 := 0x0F
def Cause.tillerNomark : BitVec 8 := 0x10
def Cause.tillerStale : BitVec 8 := 0x11
def Cause.tillerSpace : BitVec 8 := 0x12
def Cause.stackLimit : BitVec 8 := 0x13
def Cause.recipeBody : BitVec 8 := 0x14
def Cause.divStack : BitVec 8 := 0x15
def Cause.user : BitVec 8 := 0x16
def Cause.bkpt : BitVec 8 := 0x17
def Cause.double : BitVec 8 := 0x18
def Cause.engineFault : BitVec 8 := 0x19
def Cause.matrixFault : BitVec 8 := 0x1A
def Cause.launchFault : BitVec 8 := 0x1B

/-- A trap raised by an effect: its cause and TRAPINFO; the issuing code adds TRAPPC (R332). -/
structure Trap where
  cause : BitVec 8
  info : Nat
  deriving DecidableEq, Repr

/-! ### Groups, teams, launches by number -/

/-- Group n, if it is resident. -/
def State.group (s : State) (n : Nat) : Option Group := Tbl.get none s.groups n
/-- The state with group n replaced. -/
def State.setGroup (s : State) (n : Nat) (g : Group) : State := { s with groups := Tbl.set none s.groups n (some g) }
/-- Team n. -/
def State.team (s : State) (n : Nat) : Option Team := Tbl.get none s.teams n
/-- The state with team n replaced. -/
def State.setTeam (s : State) (n : Nat) (t : Team) : State := { s with teams := Tbl.set none s.teams n (some t) }
/-- Launch n. -/
def State.launch (s : State) (n : Nat) : Option Launch := Tbl.get none s.launches n
/-- The state with launch n replaced. -/
def State.setLaunch (s : State) (n : Nat) (l : Launch) : State :=
  { s with launches := Tbl.set none s.launches n (some l) }
/-- Core n. -/
def State.core (s : State) (n : Nat) : CoreSt := Tbl.get CoreSt.reset s.cores n
/-- Partition n's block. -/
def State.part (s : State) (n : Nat) : Part := Tbl.get Part.reset s.parts n
/-- The state with partition n's block replaced. -/
def State.setPart (s : State) (n : Nat) (p : Part) : State := { s with parts := Tbl.set Part.reset s.parts n p }
/-- The team of a group. -/
def State.teamOf (s : State) (g : Group) : Option Team := s.team g.team
/-- The launch of a group. -/
def State.launchOf (s : State) (g : Group) : Option Launch := (s.teamOf g).bind fun t => s.launch t.launch
/-- The address space of a group (R320). -/
def State.asidOf (s : State) (g : Group) : Nat := ((s.launchOf g).map Launch.asid).getD 0
/-- The core of a group. -/
def State.coreOf (s : State) (g : Group) : Nat := ((s.teamOf g).map Team.core).getD 0
/-- The code sections of a group's launch (R15). -/
def State.sectsOf (s : State) (g : Group) : List (Nat × Nat) := ((s.launchOf g).map Launch.sects).getD []
/-- The stack-window size of a group's launch (R70). -/
def State.wsOf (s : State) (g : Group) : Nat := ((s.launchOf g).map fun l => l.hdr.ws).getD 0
/-- The node record of a team. -/
def State.nodeOf (s : State) (t : Team) : Option NodeRec := (s.launch t.launch).bind fun l => l.nodes[t.node]?

/-- An item replaced in a list, nothing where the index is past its end. -/
def setAt {α : Type} (l : List α) (i : Nat) (x : α) : List α := l.set i x

/-! ### Lanes (R22, R35, R273) -/

/-- Lanes that a group is built of: 64 in a pair, else 32. -/
def Group.w (g : Group) : Nat := if g.width = 64 then 64 else 32
/-- Lanes that are not permanently inactive (R273). -/
def Group.all (g : Group) : Mask := if g.width = 64 then 0xFFFFFFFFFFFFFFFF else if g.width = 16 then 0xFFFF else 0xFFFFFFFF
/-- Lanes that have not exited. -/
def Group.alive (g : Group) : Mask := g.all &&& ~~~g.exited
/-- The path of a slot. -/
def Group.slot (g : Group) : SlotId → Option Path
  | .a => g.slotA
  | .b => g.slotB
/-- The group with the path of a slot replaced. -/
def Group.setSlot (g : Group) (k : SlotId) (p : Option Path) : Group :=
  match k with
  | .a => { g with slotA := p }
  | .b => { g with slotB := p }
/-- The other slot. -/
def SlotId.other : SlotId → SlotId
  | .a => .b
  | .b => .a
/-- The active lanes of a path (R274). -/
def Group.active (g : Group) (p : Path) : Mask := p.mask &&& g.alive
/-- Issue from a slot is under a full mask (R22). -/
def Group.fullMask (g : Group) (k : SlotId) (p : Path) : Bool := g.slot k.other == none && g.active p == g.alive

/-! ### Vector registers (R21, R34, R145) -/

/-- Vector register r. -/
def Group.vreg (g : Group) (r : Nat) : VReg := Tbl.get VReg.empty g.v r
/-- The group with vector register r replaced. -/
def Group.setVreg (g : Group) (r : Nat) (x : VReg) : Group := { g with v := Tbl.set VReg.empty g.v r x }

/-- The register lies in the backing area (R160). -/
def Hold.isSpilled : Hold → Bool
  | .spilled _ _ => true
  | _ => false

/-- The value and poison mark that a held register delivers in a lane (R145); a FOLDED register must have been formed first. -/
def Hold.read : Hold → Nat → Word × Bool
  | .empty, _ => (0, false)
  | .rows vals ps, i => (Tbl.get 0 vals i, ps.getLsbD i)
  | .uniform v q, _ => (v, q)
  | .folded, _ => (0, false)
  | .spilled vals ps, i => (Tbl.get 0 vals i, ps.getLsbD i)

/-- What register r delivers in lane i, with its poison mark; permanently inactive lanes read zero (R21, R34). -/
def Group.rdp (g : Group) (r i : Nat) : Word × Bool :=
  if i < g.width then (g.vreg r).hold.read i else (0, false)
/-- Reg(v, i) of R39. -/
def Group.rd (g : Group) (r : BitVec 6) (i : Nat) : Word := (g.rdp r.toNat i).1
/-- The poison mark of register r in lane i. -/
def Group.bad (g : Group) (r : BitVec 6) (i : Nat) : Bool := (g.rdp r.toNat i).2
/-- The 64-bit value of the pair from r upward, low word in r (R39). -/
def Group.rd2 (g : Group) (r : BitVec 6) (i : Nat) : DWord := g.rd (r + 1) i ++ g.rd r i
/-- The 128-bit value of the quad from r upward. -/
def Group.rd4 (g : Group) (r : BitVec 6) (i : Nat) : BitVec 128 := g.rd2 (r + 2) i ++ g.rd2 r i
/-- Some register of n from r upward is poisoned in lane i. -/
def Group.badN (g : Group) (r : BitVec 6) (n i : Nat) : Bool :=
  (List.range n).any fun k => (g.rdp (r.toNat + k) i).2

/-- A write of lane values to a vector register that does not compress it (R145): active lanes take the values, every other lane
keeps what the register delivered. -/
def Group.writeLanes (g : Group) (act : Mask) (r : Nat) (lanes : List (Word × Bool)) : Group :=
  let old := g.vreg r
  let new := fun i => if act.getLsbD i then Tbl.get (0, false) lanes i else g.rdp r i
  let vals := (List.range g.w).map fun i => (new i).1
  let ps := Mask.ofFn fun i => decide (i < g.w) && (new i).2
  g.setVreg r { old with recipe := none, hold := match old.hold with
    | .spilled _ _ => .spilled vals ps
    | _ => .rows vals ps }

/-- A write of one value to every active lane; under a full mask with no lane exited it compresses the register (R21). -/
def Group.writeUniform (g : Group) (act : Mask) (full : Bool) (r : Nat) (val : Word) (bad : Bool) : Group :=
  if full && g.exited == 0 then g.setVreg r { g.vreg r with hold := .uniform val bad, recipe := none }
  else g.writeLanes act r (List.replicate 64 (val, bad))

/-- Predicate r, all ones for p7 (R33). -/
def Group.pred (g : Group) (r : BitVec 3) : Mask := if r = 7 then g.all else Tbl.get 0 g.p r.toNat
/-- The poison marks of predicate r. -/
def Group.predBad (g : Group) (r : BitVec 3) : Mask := if r = 7 then 0 else Tbl.get 0 g.pPoison r.toNat
/-- A write of a predicate's active lanes; p7 ignores writes (R33). -/
def Group.writePred (g : Group) (act : Mask) (r : BitVec 3) (vals bad : Mask) : Group :=
  if r = 7 then g
  else { g with
    p := Tbl.set 0 g.p r.toNat ((Tbl.get 0 g.p r.toNat &&& ~~~act) ||| (vals &&& act))
    pPoison := Tbl.set 0 g.pPoison r.toNat ((Tbl.get 0 g.pPoison r.toNat &&& ~~~act) ||| (bad &&& act)) }
/-- Pattern register n. -/
def Group.xreg (g : Group) (n : Nat) : BitVec 16 := Tbl.get 0 g.x n
/-- Address register n. -/
def Group.areg (g : Group) (n : BitVec 4) : Desc := Tbl.get Desc.null g.a n.toNat
/-- The group with address register n replaced. -/
def Group.setAreg (g : Group) (n : BitVec 4) (d : Desc) : Group := { g with a := Tbl.set Desc.null g.a n.toNat d }
/-- Format register n. -/
def Group.freg (g : Group) (n : BitVec 2) : Word := Tbl.get 0 g.f n.toNat
/-- Reconvergence mask n. -/
def Group.jreg (g : Group) (n : Nat) : Mask := Tbl.get 0 g.j n

/-- The lane that lane i reads through a pattern register's value (R35); none for a reserved kind. -/
def patternLane (x : BitVec 16) (w i : Nat) : Option Nat :=
  let k := x.toNat % 8192
  match x.toNat / 8192 with
  | 0 => some i
  | 1 => some ((i + k) % w)
  | 2 => some (k % w)
  | 3 => some (Nat.xor i k % w)
  | 4 => some (Nat.xor i (2 ^ Nat.min k (if w = 64 then 6 else 5) - 1))
  | _ => none

/-- The pattern that a source select names (R26): 0 is no pattern. -/
def Group.pattern (g : Group) (sel : BitVec 2) : BitVec 16 := if sel = 0 then 0 else g.xreg (sel.toNat - 1)

/-- Pattern(v, sel, i) of R39 with its poison mark; a reserved pattern traps BAD_FORM with the pattern's value (R35). -/
def Group.src (g : Group) (v : BitVec 6) (sel : BitVec 2) (i : Nat) : Except Trap (Word × Bool) :=
  match patternLane (g.pattern sel) g.w i with
  | some l => .ok (g.rdp v.toNat l)
  | none => .error ⟨Cause.badForm, (g.pattern sel).toNat⟩

/-! ### Effects on registers -/

/-- One register write of an effect. -/
inductive Write
  | lanes (r : Nat) (vals : List (Word × Bool))
  | uniform (r : Nat) (val : Word) (bad : Bool)
  | pred (r : BitVec 3) (vals bad : Mask)
  | x (n : Nat) (val : BitVec 16)
  | a (n : BitVec 4) (d : Desc)
  | f (n : BitVec 2) (val : Word)
  | rngs (vals : List (Nat × Word))
  | foldpol (val : Word)
  | matcnt (val : Word)
  | trappc (val : DWord)
  | trapinfo (val : DWord)
  deriving DecidableEq, Repr

/-- One write applied, for the active lanes, under a full mask or not. -/
def Group.apply (g : Group) (act : Mask) (full : Bool) : Write → Group
  | .lanes r vals => g.writeLanes act r vals
  | .uniform r val bad => g.writeUniform act full r val bad
  | .pred r vals bad => g.writePred act r vals bad
  | .x n val => { g with x := Tbl.set 0 g.x n val }
  | .a n d => g.setAreg n d
  | .f n val => { g with f := Tbl.set 0 g.f n.toNat val }
  | .rngs vals => { g with rngs := vals.foldl (fun r e => Tbl.set 0 r e.1 e.2) g.rngs }
  | .foldpol val => { g with foldpol := val }
  | .matcnt val => { g with matcnt := val }
  | .trappc val => { g with trap := { g.trap with pc := val } }
  | .trapinfo val => { g with trap := { g.trap with info := val } }

/-- The vector register that a write names. -/
def Write.vreg? : Write → Option Nat
  | .lanes r _ | .uniform r _ _ => some r
  | _ => none

/-- What an instruction computes from its sources: register writes and exception-counter increments (R210). -/
structure Eff where
  writes : List Write
  counts : List Nat
  deriving DecidableEq, Repr

/-! ### Row storage (R144, R156, R160) -/

/-- Rows a group holds; a pair's registers take two rows each (R144). -/
def Group.rowsHeld (g : Group) : Nat :=
  ((List.range 64).filter fun r => match (g.vreg r).hold with | .rows _ _ => true | _ => false).length
    * (if g.width = 64 then 2 else 1)

/-- Register floor of a group's node, in rows of all its hardware groups (R271). -/
def State.floorOf (s : State) (g : Group) : Nat :=
  ((s.teamOf g).map Team.floor).getD 0 * (if g.width = 64 then 2 else 1)

/-- The resident groups, with their numbers. -/
def State.resident (s : State) : List (Nat × Group) :=
  (List.range s.groups.length).filterMap fun n => (s.group n).map fun g => (n, g)

/-- Rows of a core that its other groups hold or have reserved (R271). -/
def State.rowsOthers (s : State) (n : Nat) (g : Group) : Nat :=
  ((s.resident.filter fun e => e.1 != n && s.coreOf e.2 == s.coreOf g).map
    fun e => Nat.max (s.floorOf e.2) e.2.rowsHeld).foldl (· + ·) 0

/-- The group is inside a husk, its own or an adopted one, whose registers include r (R166). -/
def Group.huskReg (g : Group) (r : Nat) : Bool :=
  match g.husk with
  | some h => (h.inside || h.adopt) && decide (r < 32) && h.mask.getLsbD r
  | none => false

/-- Register r may fold (R155, R166): in rows with a recipe, not locked, no pin of it folded, itself no pin of a folded register, and no
register of a husk that the group is inside. -/
def Group.foldable (g : Group) (r : Nat) : Bool :=
  match (g.vreg r).hold, (g.vreg r).recipe with
  | .rows _ _, some rc =>
    (g.vreg r).locks == 0 && !g.huskReg r && !(List.range 64).any fun k =>
      (g.vreg k).hold == .folded && (rc.pins.v.getLsbD k || match (g.vreg k).recipe with
        | some rk => rk.pins.v.getLsbD r
        | none => false)
  | _, _ => false

/-- Register r goes to the group's backing area (R160), and loses a recipe that it carries; a locked one stays. -/
def Group.spill (g : Group) (r : Nat) : Group :=
  match (g.vreg r).hold with
  | .rows vals ps => if (g.vreg r).locks != 0 then g else g.setVreg r { g.vreg r with hold := .spilled vals ps, recipe := none }
  | _ => g

/-- Registers that hold a row. -/
def Group.inRows (g : Group) : BitVec 64 := BitVec.ofNat 64 ((List.range 64).foldl (fun m r =>
  m + match (g.vreg r).hold with | .rows _ _ => 2 ^ r | _ => 0) 0)

/-- Rows that a group may hold in its core (R271). -/
def State.rowLimit (s : State) (n : Nat) (g : Group) : Nat := Nat.max (s.floorOf g) (Config.rowsPerCore - s.rowsOthers n g)

/-- Group n holds no more rows than it may. -/
def State.rowsFit (s : State) (n : Nat) : Bool := match s.group n with | none => true | some g => decide (g.rowsHeld ≤ s.rowLimit n g)

/-- Register r of group k folds for the sake of group n, where group n still lacks a row (R156). -/
def State.foldFor (s : State) (n k r : Nat) : State :=
  match s.group k with
  | none => s
  | some g =>
    if !s.rowsFit n && g.foldable r && g.foldpol != 0 then s.setGroup k (g.setVreg r { g.vreg r with hold := .folded }) else s

/-- Register r of group n goes to its backing area where the group still lacks a row (R160). -/
def State.spillFor (s : State) (n r : Nat) : State :=
  match s.group n with
  | none => s
  | some g => if s.rowsFit n then s else s.setGroup n (g.spill r)

/-- The groups of a group's core, the group itself first. -/
def State.coreMates (s : State) (n : Nat) (g : Group) : List Nat :=
  n :: (s.resident.filter fun e => e.1 != n && s.coreOf e.2 == s.coreOf g).map Prod.fst

/-- Group n's rows made to fit its core; `had` are the registers that held rows before. Under the pressure policy registers of the core's groups that fold
under policy 1 or 2 give their rows (R156); where that is not enough, the registers that needed a row go to the backing area, before any other (R160). Which
registers fold is not architectural: log entry 56. -/
def State.fitRows (s : State) (n : Nat) (had : BitVec 64) : State :=
  match s.group n with
  | none => s
  | some g =>
    if g.rowsHeld ≤ s.rowLimit n g then s
    else
      let s1 := if g.foldpol != 1 then s
        else (s.coreMates n g).foldl (fun s k => (List.range 64).foldl (fun s r => s.foldFor n k r) s) s
      let rs := (List.range 64).filter fun r => !had.getLsbD r
      (rs ++ (List.range 64).filter fun r => had.getLsbD r).foldl (fun s r => s.spillFor n r) s1

/-! ### Code addresses (R15, R16) -/

/-- The code section that holds an address. -/
def sectOf (sects : List (Nat × Nat)) (pc : Nat) : Option (Nat × Nat) :=
  sects.find? fun s => s.1 ≤ pc && pc < s.1 + s.2
/-- The address is a packet start of some section (R16). -/
def isPacket (sects : List (Nat × Nat)) (pc : Nat) : Bool :=
  match sectOf sects pc with
  | some s => (pc - s.1) % 12 == 0
  | none => false
/-- The packet that holds an address; the address itself outside every section. -/
def packetOf (sects : List (Nat × Nat)) (pc : Nat) : Nat :=
  match sectOf sects pc with
  | some s => s.1 + (pc - s.1) / 12 * 12
  | none => pc
/-- A target is a multiple of 4 that is the start of a packet where some section holds it, and a multiple of 4 elsewhere
(R16, R288 check 4). -/
def targetAligned (sects : List (Nat × Nat)) (t : Nat) : Bool :=
  match sectOf sects t with
  | some s => (t - s.1) % 12 == 0
  | none => t % 4 == 0

/-! ### Slots and the divergence stack (R274 to R279) -/

/-- The stack that the group diverges in: its trap-level entries in a handler (R278, R335). -/
def Group.curStack (g : Group) : List DivEntry := if g.trap.level then g.tstack else g.stack
/-- The group with that stack replaced. Lists grow at their end: the top is the last entry. -/
def Group.setStack (g : Group) (st : List DivEntry) : Group :=
  if g.trap.level then { g with tstack := st } else { g with stack := st }
/-- Entries that the stack holds at most (R278): d spilled entries for each hardware group at program level, none in a handler. -/
def Group.stackCap (g : Group) (d : Nat) : Nat :=
  (if g.trap.level then Config.divTrapEntries else Config.divProgEntries + d) * (if g.width = 64 then 2 else 1)

/-- A fresh path. -/
def Path.mk' (pc : DWord) (mask : Mask) (rpc : DWord) : Path := ⟨pc, mask, rpc, none, none, none, false⟩

/-- A path that stands at its reconvergence PC empties its slot (R275). -/
def Path.arrived (p : Path) : Bool := p.rpc != 0 && p.pc == p.rpc

/-- The loop turn (R302): about to issue the packet at stop, the path goes back to start or leaves the loop. A loop buffer whose words ICINV has made old is
filled anew from the next iteration on (R305). -/
def Path.turn (p : Path) : Option Path :=
  match p.loop with
  | some l =>
    if p.pc == l.stop then
      some (if l.remaining - 1 == 0 then { p with loop := none }
            else { p with pc := l.start, loop := some (if l.old then { l with remaining := l.remaining - 1, buf := [], old := false }
              else { l with remaining := l.remaining - 1 }) })
    else none
  | none => none

/-- One step of R276, of an arrival at rpc, or of a loop turn; none when none applies. -/
def Group.settle1 (g : Group) : Option Group :=
  match g.slotA.bind Path.turn with
  | some p => some { g with slotA := some p }
  | none =>
  match g.slotB.bind Path.turn with
  | some p => some { g with slotB := some p }
  | none =>
  if (g.slotA.map Path.arrived).getD false then some { g with slotA := none }
  else if (g.slotB.map Path.arrived).getD false then some { g with slotB := none }
  else
    match g.curStack.getLast? with
    | none => none
    | some e =>
      let rest := g.setStack g.curStack.dropLast
      let m := e.mask &&& g.alive
      let path := Path.mk' e.pc m e.rpc
      match e.kind with
      | .join =>
        if g.slotA == none && g.slotB == none then some (if m == 0 then rest else { rest with slotA := some path })
        else none
      | .parked | .held _ true =>
        if g.slotA != none && g.slotB != none then none
        else if m == 0 then some rest
        else if g.slotA == none then some { rest with slotA := some path }
        else some { rest with slotB := some path }
      | .held _ false => none

/-- The steps of R276 until none applies. -/
def Group.settleN : Nat → Group → Group
  | 0, g => g
  | n + 1, g =>
    match g.settle1 with
    | some g' => Group.settleN n g'
    | none => g

/-- The group after R276. -/
def Group.settle (g : Group) : Group := g.settleN (2 * g.curStack.length + 8)

/-- A divergence stack entry (R277). -/
def DivEntry.fields (e : DivEntry) (at_ : Nat) : List (Nat × Nat × Nat) :=
  let k := match e.kind with
    | .join => 0
    | .parked => 2 ^ 60
    | .held b rel => 2 * 2 ^ 60 + b * 2 ^ 56 + (if rel then 2 ^ 55 else 0)
  [(at_, 8, e.pc.toNat), (at_ + 8, 8, e.rpc.toNat), (at_ + 16, 8, e.mask.toNat), (at_ + 24, 8, k)]

/-- Divergence entries one after another. -/
def entryFields (at_ : Nat) (l : List DivEntry) : List (Nat × Nat × Nat) := (l.mapIdx fun k e => e.fields (at_ + 32 * k)).flatten

/-- Entries written one after another into an address space. -/
def State.putEntries (s : State) (asid at_ : Nat) (l : List DivEntry) : State :=
  (entryFields at_ l).foldl (fun s f => (s.writeVA asid f.1 f.2.1 f.2.2).getD s) s

/-- How many of the lowest program-level entries lie in the spill area once a push or a pop is over (R278): they go there by eights when the local places
are full, and eight come back each time that pops have emptied the local places, so after pops past them as often as the entries have run out. -/
def Group.spiltNow (g : Group) : Nat :=
  let room := Config.divProgEntries * (if g.width = 64 then 2 else 1)
  if g.stack.length ≤ g.spilt then g.spilt - (g.spilt - g.stack.length) / 8 * 8 - 8
  else if room < g.stack.length - g.spilt then g.spilt + (g.stack.length - g.spilt - room + 7) / 8 * 8
  else g.spilt

/-- The divergence entries of group n moved between the local places and its launch slot's part of the spill area (R278). -/
def State.respill (s : State) (n : Nat) : State :=
  match s.group n with
  | none => s
  | some g =>
    let k := g.spiltNow
    if k == g.spilt then s
    else
      let s1 := match s.launchOf g with
        | some l => if g.spilt < k then s.putEntries l.asid (l.hdr.spill + g.lslot * l.hdr.d * 32) (g.stack.take k) else s
        | none => s
      s1.setGroup n { g with spilt := k }

/-- What follows every effect of an instruction of group n: its rows fit its core (R156, R160) and its divergence entries have their places (R278). -/
def State.fitAreas (s : State) (n : Nat) (had : BitVec 64) : State := (s.fitRows n had).respill n

/-! ### Barriers (R280, R298) -/

/-- Lanes of a group held at a barrier: HELD entries stand in the program-level stack, since a handler may not wait (R299). -/
def Group.heldAt (g : Group) (bar : Nat) : Mask :=
  g.stack.foldl (fun m e => match e.kind with | .held b false => if b == bar then m ||| e.mask else m | _ => m) 0

/-- The group has arrived at a level's barrier: every lane that has not exited is held there (R280). -/
def Group.arrivedAt (g : Group) (bar : Nat) : Bool := (g.alive &&& ~~~g.heldAt bar) == 0

/-- The barrier releases the group's entries (R280, R298). -/
def Group.release (g : Group) (bar : Nat) : Group :=
  { g with stack := g.stack.map fun e => match e.kind with
    | .held b _ => if b == bar then { e with kind := .held b true } else e
    | _ => e }

/-- The live groups of a team. -/
def State.groupsOf (s : State) (t : Team) : List (Nat × Group) :=
  t.groups.filterMap fun n => (s.group n).map fun g => (n, g)

/-- An ACCST or ACCLD of the group waits or goes on (R247). -/
def Group.mxMoves (g : Group) : Bool := g.mx.any fun w => match w.instr with | .accst .. | .accld .. => true | _ => false

/-- No access of the group waits in the operand log or for answers of another package. -/
def Group.quiet (g : Group) : Bool := (g.log.all fun e => e.kind != .access) && g.remote.isEmpty

/-- Every access that the group has issued has performed: none is in the operand log, under way to another package, or to be made by an ACCST or
ACCLD (R247, R263). -/
def Group.performed (g : Group) : Bool := g.quiet && !g.mxMoves

/-- A team has arrived: each group that has not retired has (R280), and what it accessed before has performed, so that every participant's departure
comes after it (R263). -/
def State.teamArrived (s : State) (t : Team) (bar : Nat) : Bool := (s.groupsOf t).all fun e => e.2.arrivedAt bar && e.2.performed

/-- Some group of the team is held at the barrier. -/
def State.teamHeld (s : State) (t : Team) (bar : Nat) : Bool := (s.groupsOf t).any fun e => e.2.heldAt bar != 0

/-- The instance of a level that a core lies in (R8): itself, its quad, its die, the package. -/
def levelInstance (lvl core : Nat) : Nat :=
  match lvl with
  | 0 => core
  | 1 => core / 4
  | 2 => core / 64
  | _ => 0

/-- The resident teams that take part in a barrier with a team (R280): itself at core level; above it, the teams of its gang in
its instance of the level. -/
def State.participants (s : State) (n : Nat) (t : Team) (bar : Nat) : List (Nat × Team) :=
  (List.range s.teams.length).filterMap fun k => (s.team k).bind fun u =>
    if !u.live then none
    else if k == n then some (k, u)
    else if bar == 8 then none
    else match s.nodeOf t, s.nodeOf u with
      | some a, some b =>
        if u.launch == t.launch && a.gang == b.gang && a.gid == b.gid && a.gang != 0 &&
            levelInstance (bar - 8) t.core == levelInstance (bar - 8) u.core then some (k, u) else none
      | _, _ => none

/-- The members of a node's gang (R272), the node alone without a gang. -/
def Launch.gangOf (l : Launch) (n : Nat) : List Nat :=
  match l.nodes[n]? with
  | none => []
  | some r =>
    if r.gang == 0 then [n]
    else (List.range l.nodes.length).filter fun k => match l.nodes[k]? with
      | some q => q.gang == r.gang && q.gid == r.gid
      | none => false

/-- No node of a team's gang is saved: the teams of a gang that halts are saved one after another along the ramp (R329, R341), and until they are all back none of their
barriers completes without the others. -/
def State.gangWhole (s : State) (t : Team) (bar : Nat) : Bool :=
  bar == 8 || match s.launch t.launch with
    | none => true
    | some l => (l.gangOf t.node).all fun n => (l.runs[n]?.map NodeRun.st) != some .saved

/-- The barrier of a level (core to pkg) completes once every participant has arrived; every held entry is then released, and what its lanes load from now on no line read before serves (R136, R263). The pod
barrier (12) is the hub's, which counts the team's arrival in its word (R325). -/
def State.barrierTest (s : State) (n bar : Nat) : State :=
  match s.team n with
  | none => s
  | some t =>
    let ps := s.participants n t bar
    if decide (bar < 12) && s.gangWhole t bar && ps.all (fun e => s.teamArrived e.2 bar) && ps.any (fun e => s.teamHeld e.2 bar) then
      (ps.flatMap fun e => s.groupsOf e.2).foldl (fun s e => s.setGroup e.1 { e.2.release bar with l1Since := s.ticks }) s
    else s

/-- The barriers of every level below pod, tested after an arrival, an exit or a retirement. -/
def State.barriersTest (s : State) (n : Nat) : State := [8, 9, 10, 11].foldl (fun s b => s.barrierTest n b) s

/-- jN completes when every lane of its mask has arrived, in a HELD entry or exited; `arr` are the lanes of an arriving path. -/
def Group.joinComplete (g : Group) (n : Nat) (arr : Mask) : Bool :=
  (g.jreg n &&& ~~~(arr ||| g.heldAt n ||| g.exited)) == 0

/-- HELD(N) entries with equal pc and rpc merge into the topmost of them (R298). -/
def mergeHeld (bar : Nat) : List DivEntry → List DivEntry
  | [] => []
  | e :: es =>
    let rest := mergeHeld bar es
    match e.kind with
    | .held b _ =>
      if b == bar then
        match rest.findIdx? fun f => (match f.kind with | .held c _ => c == bar | _ => false) && f.pc == e.pc && f.rpc == e.rpc with
        | some k => rest.modify k fun f => { f with mask := f.mask ||| e.mask }
        | none => e :: rest
      else e :: rest
    | _ => e :: rest

/-- Completion of jN without an arriving path: entries merge, are released, and the mask empties (R298). -/
def Group.joinRelease (g : Group) (n : Nat) : Group :=
  let g' := Group.release { g with stack := mergeHeld n g.stack } n
  { g' with j := Tbl.set 0 g'.j n 0 }

/-- The run of a group's team is restart-safe no longer (R349). -/
def State.endSafe (s : State) (g : Group) : State :=
  match s.team g.team with
  | some t => if t.safe then s.setTeam g.team { t with safe := false } else s
  | none => s

/-- Every RJOIN barrier of the group tested at an EXIT (R300). -/
def Group.joinsTest (g : Group) : Group :=
  (List.range 8).foldl (fun g n => if (g.heldAt n != 0 || g.jreg n != 0) && g.joinComplete n 0 then g.joinRelease n else g) g

/-! ### Nodes and retirement (R281, R315 to R317, R350) -/

/-- A value kept between two bounds. -/
def clampInt (lo hi x : Int) : Int := if x < lo then lo else if hi < x then hi else x

/-- The address of a queue's control block (R319): log entry 9. -/
def State.qcb (s : State) (q : Nat) : Nat := s.qcbBase + 256 * q
/-- Word k of a queue's control block. -/
def State.qword (s : State) (q k : Nat) : Nat := s.readPA (s.qcb q + 8 * k) 8
/-- A queue's priority (R319). -/
def State.queuePrio (s : State) (q : Nat) : Nat := s.qword q 1 / 256 % 256

/-- A node's base priority (R317). -/
def State.basePrio (s : State) (l : Launch) (n : NodeRec) : Nat :=
  (clampInt 0 255 ((((l.qprio.getD (s.queuePrio l.queue)) : Nat) : Int) + n.delta)).toNat

/-- A node whose predecessors are complete becomes ready, with its gang once every member can (R272, R315). -/
def State.makeReady (s : State) (l : Launch) (n : Nat) : Launch :=
  let gang := l.gangOf n
  if gang.all fun k => match l.runs[k]? with | some r => r.st == .waiting && r.preds == 0 | none => false then
    { l with runs := (List.range l.runs.length).filterMap fun k => (l.runs[k]?).map fun r =>
        if gang.contains k then
          { r with st := .ready, readyAt := s.cycle, prio := ((l.nodes[k]?).map (s.basePrio l)).getD 0, pooled := none }
        else r }
  else l

/-- A node completes (R315): each successor's count falls, and at zero the successor becomes ready. -/
def State.nodeComplete (s : State) (l : Launch) (n : Nat) : Launch :=
  match l.nodes[n]?, l.runs[n]? with
  | some rec, some run =>
    let l1 := { l with runs := setAt l.runs n { run with st := .complete } }
    ((List.range rec.nsucc).map fun k => Tbl.get 0 l.edges (rec.first + k)).foldl (fun l m =>
      match l.runs[m]? with
      | some r =>
        let l2 := { l with runs := setAt l.runs m { r with preds := r.preds - 1 } }
        if r.preds ≤ 1 then s.makeReady l2 m else l2
      | none => l) l1
  | _, _ => l

/-- A node faults fatally (R316): the launch keeps the first fault. A node whose team is still resident or saved is over once that has gone. -/
def Launch.nodeFault (l : Launch) (n reason : Nat) : Launch :=
  { l with
    faulted := (match l.faulted with | some f => some f | none => some (n, reason))
    runs := match l.runs[n]? with
      | some r => setAt l.runs n { r with bad := true, st := if r.st == .resident || r.st == .saved then r.st else .faulted }
      | none => l.runs }

/-- Exception counts added position by position, saturating (R211, R350). -/
def addCounts (a b : List Nat) : List Nat :=
  (List.range (Nat.max a.length b.length)).map fun k => Nat.min 0xFFFFFFFF (Tbl.get 0 a k + Tbl.get 0 b k)

/-- A team whose last group has retired retires (R281 rules 3 and 4): counts join the launch, the node completes unless it has
faulted. -/
def State.teamRetire (s : State) (n : Nat) : State :=
  match s.team n with
  | none => s
  | some t =>
    let s1 := s.setTeam n { t with live := false, localMem := [], localPoison := [], counts := [] }
    match s1.launch t.launch with
    | none => s1
    | some l =>
      let l1 := { l with counts := addCounts l.counts t.counts }
      let l2 := match l1.runs[t.node]? with
        | some r => if r.bad then { l1 with runs := setAt l1.runs t.node { r with st := .faulted } } else s1.nodeComplete l1 t.node
        | none => l1
      s1.setLaunch t.launch l2

/-- A group retires (R281 rule 2): its registers, records, reservations, tiles, areas and launch slots are freed, its work in the
engine and matrix array is gone, and its team retires with its last group. -/
def State.retire (s : State) (n : Nat) : State :=
  match s.group n with
  | none => s
  | some g =>
    let s1 := { s with groups := Tbl.set none s.groups n none, copies := s.copies.filter fun c => c.group != n }
    match s1.team g.team with
    | none => s1
    | some t =>
      let s2 := match s1.launch t.launch with
        | some l => s1.setLaunch t.launch { l with slots := l.slots.filter fun k =>
            k != g.lslot && !(g.width == 64 && k == g.lslot + 1) }
        | none => s1
      let s3 := if (s2.groupsOf t).isEmpty then s2.teamRetire g.team else s2
      s3.barriersTest g.team

/-! ### Husk lock blocks: the purge of a key (R352, R367) -/

/-- Word k of a lock block. -/
def State.lockWord (s : State) (pa k : Nat) : Nat := s.readPA (pa + 8 * k) 8
/-- Word k of a lock block written. -/
def State.setLockWord (s : State) (pa k v : Nat) : State := s.writePA (pa + 8 * k) 8 v false

/-- One lock block purged of a key (R367): its slots are freed; a lock it holds becomes an orphan; an adoption it runs is undone. -/
def State.purgeBlock (s : State) (key pa : Nat) : State :=
  let s1 := (List.range 4).foldl (fun s j =>
    if s.lockWord pa (16 + 4 * j) == key then (s.setLockWord pa (16 + 4 * j) 0).setLockWord pa (19 + 4 * j) 0 else s) s
  let s2 := if s1.lockWord pa 1 == key then s1.setLockWord pa 0 (Nat.lor (s1.lockWord pa 0) 2) else s1
  if s2.lockWord pa 14 == key then
    (s2.setLockWord pa 14 0).setLockWord pa 0 (Nat.lor (s2.lockWord pa 0 - (if s2.lockWord pa 0 / 4 % 2 = 1 then 4 else 0)) 2)
  else s2

/-- Every lock block of the package that an acquisition has recorded is purged of a key (R367), and the husk units keep the key among the purged: what they
still do for it finds its holder gone. -/
def State.purge (s : State) (key : DWord) : State :=
  if key == 0 then s
  else (fun (s1 : State) => { s1 with purged := addNat s1.purged key.toNat }) (s.huskLocks.foldl (fun s pa => s.purgeBlock key.toNat pa) s)

/-- The cycle at which a wait that begins now has lasted for the orphan threshold (R65, R400): 1 µs to 10 ms. -/
def State.orphanDue (s : State) : Nat := s.cycle + Config.cyclesOfUs (Nat.min 10000 (Nat.max 1 s.regs.orphth.toNat))

/-! ### Traps (R331 to R338) -/

/-- The faults that a group's engine and matrix work has raised and that are not delivered to it (R64): the Sheaf logs them. -/
def Group.faultNotes (g : Group) : List SheafNote :=
  (g.copyFaults.map fun la => (⟨3, Cause.engineFault, 0, BitVec.ofNat 64 la⟩ : SheafNote)) ++
    (match g.mxFault with | some f => [⟨3, Cause.matrixFault, f.pc, BitVec.ofNat 64 (f.reason + f.what * 256)⟩] | none => [])

/-- A group ends through a fault: its node faults with a reason, its husks are purged, and it retires (R316, R336, R367). -/
def State.endGroup (s : State) (n reason : Nat) : State :=
  match s.group n with
  | none => s
  | some g =>
    let s1 := match s.team g.team with
      | some t => (match s.launch t.launch with
        | some l => s.setLaunch t.launch (l.nodeFault t.node reason)
        | none => s)
      | none => s
    (s1.purge g.key).retire n

/-- The double fault (R336): both causes are logged, the group ends, its node faults with reason 0x18. -/
def State.doubleFault (s : State) (n : Nat) (t1 t2 : TrapReq) : State :=
  let s1 : State := { s with chain := 0, sheafLog := s.sheafLog ++
    [⟨1, t1.cause, t1.pc, t1.info⟩, ⟨2, t2.cause, t2.pc, t2.info⟩] }
  s1.endGroup n 0x18

/-- The tag of a landing pad's word (R295). -/
def padTag (w : Word) : Option (BitVec 8) :=
  if (w.toNat / 2 ^ 22) % 128 == 0x76 then some (w.extractLsb' 14 8) else none

/-- What the checks of a handler give (R333). -/
inductive Handler
  | enter (pc : DWord) (s : State)
  | wait (w : Wait) (s : State)
  | refused
  deriving DecidableEq, Repr

/-- A word of another package that a group's instruction at hand has had from there (R43): nothing of it is kept beyond the instruction (R46). -/
def Group.heardWord (g : Group) (pa : Nat) : Option Word :=
  (g.heard.find? fun x => x.1 == pa && x.2.1 == 4).map fun x => x.2.2.setWidth 32

/-- The checks of R333 on a14, with the fetch of the PAD. A PAD in another package is asked for there (R43); while its page is absent or frozen, or its word on its way, the
entry waits. -/
def State.handlerOf (s : State) (g : Group) : Handler :=
  let d := g.areg 14
  let pc := d.pointer.toNat
  if !(d.perm.getLsbD 2 && !d.perm.getLsbD 5 && !d.perm.getLsbD 6) then .refused
  else if !isPacket (s.sectsOf g) pc then .refused
  else match s.translate (s.coreOf g) (s.asidOf g) pc false with
    | (.ok pa pte _, s1) =>
      if !pteX pte then .refused
      else (match if s1.isLocal pa then some (BitVec.ofNat 32 (s1.readPA pa 4)) else g.heardWord pa with
        | some w => if padTag w == some 0xFF then .enter d.pointer s1 else .refused
        | none =>
          if (g.deferred.map fun t => t.info.toNat == pc).getD false then .refused else .wait (.ask pc pa) s1)
    | (.malformed, _) => .refused
    | (.frozen, s1) => .wait (.page pc) s1
    | (.fault, s1) =>
      if (g.deferred.map fun t => t.info.toNat / 65536 == pc / 65536).getD false then .refused
      else .wait (.page pc) (s1.postFault (s.asidOf g) pc .fetch false)

/-- A path with what a trap does not keep cleared: a slice being recorded (R153), a wait, and the words of a loop buffer. -/
def Path.saved (p : Path) : Path :=
  { p with slice := none, wait := none, loop := p.loop.map fun (l : LoopRec) => { l with buf := [], old := false } }

/-- The word that TRAPINFO holds for a deferred matrix fault (R236). -/
def mxInfo (f : MxFault) : Nat := f.reason + f.what * 256 + f.pc.toNat / 4 % 2 ^ 49 * 2 ^ 15
/-- The trap that reports a matrix fault (R236). -/
def MxFault.trap (f : MxFault) : Trap := ⟨if f.reason == 0 then Cause.poison else Cause.matrixFault, mxInfo f⟩
/-- A trap is the one that reports a matrix fault. -/
def MxFault.reportedBy (f : MxFault) (t : TrapReq) : Bool := t.cause == f.trap.cause && t.info == BitVec.ofNat 64 f.trap.info

/-- The group in its handler (R334). A deferred trap that was not the one delivered stays pending (R351), and so does a matrix fault, but for the one that the trap reports (R236). -/
def Group.enter (g : Group) (slot : SlotId) (t : TrapReq) (pc : DWord) : Group :=
  { g with
    heard := []
    mxFault := g.mxFault.filter fun f => !f.reportedBy t
    trap := ⟨true, slot, t.df, t.cause, t.pc, t.info, g.slotA.map Path.saved, g.slotB.map Path.saved⟩
    tstack := []
    slotA := some (Path.mk' pc g.alive 0)
    slotB := none
    deferred := if g.deferred = some t then none else g.deferred
    asleep := none }

/-- Taking a trap (R333 to R336): at trap level, or without a handler, it is a double fault; while the PAD's page is absent the
path waits and the trap is raised again; otherwise the handler is entered. -/
def State.takeTrap (s : State) (n : Nat) (slot : SlotId) (t : TrapReq) : State :=
  match s.group n with
  | none => s
  | some g =>
    if g.trap.level then s.doubleFault n ⟨g.trap.cause, g.trap.info, g.trap.pc, g.trap.df⟩ t
    else match s.handlerOf g with
      | .enter pc s1 => State.setGroup { s1 with chain := 0 } n (g.enter slot t pc)
      | .wait w s1 => State.setGroup { s1 with chain := 0 } n
          (g.setSlot slot ((g.slot slot).map fun p => { p with wait := some w }))
      | .refused => s.doubleFault n t t

/-- The deferred trap that is delivered when a path issues: one of R64 in either slot, an aborted adoption's (R365) at its own PC, outside a handler. A GRAFT
that has pinned its slots completes first. -/
def Group.deferredAt (g : Group) (p : Path) : Option TrapReq :=
  g.deferred.bind fun t => if !p.pinned && (t.df || (p.pc == t.pc && !g.trap.level)) then some t else none

/-! ### Issue -/

/-- What an instruction sees when it issues: the state, its group and slot, and the path that issues it. -/
structure Ctx where
  s : State
  n : Nat
  slot : SlotId
  g : Group
  path : Path
  deriving DecidableEq, Repr

/-- The PC of the issuing path. -/
def Ctx.pc (c : Ctx) : DWord := c.path.pc
/-- The active lanes. -/
def Ctx.act (c : Ctx) : Mask := c.g.active c.path
/-- The lowest active lane, 0 when there is none. -/
def Ctx.low (c : Ctx) : Nat := c.act.lowest.getD 0
/-- Issue is under a full mask (R22). -/
def Ctx.full (c : Ctx) : Bool := c.g.fullMask c.slot c.path
/-- The team of the issuing group, if any. -/
def Ctx.team (c : Ctx) : Option Team := c.s.teamOf c.g
/-- The packet that holds the instruction. -/
def Ctx.packet (c : Ctx) : Nat := packetOf (c.s.sectsOf c.g) c.pc.toNat

/-- What an effect leaves: a state; a state in which the instruction has yet to complete (it sleeps, or waits for a page, and issues
again); or a trap to be taken in a state. -/
inductive Res
  | ok (s : State)
  | hold (s : State)
  | trap (t : Trap) (s : State)
  | trapAt (t : Trap) (pc : DWord) (s : State)
  deriving DecidableEq, Repr

/-- The path of the issuing slot replaced, in the group as the state now has it. -/
def Ctx.setPath (c : Ctx) (s : State) (f : Path → Path) : State :=
  match s.group c.n with
  | none => s
  | some g => s.setGroup c.n (g.setSlot c.slot ((g.slot c.slot).map f))

/-- The state with the group changed. -/
def Ctx.setG (c : Ctx) (s : State) (f : Group → Group) : State :=
  match s.group c.n with
  | none => s
  | some g => s.setGroup c.n (f g)

/-- The path goes on to the word after the instruction (R16). -/
def Ctx.advance (c : Ctx) (i : Instr) (s : State) : State :=
  c.setPath s fun p => { p with pc := c.pc + BitVec.ofNat 64 (4 * i.words) }

/-- The instruction takes the path on with no other effect. -/
def Ctx.done (c : Ctx) (i : Instr) (s : State) : Res := .ok (c.advance i s)

/-- The trap word of an instruction: TRAPINFO of a decode check (R32). -/
def wordInfo (i : Instr) : Nat := (encode1 i).toNat

/-- The instruction lies in a slice being recorded (R150). -/
def SliceRun.holds (r : SliceRun) (pc : DWord) : Bool :=
  r.first.toNat ≤ pc.toNat && pc.toNat < r.first.toNat + 4 * r.words.length

/-- The husk whose capsule the slot runs, its own or an adopted one (R357, R364): the capsule lane is active there. -/
def Group.capsule (g : Group) (slot : SlotId) : Option Husk :=
  match g.husk, g.slot slot with
  | some h, some p => if (h.inside || h.adopt) && (g.active p).getLsbD h.lane && !g.trap.level then some h else none
  | _, _ => none

/-- The checks made when a word decodes for a path, after the word's own (R32): the mask of a required instruction (order 6), a
loop body (R303), a recipe slice (R151), a capsule (R357, R358). -/
def Ctx.gate (c : Ctx) (i : Instr) : Option Trap :=
  if i.uclass == .required && !(i.hdr.u && c.full) then some ⟨Cause.partialMask, wordInfo i⟩
  else if c.path.loop != none && notInLoop i then some ⟨Cause.badForm, wordInfo i⟩
  else match c.path.slice with
    | some r => if r.holds c.pc && !inSlice i then some ⟨Cause.recipeBody, r.mkrcp.toNat⟩ else none
    | none =>
      match c.g.capsule c.slot with
      | none => none
      | some h =>
        let step := (match i with | .hstore .. => 16 ≤ h.step | _ => false)
        if !inCapsule i then some ⟨Cause.huskForbidden, wordInfo i⟩
        else if !capsuleRegs h.mask i then some ⟨Cause.huskReg, wordInfo i⟩
        else if 256 ≤ h.icount || step then some ⟨Cause.huskOverrun, h.icount + 65536 * h.step⟩
        else none

/-- Recipe records that a core's groups hold. -/
def State.recipesOn (s : State) (core : Nat) : Nat :=
  (s.resident.map fun e => if s.coreOf e.2 == core then
    ((List.range 64).filter fun r => ((e.2.vreg r).recipe).isSome).length else 0).foldl (· + ·) 0

/-- vd receives its recipe where R153 allows, and folds at once under FOLDPOL 2 (R154, R155). A vd that is SPILLED when the slice ends receives none: R153's conditions do not
name it, but R145 gives recipes to registers in ROWS or UNIFORM only (DEDUCED, log entry 56). -/
def State.giveRecipe (s : State) (n : Nat) (r : SliceRun) : State :=
  match s.group n with
  | none => s
  | some g =>
    let vd := r.vd.toNat
    let reg := g.vreg vd
    let held := ((List.range 64).filter fun k => ((g.vreg k).recipe).isSome).length
    if r.ok && g.foldpol != 0 && reg.locks == 0 && !reg.hold.isSpilled && held < Config.recipesPerGroup &&
        s.recipesOn (s.coreOf g) < Config.recipesPerCore &&
        (List.range g.width).all fun i =>
          !(reg.hold.read i).2 && (r.m.getLsbD i || (reg.hold.read i).1 == 0) then
      let g1 := g.setVreg vd { reg with recipe := some ⟨r.first, r.words, r.vd, r.m, r.pins⟩ }
      let fold := g1.foldpol == 2 && g1.foldable vd
      s.setGroup n (if fold then g1.setVreg vd { g1.vreg vd with hold := .folded } else g1)
    else s

/-- Bookkeeping of a slice after one of its words (R152, R153): the word is recorded as it was executed, what it read is pinned, what it wrote is noted, and the last
word gives vd its recipe. -/
def Ctx.sliceStep (c : Ctx) (i : Instr) (s : State) : State :=
  match c.path.slice with
  | none => s
  | some r =>
    if !r.holds c.pc then c.setPath s fun p => { p with slice := none }
    else
      let rd := (reads i).diff r.written.foot
      let pins := (r.pins.foot).union rd
      let wr := writes i
      let stale := (List.range 64).any fun k => rd.v.getLsbD k && match (c.g.vreg k).hold with
        | .folded | .spilled _ _ => true
        | _ => false
      let at_ := (c.pc.toNat - r.first.toNat) / 4
      let words := r.words.set at_ (encode1 i)
      let r1 := { r with
        words := if i.words == 2 then words.set (at_ + 1) (encode2 i) else words
        pins := pins.pins, written := ((r.written.foot).union wr).pins
        m := c.act, ok := r.ok && c.full && !stale && (wr.inter pins).isEmpty }
      let last := c.pc.toNat + 4 * i.words == r.first.toNat + 4 * r.words.length
      let s1 := c.setPath s fun p => { p with slice := if last then none else some r1 }
      if last then s1.giveRecipe c.n r1 else s1

/-- A capsule's instruction count rises with each instruction that takes effect (R358). -/
def Ctx.huskStep (c : Ctx) (s : State) : State :=
  match c.g.capsule c.slot, s.group c.n with
  | some _, some g =>
    (match g.husk with
    | some h => s.setGroup c.n { g with husk := some { h with icount := h.icount + 1 } }
    | none => s)
  | _, _ => s

/-- Issue of an instruction by the path that `cur` names: a deferred trap of R64 is delivered instead; then the checks of decode; then
the effect, and what every effect is followed by. -/
def issue (i : Instr) (s : State) (body : Ctx → Res) : Host.Outcome State Fault Refusal :=
  match s.group s.cur.1 with
  | none => .fault .noIssuingGroup
  | some g =>
    match g.slot s.cur.2 with
    | none => .fault .noIssuingGroup
    | some p =>
      let c : Ctx := ⟨s, s.cur.1, s.cur.2, g, p⟩
      match g.deferredAt p with
      | some t => .next (s.takeTrap c.n c.slot t)
      | none =>
        match c.gate i with
        | some t => .next (s.takeTrap c.n c.slot ⟨t.cause, BitVec.ofNat 64 t.info, p.pc, false⟩)
        | none =>
          match body c with
          | .ok s1 => .next ((c.sliceStep i (c.huskStep s1)).fitAreas c.n c.g.inRows)
          | .hold s1 => .next { s1 with chain := 0 }
          | .trap t s1 => .next (s1.takeTrap c.n c.slot ⟨t.cause, BitVec.ofNat 64 t.info, p.pc, false⟩)
          | .trapAt t pc s1 => .next (s1.takeTrap c.n c.slot ⟨t.cause, BitVec.ofNat 64 t.info, pc, false⟩)

end Sys2Proof.Machine
end

