-- ==== Sys2Proof/Machine/IntEff.lean ====
section
/-! DEFINITION. What the integer, predicate, lane and constant instructions compute (R168 to R182), as functions of a group whose
sources have been formed (R147): register writes, or a trap. The meanings in Int.lean apply them. -/

namespace Sys2Proof.Machine

/-- The lane that a source reads through its pattern; itself where the kind is reserved (which traps first). -/
def Group.srcP (g : Group) (v : BitVec 6) (sel : BitVec 2) (i : Nat) : Word × Bool :=
  g.rdp v.toNat ((patternLane (g.pattern sel) g.w i).getD i)

/-- A source of a format without patterns. -/
def Group.src0 (g : Group) (v : BitVec 6) (i : Nat) : Word × Bool := g.rdp v.toNat i

/-- The trap of a reserved pattern, that of the pa source first (R35). With no active lane nothing is read, so nothing traps (R20, R40). -/
def Group.patternTrap (g : Group) (act : Mask) : List (BitVec 2) → Option Trap
  | [] => none
  | sel :: rest =>
    if act != 0 && (patternLane (g.pattern sel) g.w 0).isNone then some ⟨Cause.badForm, (g.pattern sel).toNat⟩
    else g.patternTrap act rest

/-- R40 for one vector destination: once from the lowest active lane under U, else lane by lane. -/
def lanesEff (h : Hdr) (g : Group) (act : Mask) (vd : BitVec 6) (f : Nat → Word × Bool) : Eff :=
  if h.u then
    match act.lowest with
    | none => ⟨[], []⟩
    | some l => ⟨[.uniform vd.toNat (f l).1 (f l).2], []⟩
  else ⟨[.lanes vd.toNat ((List.range g.w).map f)], []⟩

/-- R40 for a destination pair, low word first. -/
def pairEff (h : Hdr) (g : Group) (act : Mask) (vd : BitVec 6) (f : Nat → DWord × Bool) : Eff :=
  let lo := lanesEff h g act vd fun i => ((f i).1.setWidth 32, (f i).2)
  let hi := lanesEff h g act (vd + 1) fun i => ((f i).1.extractLsb' 32 32, (f i).2)
  ⟨lo.writes ++ hi.writes, []⟩

/-- R40 for a predicate destination. -/
def predEff (h : Hdr) (act : Mask) (pd : BitVec 3) (f : Nat → Bool × Bool) : Eff :=
  if h.u then
    match act.lowest with
    | none => ⟨[], []⟩
    | some l => ⟨[.pred pd (if (f l).1 then act else 0) (if (f l).2 then act else 0)], []⟩
  else ⟨[.pred pd (Mask.ofFn fun i => (f i).1) (Mask.ofFn fun i => (f i).2)], []⟩

/-- A value computed from two sources; poisoned when either is (R142 rule 3). -/
def lift2 (f : Word → Word → Word) (x y : Word × Bool) : Word × Bool := (f x.1 y.1, x.2 || y.2)
/-- A value computed from one source. -/
def lift1 (f : Word → Word) (x : Word × Bool) : Word × Bool := (f x.1, x.2)
/-- A value computed from three sources. -/
def lift3 (f : Word → Word → Word → Word) (x y z : Word × Bool) : Word × Bool := (f x.1 y.1 z.1, x.2 || y.2 || z.2)

/-- A two-source R-format instruction (R40, R169). -/
def effR (g : Group) (act : Mask) (h : Hdr) (vd va : BitVec 6) (pa : BitVec 2) (vb : BitVec 6) (pb : BitVec 2)
    (f : Word → Word → Word) : Except Trap Eff :=
  match g.patternTrap act [pa, pb] with
  | some t => .error t
  | none => .ok (lanesEff h g act vd fun i => lift2 f (g.srcP va pa i) (g.srcP vb pb i))

/-- A two-source instruction of a format without patterns. -/
def effF (g : Group) (act : Mask) (h : Hdr) (vd va vb : BitVec 6) (f : Word → Word → Word) : Except Trap Eff :=
  .ok (lanesEff h g act vd fun i => lift2 f (g.src0 va i) (g.src0 vb i))

/-- A one-source instruction of a format without patterns. -/
def eff1 (g : Group) (act : Mask) (h : Hdr) (vd va : BitVec 6) (f : Word → Word) : Except Trap Eff :=
  .ok (lanesEff h g act vd fun i => lift1 f (g.src0 va i))

/-- A Q-format instruction: the third source is v(48 + vc4) (R26). -/
def effQ (g : Group) (act : Mask) (h : Hdr) (vd va vb : BitVec 6) (vc : BitVec 4) (f : Word → Word → Word → Word) :
    Except Trap Eff :=
  .ok (lanesEff h g act vd fun i => lift3 f (g.src0 va i) (g.src0 vb i) (g.src0 (48 + vc.setWidth 6) i))

/-! ### Values (R169 to R175) -/

/-- Bits [63:32] of the signed product (R169). -/
def mulHigh (a b : Word) : Word := BitVec.ofInt 32 (a.toInt * b.toInt / 2 ^ 32)
/-- Bits [63:32] of the unsigned product (R169). -/
def mulHighU (a b : Word) : Word := BitVec.ofNat 32 (a.toNat * b.toNat / 2 ^ 32)

/-- A shift by an unsigned 32-bit amount (R172). -/
def shiftBy (op : ShfOp) (a s : Word) : Word :=
  match op with
  | .shl => if 32 ≤ s.toNat then 0 else a <<< s.toNat
  | .shr => if 32 ≤ s.toNat then 0 else a >>> s.toNat
  | .sra => if 32 ≤ s.toNat then (if a.msb then 0xFFFFFFFF else 0) else a.sshiftRight s.toNat
  | .rol => a.rotateLeft (s.toNat % 32)

/-- MINMAX (R173). -/
def minMax (op : MinMaxOp) (a b : Word) : Word :=
  match op with
  | .min => if a.toInt ≤ b.toInt then a else b
  | .max => if a.toInt ≤ b.toInt then b else a
  | .minu => if a.toNat ≤ b.toNat then a else b
  | .maxu => if a.toNat ≤ b.toNat then b else a

/-- Leading zero bits of a word (R173). -/
def leadingZeros (a : Word) : Nat := if a = 0 then 32 else 31 - a.toNat.log2
/-- The bits of a word in the other order (R173). -/
def reverseBits (a : Word) : Word :=
  BitVec.ofNat 32 ((List.range 32).foldl (fun acc k => if a.getLsbD k then acc + 2 ^ (31 - k) else acc) 0)

/-- UNARY (R173). -/
def unaryOp (op : UnaryOp) (a : Word) : Word :=
  match op with
  | .clz => BitVec.ofNat 32 (leadingZeros a)
  | .popc => BitVec.ofNat 32 (popCount a)
  | .brev => reverseBits a
  | .abs => if a.msb then -a else a
  | .neg => -a
  | .not => ~~~a

/-- Field length of a field descriptor (R174). -/
def fieldLen (d : Word) : Nat := Nat.min (d.toNat / 256 % 256) 32
/-- Field position of a field descriptor (R174). -/
def fieldPos (d : Word) : Nat := d.toNat % 256

/-- BFE (R174): the field of a, extended above bit 31 with its sign or with 0. -/
def extractField (op : BfeOp) (a d : Word) : Word :=
  let len := fieldLen d
  if len = 0 then 0
  else
    match op with
    | .zx => BitVec.ofNat 32 (a.toNat / 2 ^ fieldPos d % 2 ^ len)
    | .sx =>
      let f := (a.toInt / (2 ^ fieldPos d : Nat)) % (2 ^ len : Nat)
      BitVec.ofInt 32 (if (2 ^ (len - 1) : Nat) ≤ f then f - (2 ^ len : Nat) else f)

/-- BFI (R174): the low bits of a put into b at the descriptor's field. -/
def insertField (a b c : Word) : Word :=
  let m : Nat := (2 ^ fieldLen c - 1) * 2 ^ fieldPos c
  (b &&& ~~~(BitVec.ofNat 32 m)) ||| BitVec.ofNat 32 (a.toNat % 2 ^ fieldLen c * 2 ^ fieldPos c)

/-- INT64 (R175). -/
def int64Op (op : Int64Op) (a b : DWord) : DWord :=
  match op with
  | .add64 => a + b
  | .sub64 => a - b
  | .mulw => BitVec.ofInt 64 ((a.setWidth 32).toInt * (b.setWidth 32).toInt)
  | .mulwu => BitVec.ofNat 64 ((a.setWidth 32).toNat * (b.setWidth 32).toNat)

/-- A condition on two words (R177). -/
def intCond (c : ICond) (a b : Word) : Bool :=
  match c with
  | .eq => a == b
  | .ne => a != b
  | .lt => decide (a.toInt < b.toInt)
  | .le => decide (a.toInt ≤ b.toInt)
  | .gt => decide (b.toInt < a.toInt)
  | .ge => decide (b.toInt ≤ a.toInt)
  | .ltu => decide (a.toNat < b.toNat)
  | .geu => decide (b.toNat ≤ a.toNat)

/-- PCOMB on one lane (R178). -/
def pcombOp (op : PcombOp) (a b : Bool) : Bool :=
  match op with
  | .and => a && b
  | .or => a || b
  | .xor => a != b
  | .andn => a && !b

/-- REDUX's combination (R182). -/
def reduxOp (op : ReduxOp) (a b : Word) : Word :=
  match op with
  | .radd => a + b
  | .rmin => minMax .min a b
  | .rmax => minMax .max a b
  | .rand => a &&& b
  | .ror => a ||| b
  | .rxor => a ^^^ b

/-- REDUX's neutral element (R182). -/
def reduxNeutral (op : ReduxOp) : Word :=
  match op with
  | .rmin => 0x7FFFFFFF
  | .rmax => 0x80000000
  | .rand => 0xFFFFFFFF
  | _ => 0

/-- An immediate sign-extended from 10 bits (R26). -/
def imm10s (k : BitVec 10) : Word := k.signExtend 32
/-- An immediate zero-extended from 10 bits (R171). -/
def imm10z (k : BitVec 10) : Word := k.setWidth 32

/-! ### Effects (R169 to R182) -/

def effIadd (g : Group) (act : Mask) (h : Hdr) (vd va : BitVec 6) (pa : BitVec 2) (vb : BitVec 6) (pb : BitVec 2) :=
  effR g act h vd va pa vb pb fun a b => a + b
def effIsub (g : Group) (act : Mask) (h : Hdr) (vd va : BitVec 6) (pa : BitVec 2) (vb : BitVec 6) (pb : BitVec 2) :=
  effR g act h vd va pa vb pb fun a b => a - b
def effImul (g : Group) (act : Mask) (h : Hdr) (vd va : BitVec 6) (pa : BitVec 2) (vb : BitVec 6) (pb : BitVec 2) :=
  effR g act h vd va pa vb pb fun a b => a * b
def effImulh (g : Group) (act : Mask) (h : Hdr) (vd va : BitVec 6) (pa : BitVec 2) (vb : BitVec 6) (pb : BitVec 2) :=
  effR g act h vd va pa vb pb mulHigh
def effImulhu (g : Group) (act : Mask) (h : Hdr) (vd va : BitVec 6) (pa : BitVec 2) (vb : BitVec 6) (pb : BitVec 2) :=
  effR g act h vd va pa vb pb mulHighU
def effAnd (g : Group) (act : Mask) (h : Hdr) (vd va : BitVec 6) (pa : BitVec 2) (vb : BitVec 6) (pb : BitVec 2) :=
  effR g act h vd va pa vb pb fun a b => a &&& b
def effOr (g : Group) (act : Mask) (h : Hdr) (vd va : BitVec 6) (pa : BitVec 2) (vb : BitVec 6) (pb : BitVec 2) :=
  effR g act h vd va pa vb pb fun a b => a ||| b
def effXor (g : Group) (act : Mask) (h : Hdr) (vd va : BitVec 6) (pa : BitVec 2) (vb : BitVec 6) (pb : BitVec 2) :=
  effR g act h vd va pa vb pb fun a b => a ^^^ b
def effMov (g : Group) (act : Mask) (h : Hdr) (vd va : BitVec 6) (pa : BitVec 2) : Except Trap Eff :=
  match g.patternTrap act [pa] with
  | some t => .error t
  | none => .ok (lanesEff h g act vd fun i => g.srcP va pa i)
def effImad (g : Group) (act : Mask) (h : Hdr) (vd va vb : BitVec 6) (vc : BitVec 4) :=
  effQ g act h vd va vb vc fun a b c => a * b + c
def effBfi (g : Group) (act : Mask) (h : Hdr) (vd va vb : BitVec 6) (vc : BitVec 4) :=
  effQ g act h vd va vb vc insertField
def effIaddi (g : Group) (act : Mask) (h : Hdr) (vd va : BitVec 6) (k : BitVec 10) :=
  eff1 g act h vd va fun a => a + imm10s k
def effAndi (g : Group) (act : Mask) (h : Hdr) (vd va : BitVec 6) (k : BitVec 10) :=
  eff1 g act h vd va fun a => a &&& imm10s k
def effOri (g : Group) (act : Mask) (h : Hdr) (vd va : BitVec 6) (k : BitVec 10) :=
  eff1 g act h vd va fun a => a ||| imm10z k
def effXori (g : Group) (act : Mask) (h : Hdr) (vd va : BitVec 6) (k : BitVec 10) :=
  eff1 g act h vd va fun a => a ^^^ imm10z k
def effShf (g : Group) (act : Mask) (h : Hdr) (vd va vb : BitVec 6) (op : ShfOp) := effF g act h vd va vb (shiftBy op)
def effShfi (g : Group) (act : Mask) (h : Hdr) (vd va : BitVec 6) (op : ShfOp) (n : BitVec 5) :=
  eff1 g act h vd va fun a => shiftBy op a (n.setWidth 32)
def effMinmax (g : Group) (act : Mask) (h : Hdr) (vd va vb : BitVec 6) (op : MinMaxOp) :=
  effF g act h vd va vb (minMax op)
def effUnary (g : Group) (act : Mask) (h : Hdr) (vd va : BitVec 6) (op : UnaryOp) := eff1 g act h vd va (unaryOp op)
def effBfe (g : Group) (act : Mask) (h : Hdr) (vd va vb : BitVec 6) (op : BfeOp) :=
  effF g act h vd va vb (extractField op)
def effSel (g : Group) (act : Mask) (h : Hdr) (vd va vb : BitVec 6) (p : BitVec 3) (inv : Bool) : Except Trap Eff :=
  .ok (lanesEff h g act vd fun i =>
    let q := (g.pred p).getLsbD i != inv
    let a := g.src0 va i
    let b := g.src0 vb i
    (if q then a.1 else b.1, a.2 || b.2 || (g.predBad p).getLsbD i))
def effIcmp (g : Group) (act : Mask) (h : Hdr) (pd : BitVec 3) (c : ICond) (va vb : BitVec 6) (pacc : BitVec 3) (comb : Bool) :
    Except Trap Eff :=
  .ok (predEff h act pd fun i =>
    let t := intCond c (g.src0 va i).1 (g.src0 vb i).1
    let q := (g.pred pacc).getLsbD i
    (if comb then t || q else t && q, (g.src0 va i).2 || (g.src0 vb i).2 || (g.predBad pacc).getLsbD i))
def effIcmpi (g : Group) (act : Mask) (h : Hdr) (pd : BitVec 3) (c : ICond) (va : BitVec 6) (k : BitVec 10) :
    Except Trap Eff :=
  .ok (predEff h act pd fun i => (intCond c (g.src0 va i).1 (imm10s k), (g.src0 va i).2))
def effPcomb (g : Group) (act : Mask) (h : Hdr) (pd pa pb : BitVec 3) (op : PcombOp) : Except Trap Eff :=
  .ok (predEff h act pd fun i =>
    (pcombOp op ((g.pred pa).getLsbD i) ((g.pred pb).getLsbD i), (g.predBad pa).getLsbD i || (g.predBad pb).getLsbD i))
def effMovi (g : Group) (act : Mask) (h : Hdr) (vd : BitVec 6) (k : BitVec 16) : Except Trap Eff :=
  .ok (lanesEff h g act vd fun _ => (k.signExtend 32, false))
def effMovhi (g : Group) (act : Mask) (h : Hdr) (vd : BitVec 6) (k : BitVec 16) : Except Trap Eff :=
  .ok (lanesEff h g act vd fun i => (k ++ ((g.src0 vd i).1.setWidth 16 : BitVec 16), (g.src0 vd i).2))
def effLi (g : Group) (act : Mask) (h : Hdr) (vd : BitVec 6) (w : Word) : Except Trap Eff :=
  .ok (lanesEff h g act vd fun _ => (w, false))

/-- A value in every active lane of an across-lane result. -/
def sameEff (g : Group) (vd : BitVec 6) (v : Word) (bad : Bool) : Eff :=
  ⟨[.lanes vd.toNat ((List.range g.w).map fun _ => (v, bad))], []⟩
/-- A Boolean as a word. -/
def boolWord (b : Bool) : Word := if b then 1 else 0

/-- VOTE (R180); a poisoned bit of an active lane poisons the whole result (R142 rule 4). -/
def effVote (g : Group) (act : Mask) (vd : BitVec 6) (p : BitVec 3) (kind : VoteKind) : Except Trap Eff :=
  let m := g.pred p &&& act
  let bad := (g.predBad p &&& act) != 0
  .ok (match kind with
    | .all => sameEff g vd (boolWord (m == act)) bad
    | .any => sameEff g vd (boolWord (m != 0)) bad
    | .ballot => ⟨[.lanes vd.toNat ((List.range g.w).map fun i =>
        (if i < 32 then m.setWidth 32 else m.extractLsb' 32 32, bad))], []⟩
    | .count => sameEff g vd (BitVec.ofNat 32 m.count) bad
    | .eq => sameEff g vd (boolWord (m == 0 || m == act)) bad)

/-- SHFL (R181): the lane's own source lane, active or not; poisoned with the selector or the value read. -/
def effShfl (g : Group) (act : Mask) (vd va vb : BitVec 6) (pb : BitVec 2) : Except Trap Eff :=
  match g.patternTrap act [pb] with
  | some t => .error t
  | none => .ok ⟨[.lanes vd.toNat ((List.range g.w).map fun i =>
      let s := g.srcP vb pb i
      let x := g.src0 va (s.1.toNat % g.w)
      (x.1, x.2 || s.2))], []⟩

/-- INT64 (R175). -/
def effInt64 (g : Group) (act : Mask) (h : Hdr) (vd va vb : BitVec 6) (op : Int64Op) : Except Trap Eff :=
  let n := match op with | .add64 | .sub64 => 2 | .mulw | .mulwu => 1
  .ok (pairEff h g act vd fun i => (int64Op op (g.rd2 va i) (g.rd2 vb i), g.badN va n i || g.badN vb n i))

/-- REDUX (R182): the combinations are associative and commutative, so the order of the tree does not show. -/
def effRedux (g : Group) (act : Mask) (vd va : BitVec 6) (op : ReduxOp) : Except Trap Eff :=
  .ok (sameEff g vd ((act.lanes.map fun i => (g.src0 va i).1).foldl (reduxOp op) (reduxNeutral op))
    (act.lanes.any fun i => (g.src0 va i).2))

end Sys2Proof.Machine
end

