-- ==== Sys2Proof/Machine/Flags.lean ====
section
/-! DEFINITION. The flags of this hardware. It has no condition flags: a comparison writes a predicate register (R33, R177, R222) and arithmetic leaves no
status behind. What a conversion reports instead is its exceptions, which a team counts (R210, R211). -/

namespace Sys2Proof.Machine

/-- What a rounding met: a saturation or overflow, a flush to zero, a NaN produced (R202, R226). -/
structure Flags where
  sat : Bool
  flush : Bool
  nan : Bool
  deriving DecidableEq, Repr

/-- No event. -/
def Flags.none : Flags := ⟨false, false, false⟩

/-- Counter positions of a tensor id's events (R211): saturations, flushes, NaNs at 3t, 3t + 1, 3t + 2. -/
def countsOf (tensor : Nat) (fl : Flags) : List Nat :=
  (if fl.sat then [3 * tensor] else []) ++ (if fl.flush then [3 * tensor + 1] else []) ++
    (if fl.nan then [3 * tensor + 2] else [])

end Sys2Proof.Machine
end

