-- ==== Sys2Proof/Machine/Num.lean ====
section
/-! DEFINITION. Numbers: exact values, the standard formats and their rounding (R191 to R196), the narrow family (R198 to R203), A56 (R205),
arithmetic with one rounding (R193, R213), and the correctly rounded functions (R219). An exact value is a signed dyadic rational,
so nothing depends on how intermediate bits are carried. -/

namespace Sys2Proof.Machine

/-- An exact value: a NaN, an infinity, or (−1)^neg × m × 2^e; a zero keeps its sign. -/
inductive Val
  | nan
  | inf (neg : Bool)
  | fin (neg : Bool) (m : Nat) (e : Int)
  deriving DecidableEq, Repr

/-- A binary interchange-style format: exponent bits, fraction bits, bias (R191, R205). -/
structure BinFmt where
  ebits : Nat
  mbits : Nat
  bias : Int
  deriving DecidableEq, Repr

def fp32 : BinFmt := ⟨8, 23, 127⟩
def fp16 : BinFmt := ⟨5, 10, 15⟩
def bf16 : BinFmt := ⟨8, 7, 127⟩
def a56 : BinFmt := ⟨11, 44, 1023⟩

/-- A power of two with an exponent that may be negative; 1 then (callers shift the other side). -/
def pow2 (e : Int) : Nat := 2 ^ e.toNat

/-! ### Decoding (R191, R205) -/

/-- The value of an encoding. -/
def BinFmt.decode (f : BinFmt) (bits : Nat) : Val :=
  let m := bits % 2 ^ f.mbits
  let e := bits / 2 ^ f.mbits % 2 ^ f.ebits
  let neg := bits / 2 ^ (f.mbits + f.ebits) % 2 == 1
  if e == 2 ^ f.ebits - 1 then (if m == 0 then .inf neg else .nan)
  else if e == 0 then .fin neg m (1 - f.bias - f.mbits)
  else .fin neg (2 ^ f.mbits + m) ((e : Int) - f.bias - f.mbits)

/-- The canonical NaN (R191, R205). -/
def BinFmt.qnan (f : BinFmt) : Nat := (2 ^ f.ebits - 1) * 2 ^ f.mbits + 2 ^ (f.mbits - 1)
/-- An infinity. -/
def BinFmt.infinity (f : BinFmt) (neg : Bool) : Nat :=
  (if neg then 2 ^ (f.mbits + f.ebits) else 0) + (2 ^ f.ebits - 1) * 2 ^ f.mbits
/-- A zero. -/
def BinFmt.zero (f : BinFmt) (neg : Bool) : Nat := if neg then 2 ^ (f.mbits + f.ebits) else 0
/-- The largest finite magnitude with a sign. -/
def BinFmt.largest (f : BinFmt) (neg : Bool) : Nat := f.infinity neg - 1

/-! ### Rounding (R195, R196) -/

/-- One step of the generator (R196). -/
def rngNext (x : Word) : Word :=
  let x1 := x ^^^ (x <<< 13)
  let x2 := x1 ^^^ (x1 >>> 17)
  x2 ^^^ (x2 <<< 5)

/-- A magnitude m × 2^e rounded to a multiple n of 2^q under a mode; `x` is the generator state after its step. With `sticky` the
exact magnitude lies strictly between m and m + 1 units of 2^e. -/
def roundAt (mode : Rnd) (x : Word) (m : Nat) (e : Int) (sticky : Bool) (q : Int) : Nat :=
  if q ≤ e then m * pow2 (e - q)
  else
    let d := pow2 (q - e)
    let lo := m / d
    let rem := m % d
    if rem == 0 && !sticky then lo
    else match mode with
      | .rz => lo
      | .rne => if d < 2 * rem || (2 * rem == d && (sticky || lo % 2 == 1)) then lo + 1 else lo
      | .sr => if x.toNat / 256 < rem * 2 ^ 24 / d then lo + 1 else lo

/-- floor(log2) of a nonzero magnitude m × 2^e. -/
def magLog (m : Nat) (e : Int) : Int := (m.log2 : Int) + e

/-- The spacing exponent of a floating format at a magnitude: `qmin` near zero, mbits below the leading bit elsewhere. -/
def spacing (mbits : Nat) (qmin : Int) (m : Nat) (e : Int) : Int := max qmin (magLog m e - mbits)

/-- n × 2^q > n' × 2^q'. -/
def magGt (n : Nat) (q : Int) (n' : Nat) (q' : Int) : Bool :=
  let b := min q q'
  decide (n' * pow2 (q' - b) < n * pow2 (q - b))

/-- The encoding of a selected magnitude n × 2^q, n at most 2^(mbits+1) (R195). -/
def BinFmt.pack (f : BinFmt) (neg : Bool) (n : Nat) (q : Int) : Nat :=
  f.zero neg +
    (if n < 2 ^ f.mbits then n
     else
      let n' := if n == 2 ^ (f.mbits + 1) then n / 2 else n
      let q' := if n == 2 ^ (f.mbits + 1) then q + 1 else q
      (q' + f.mbits + f.bias).toNat * 2 ^ f.mbits + (n' - 2 ^ f.mbits))

/-- A value rounded into a format, with what happened (R192, R195, R226). -/
def BinFmt.round (f : BinFmt) (mode : Rnd) (x : Word) (sticky : Bool) (v : Val) : Nat × Flags :=
  match v with
  | .nan => (f.qnan, ⟨false, false, true⟩)
  | .inf neg => (f.infinity neg, Flags.none)
  | .fin neg m e =>
    if m == 0 then (f.zero neg, Flags.none)
    else
      let qmin : Int := 1 - f.bias - f.mbits
      let q := spacing f.mbits qmin m e
      let n := roundAt mode x m e sticky q
      let emax : Int := (2 ^ f.ebits - 2 : Nat)
      if magGt n q (2 ^ (f.mbits + 1) - 1) (emax - f.bias - f.mbits) then
        (if mode = .rz then f.largest neg else f.infinity neg, ⟨true, false, false⟩)
      else (f.pack neg n q, ⟨false, n == 0, false⟩)

/-- RoundNE of R39 into a format. -/
def BinFmt.rne (f : BinFmt) (v : Val) : Nat := (f.round .rne 0 false v).1

/-! ### Exact arithmetic (R193, R213) -/

/-- The sign of a value; a NaN has none. -/
def Val.neg? : Val → Bool
  | .nan => false
  | .inf n => n
  | .fin n _ _ => n

/-- The value with its sign inverted. -/
def Val.negate : Val → Val
  | .nan => .nan
  | .inf n => .inf !n
  | .fin n m e => .fin (!n) m e

/-- The exact value scaled by 2^k. -/
def Val.scale (k : Int) : Val → Val
  | .fin n m e => .fin n m (e + k)
  | v => v

/-- A signed integer times 2^e as a value; an exact zero is +0. -/
def Val.ofInt (z : Int) (e : Int) : Val := .fin (decide (z < 0)) z.natAbs e

/-- The integer of a finite value in units of 2^b, b at most its exponent. -/
def unitsOf (neg : Bool) (m : Nat) (e b : Int) : Int := (if neg then -1 else 1) * ((m * pow2 (e - b) : Nat) : Int)

/-- The exact sum; an exact zero is +0 but for −0 + −0 (R193). -/
def Val.add : Val → Val → Val
  | .nan, _ | _, .nan => .nan
  | .inf a, .inf b => if a == b then .inf a else .nan
  | .inf a, .fin _ _ _ | .fin _ _ _, .inf a => .inf a
  | .fin n1 m1 e1, .fin n2 m2 e2 =>
    if m1 == 0 && m2 == 0 then .fin (n1 && n2) 0 0
    else if m1 == 0 then .fin n2 m2 e2
    else if m2 == 0 then .fin n1 m1 e1
    else
      let b := min e1 e2
      Val.ofInt (unitsOf n1 m1 e1 b + unitsOf n2 m2 e2 b) b

/-- The exact product; its sign is the exclusive OR (R193), and ±0 × ±infinity is NaN (R216). -/
def Val.mul : Val → Val → Val
  | .nan, _ | _, .nan => .nan
  | .inf a, .inf b => .inf (a != b)
  | .inf a, .fin b m _ | .fin b m _, .inf a => if m == 0 then .nan else .inf (a != b)
  | .fin n1 m1 e1, .fin n2 m2 e2 => .fin (n1 != n2) (m1 * m2) (e1 + e2)

/-- The value is a NaN. -/
def Val.isNan : Val → Bool
  | .nan => true
  | _ => false

/-- a < b for values that are not NaN; −0 equals +0. -/
def Val.lt : Val → Val → Bool
  | .nan, _ | _, .nan => false
  | .inf a, .inf b => a && !b
  | .inf a, .fin _ _ _ => a
  | .fin _ _ _, .inf b => !b
  | .fin n1 m1 e1, .fin n2 m2 e2 =>
    let b := min e1 e2
    decide (unitsOf n1 m1 e1 b < unitsOf n2 m2 e2 b)

/-! ### FP32 and packed BF16 operations (R214 to R222) -/

/-- The value of an FP32 word. -/
def f32 (w : Word) : Val := fp32.decode w.toNat
/-- The value of a 16-bit BF16 encoding. -/
def hbf (b : Nat) : Val := bf16.decode b
/-- An FP32 word from a value, RNE. -/
def toF32 (v : Val) : Word := BitVec.ofNat 32 (fp32.rne v)

def fAdd (a b : Word) : Word := toF32 ((f32 a).add (f32 b))
def fSub (a b : Word) : Word := toF32 ((f32 a).add (f32 b).negate)
def fMul (a b : Word) : Word := toF32 ((f32 a).mul (f32 b))
def fMad (a b c : Word) : Word := toF32 (((f32 a).mul (f32 b)).add (f32 c))
/-- FSCALE (R215): beyond ±1,000 the exponent change no longer alters the rounded result. -/
def fScale (a b : Word) : Word :=
  let n := b.toInt
  toF32 ((f32 a).scale (if n < -1000 then -1000 else if 1000 < n then 1000 else n))

/-- An operation on each BF16 element of packed words (R214). -/
def packed (f : Val → Val → Val → Val) (a b c : Word) : Word :=
  let e := fun k => bf16.rne (f (hbf (a.toNat / 2 ^ k % 65536)) (hbf (b.toNat / 2 ^ k % 65536)) (hbf (c.toNat / 2 ^ k % 65536)))
  BitVec.ofNat 32 (e 16 * 65536 + e 0)
def hAdd2 (a b : Word) : Word := packed (fun x y _ => x.add y) a b 0
def hMul2 (a b : Word) : Word := packed (fun x y _ => x.mul y) a b 0
def hMad2 (a b c : Word) : Word := packed (fun x y z => (x.mul y).add z) a b c

/-- FP32 is a NaN. -/
def isNan32 (a : Word) : Bool := (f32 a).isNan
/-- a orders below b: by value, −0 below +0 (R217). -/
def fLess (a b : Word) : Bool :=
  (f32 a).lt (f32 b) || (!(f32 b).lt (f32 a) && a.msb && !b.msb)
/-- The canonical NaN of FP32. -/
def nan32 : Word := 0x7FC00000

/-- FMINMAX (R217): the operand's bits, or the canonical NaN. -/
def fMinMax (op : FMinMaxOp) (a b : Word) : Word :=
  let lo := if fLess b a then b else a
  let hi := if fLess a b then b else a
  match op with
  | .fmin => if isNan32 a || isNan32 b then nan32 else lo
  | .fmax => if isNan32 a || isNan32 b then nan32 else hi
  | .minnum => if isNan32 a then (if isNan32 b then nan32 else b) else if isNan32 b then a else lo
  | .maxnum => if isNan32 a then (if isNan32 b then nan32 else b) else if isNan32 b then a else hi

/-- FCMP's conditions (R222). -/
def fCond (c : FCond) (a b : Word) : Bool :=
  let n := isNan32 a || isNan32 b
  let lt := (f32 a).lt (f32 b)
  let gt := (f32 b).lt (f32 a)
  match c with
  | .eq => !n && !lt && !gt
  | .ne => n || lt || gt
  | .lt => !n && lt
  | .le => !n && !gt
  | .gt => !n && gt
  | .ge => !n && !lt
  | .num => !n
  | .nan => n

/-- Signed byte k of a word. -/
def sbyte (a : Word) (k : Nat) : Int := ((a.extractLsb' (8 * k) 8 : BitVec 8)).toInt
/-- Unsigned byte k of a word. -/
def ubyte (a : Word) (k : Nat) : Nat := ((a.extractLsb' (8 * k) 8 : BitVec 8)).toNat
/-- DOT4S (R215). -/
def dot4s (a b d : Word) : Word :=
  d + BitVec.ofInt 32 (sbyte a 0 * sbyte b 0 + sbyte a 1 * sbyte b 1 + sbyte a 2 * sbyte b 2 + sbyte a 3 * sbyte b 3)
/-- DOT4U (R215). -/
def dot4u (a b d : Word) : Word :=
  d + BitVec.ofNat 32 (ubyte a 0 * ubyte b 0 + ubyte a 1 * ubyte b 1 + ubyte a 2 * ubyte b 2 + ubyte a 3 * ubyte b 3)

/-! ### Integral values (R220) -/

/-- The integral magnitude of m × 2^e, e negative, rounded the way each function asks. -/
def integral (op : FunOp) (neg : Bool) (m : Nat) (e : Int) : Nat :=
  let d := pow2 (-e)
  let lo := m / d
  let rem := m % d
  match op with
  | .ffloor => if neg && rem != 0 then lo + 1 else lo
  | .fceil => if !neg && rem != 0 then lo + 1 else lo
  | .frint => roundAt .rne 0 m e false 0
  | _ => lo

/-- FFLOOR, FCEIL, FTRUNC, FRINT (R220). -/
def roundIntegral (op : FunOp) (a : Word) : Word :=
  match f32 a with
  | .nan => nan32
  | .inf _ => a
  | .fin neg m e =>
    if m == 0 || 0 ≤ e then a else toF32 (.fin neg (integral op neg m e) 0)

/-! ### Correctly rounded functions (R219) -/

/-- The integer square root of a number below 2^(2n), bit by bit. -/
def isqrtFrom : Nat → Nat → Nat → Nat
  | 0, r, _ => r
  | k + 1, r, n => isqrtFrom k (if (r + 2 ^ k) * (r + 2 ^ k) ≤ n then r + 2 ^ k else r) n
/-- floor(√n). -/
def isqrt (n : Nat) : Nat := isqrtFrom (n.log2 / 2 + 1) 0 n

/-- A positive magnitude with a sticky remainder, as an FP32 word. -/
def roundPos (neg : Bool) (m : Nat) (e : Int) (sticky : Bool) : Word :=
  BitVec.ofNat 32 (fp32.round .rne 0 sticky (.fin neg m e)).1

/-- 1 / (m × 2^e) (R219 FRCP). -/
def recip (neg : Bool) (m : Nat) (e : Int) : Word :=
  roundPos neg (2 ^ 80 / m) (-80 - e) (2 ^ 80 % m != 0)

/-- √(m × 2^e) (R219 FSQRT). -/
def root (m : Nat) (e : Int) : Word :=
  let e' := if e % 2 == 0 then e - 60 else e - 61
  let m' := m * pow2 (e - e')
  roundPos false (isqrt m') (e' / 2) (isqrt m' * isqrt m' != m')

/-- 1 / √(m × 2^e) (R219 FRSQ). -/
def recipRoot (m : Nat) (e : Int) : Word :=
  let m' := if e % 2 == 0 then m else 2 * m
  let e' := if e % 2 == 0 then e else e - 1
  let s := isqrt (2 ^ 160 / m')
  roundPos false s (-80 - e' / 2) (s * s * m' != 2 ^ 160)

/-- Fraction bits of the fixed-point enclosures below. -/
def fixBits : Nat := 160
/-- floor(ln 2 × 2^160). -/
def ln2Fix : Nat := 1013035739299659071135698605846798551586536899366
/-- floor(log2 e × 2^160). -/
def log2eFix : Nat := 2108501164428393954197770173035669514763056903505

/-- An FP32 result whose exact magnitude lies above lo, in units of 2^e, by less than 2^11 units of the 2^160 below. Every input of FEXP2, FLOG2 and FTANH was searched (log
entry 71): no exact result lies within 2^-36 of its last place of a point halfway between two FP32 values, but for the exact ones, so the two ends of the enclosure round alike, and
the lower end with a remainder gives the result rounded once (R219). -/
def enclosed (neg : Bool) (lo : Nat) (e : Int) : Word := roundPos neg lo e true

/-- Terms x^k / k! from k + 1 to n, in fixed point, each rounded down. -/
def expTerms : Nat → Nat → Nat → Nat → Nat
  | 0, _, _, acc => acc
  | n + 1, k, x, t => t + expTerms n (k + 1) x (t * x / (2 ^ fixBits * (k + 1)))

/-- 2^f for a fixed-point f in [0, 1), within 64 units below the exact value. -/
def exp2Fix (f : Nat) : Nat := expTerms 48 0 (f * ln2Fix / 2 ^ fixBits) (2 ^ fixBits)

/-- 2^(±m × 2^e) (R219 FEXP2). -/
def exp2Of (neg : Bool) (m : Nat) (e : Int) : Word :=
  if m == 0 then 0x3F800000
  else if 200 < magLog m e then (if neg then 0 else 0x7F800000)
  else if magLog m e < -30 then 0x3F800000
  else
    let z := unitsOf neg (m * pow2 (e + fixBits)) 0 0
    let n := z / (2 ^ fixBits : Nat)
    let f := (z % (2 ^ fixBits : Nat)).toNat
    if f == 0 then toF32 (.fin false 1 n)
    else enclosed false (exp2Fix f) (n - fixBits)

/-- Terms z^(2k+1) / (2k+1) in fixed point from k up, each rounded down; z2 is z². -/
def atanhTerms : Nat → Nat → Nat → Nat → Nat
  | 0, _, _, _ => 0
  | n + 1, k, z2, t => t / (2 * k + 1) + atanhTerms n (k + 1) z2 (t * z2 / 2 ^ fixBits)

/-- log2 of y = m / 2^k in [1, 2), in fixed point, within 512 units below the exact value. -/
def log2Fix (m k : Nat) : Nat :=
  let z := (m - 2 ^ k) * 2 ^ fixBits / (m + 2 ^ k)
  let ln := 2 * atanhTerms 56 0 (z * z / 2 ^ fixBits) z
  ln * log2eFix / 2 ^ fixBits

/-- log2 (m × 2^e) (R219 FLOG2). -/
def log2Of (m : Nat) (e : Int) : Word :=
  let k := m.log2
  let n := e + k
  if m == 2 ^ k then toF32 (Val.ofInt n 0)
  else
    let lo : Int := n * (2 ^ fixBits : Nat) + (log2Fix m k : Nat)
    if 0 ≤ lo then enclosed false lo.toNat (-fixBits)
    else enclosed true (-(lo + 1024)).toNat (-fixBits)

/-- tanh (±m × 2^e) (R219 FTANH): a itself where |a| < 2^-40, ±1 where |a| ≥ 16, the odd series below 2^-20, else
1 − 2 / (e^(2|a|) + 1). -/
def tanhOf (a : Word) (neg : Bool) (m : Nat) (e : Int) : Word :=
  let l := magLog m e
  if m == 0 || l < -40 then a
  else if 4 ≤ l then (if neg then 0xBF800000 else 0x3F800000)
  else
    let x := m * pow2 (e + fixBits)
    if l < -20 then
      let x2 := x * x / 2 ^ fixBits
      let x3 := x * x2 / 2 ^ fixBits
      enclosed neg (x - x3 / 3 - 2) (-fixBits)
    else
      let y := 2 * x * log2eFix / 2 ^ fixBits
      let n := y / 2 ^ fixBits
      let ex := exp2Fix (y % 2 ^ fixBits) * 2 ^ n
      let lo := 2 ^ fixBits - 2 ^ (2 * fixBits + 1) / (ex + 2 ^ fixBits) - 1
      enclosed neg lo (-fixBits)

/-- FUN (R218 to R221). -/
def funOp (op : FunOp) (a : Word) : Word :=
  match op with
  | .fabs => a &&& 0x7FFFFFFF
  | .fneg => a ^^^ 0x80000000
  | .ffloor | .fceil | .ftrunc | .frint => roundIntegral op a
  | .frcp =>
    (match f32 a with
    | .nan => nan32
    | .inf n => if n then 0x80000000 else 0
    | .fin n m e => if m == 0 then BitVec.ofNat 32 (fp32.infinity n) else recip n m e)
  | .frsq =>
    (match f32 a with
    | .nan => nan32
    | .inf n => if n then nan32 else 0
    | .fin n m e => if m == 0 then BitVec.ofNat 32 (fp32.infinity n) else if n then nan32 else recipRoot m e)
  | .fsqrt =>
    (match f32 a with
    | .nan => nan32
    | .inf n => if n then nan32 else a
    | .fin n m e => if m == 0 then a else if n then nan32 else root m e)
  | .fexp2 =>
    (match f32 a with
    | .nan => nan32
    | .inf n => if n then 0 else a
    | .fin n m e => exp2Of n m e)
  | .flog2 =>
    (match f32 a with
    | .nan => nan32
    | .inf n => if n then nan32 else a
    | .fin n m e => if m == 0 then 0xFF800000 else if n then nan32 else log2Of m e)
  | .ftanh =>
    (match f32 a with
    | .nan => nan32
    | .inf n => if n then 0xBF800000 else 0x3F800000
    | .fin n m e => tanhOf a n m e)

/-! ### The narrow family (R198 to R203) -/

/-- The fields of a format word (R198). -/
structure NFmt where
  policy : Nat
  signed : Bool
  ebits : Nat
  mbits : Nat
  bias : Int
  scaled : Bool
  block : Nat
  tensor : Nat
  overflow : Nat
  flush : Bool
  deriving DecidableEq, Repr

/-- The fields of a word. -/
def NFmt.of (w : Word) : NFmt :=
  let n := w.toNat
  ⟨n / 2 ^ 30 % 4, n / 2 ^ 29 % 2 == 1, n / 2 ^ 26 % 8, n / 2 ^ 23 % 8, (w.extractLsb' 15 8 : BitVec 8).toInt,
    n / 2 ^ 14 % 2 == 1, if n / 2 ^ 13 % 2 == 1 then 16 else 32, n / 2 ^ 7 % 64, n / 2 ^ 5 % 4, n / 2 ^ 4 % 2 == 1⟩

/-- The width of an element (R199). -/
def NFmt.width (f : NFmt) : Nat := (if f.signed then 1 else 0) + f.ebits + f.mbits

/-- A format word is valid (R199). -/
def fmtValid (w : Word) : Bool :=
  let f := NFmt.of w
  f.policy != 3 && f.overflow != 3 && w.toNat % 16 == 0 && decide (2 ≤ f.width) && decide (f.width ≤ 8) &&
    (f.policy != 0 || (decide (2 ≤ f.ebits) && decide (1 ≤ f.mbits))) &&
    (f.ebits != 0 || (f.policy == 2 && !f.flush))

/-- The value of an element (R200). -/
def NFmt.decode (f : NFmt) (bits : Nat) : Val :=
  let b := bits % 2 ^ f.width
  if f.ebits == 0 then
    if f.signed then Val.ofInt (if 2 ^ (f.width - 1) ≤ b then (b : Int) - (2 ^ f.width : Nat) else b) (-f.bias)
    else .fin false b (-f.bias)
  else
    let m := b % 2 ^ f.mbits
    let e := b / 2 ^ f.mbits % 2 ^ f.ebits
    let neg := f.signed && b / 2 ^ (f.mbits + f.ebits) == 1
    if f.policy == 0 && e == 2 ^ f.ebits - 1 then (if m == 0 then .inf neg else .nan)
    else if f.policy == 1 && e == 2 ^ f.ebits - 1 && m == 2 ^ f.mbits - 1 then .nan
    else if e == 0 then .fin neg m (1 - f.bias - f.mbits)
    else .fin neg (2 ^ f.mbits + m) ((e : Int) - f.bias - f.mbits)

/-- The largest finite magnitude n × 2^q of a sign (R200, R202). -/
def NFmt.largest (f : NFmt) (neg : Bool) : Nat × Int :=
  if f.ebits == 0 then
    (if f.signed then (if neg then 2 ^ (f.width - 1) else 2 ^ (f.width - 1) - 1) else 2 ^ f.width - 1, -f.bias)
  else
    let top : Nat := 2 ^ f.ebits - 1
    let e : Nat := if f.policy == 0 || (f.policy == 1 && f.mbits == 0) then top - 1 else top
    let m : Nat := if f.policy == 1 && f.mbits != 0 then 2 ^ f.mbits - 2 else 2 ^ f.mbits - 1
    if e == 0 then (m, 1 - f.bias - f.mbits) else (2 ^ f.mbits + m, (e : Int) - f.bias - f.mbits)

/-- The sign bit of a floating element. -/
def NFmt.sign (f : NFmt) (neg : Bool) : Nat := if neg && f.signed then 2 ^ (f.mbits + f.ebits) else 0
/-- The canonical NaN (R201); +0 where the format has none. -/
def NFmt.qnan (f : NFmt) : Nat :=
  if f.policy == 0 then (2 ^ f.ebits - 1) * 2 ^ f.mbits + 2 ^ (f.mbits - 1)
  else if f.policy == 1 then 2 ^ (f.ebits + f.mbits) - 1
  else 0

/-- The encoding of a selected magnitude n × 2^q. -/
def NFmt.pack (f : NFmt) (neg : Bool) (n : Nat) (q : Int) : Nat :=
  if f.ebits == 0 then (if neg then (2 ^ f.width - n) % 2 ^ f.width else n)
  else
    f.sign neg +
      (if n < 2 ^ f.mbits then n
       else
        let n' := if n == 2 ^ (f.mbits + 1) then n / 2 else n
        let q' := if n == 2 ^ (f.mbits + 1) then q + 1 else q
        (q' + f.mbits + f.bias).toNat * 2 ^ f.mbits + (n' - 2 ^ f.mbits))

/-- The result of an overflow of a sign (R202). -/
def NFmt.over (f : NFmt) (mode : Rnd) (neg : Bool) : Nat × Flags :=
  let big := f.pack neg (f.largest neg).1 (f.largest neg).2
  if mode == .rz then (big, ⟨true, false, false⟩)
  else if f.overflow == 1 && f.policy == 0 then (f.sign neg + (2 ^ f.ebits - 1) * 2 ^ f.mbits, ⟨true, false, false⟩)
  else if f.overflow == 2 && f.policy != 2 then (f.qnan, ⟨false, false, true⟩)
  else (big, ⟨true, false, false⟩)

/-- A value converted into a narrow format (R202). -/
def NFmt.round (f : NFmt) (mode : Rnd) (x : Word) (v : Val) : Nat × Flags :=
  match v with
  | .nan => (f.qnan, ⟨false, false, true⟩)
  | .inf neg =>
    if neg && !f.signed then (0, ⟨true, false, false⟩)
    else if f.policy == 0 then (f.sign neg + (2 ^ f.ebits - 1) * 2 ^ f.mbits, Flags.none)
    else f.over mode neg
  | .fin neg m e =>
    if m == 0 then (if f.ebits == 0 then 0 else f.sign neg, Flags.none)
    else if neg && !f.signed then (0, ⟨true, false, false⟩)
    else
      let qmin : Int := if f.ebits == 0 then -f.bias else 1 - f.bias - f.mbits
      let q := if f.ebits == 0 then qmin else spacing f.mbits qmin m e
      let n := roundAt mode x m e false q
      let big := f.largest neg
      if magGt n q big.1 big.2 then f.over mode neg
      else if f.flush && n != 0 && n < 2 ^ f.mbits then (f.sign neg, ⟨false, true, false⟩)
      else (f.pack neg n q, Flags.none)

/-- A value times an E8M0 scale byte; 0xFF makes it a NaN (R203). -/
def scaleBy (q : Nat) (v : Val) : Val := if q == 255 then .nan else v.scale ((q : Int) - 127)
/-- A value divided by an E8M0 scale byte (R225). -/
def unscaleBy (q : Nat) (v : Val) : Val := if q == 255 then .nan else v.scale (127 - (q : Int))

end Sys2Proof.Machine
end

