-- ==== Sys2Proof/Machine/FpEff.lean ====
section
/-! DEFINITION. What the floating, conversion and dot-product instructions compute (R212 to R229), as functions of a group whose
sources have been formed. The meanings in Fp.lean apply them. -/

namespace Sys2Proof.Machine

/-- Lanes that take part: every active lane, or the lowest under U (R20). -/
def partLanes (h : Hdr) (act : Mask) : List Nat := if h.u then act.lowest.toList else act.lanes

/-- A three-source R-format instruction that reads its destination (R215). -/
def effRd (g : Group) (act : Mask) (h : Hdr) (vd va : BitVec 6) (pa : BitVec 2) (vb : BitVec 6) (pb : BitVec 2)
    (f : Word → Word → Word → Word) : Except Trap Eff :=
  match g.patternTrap act [pa, pb] with
  | some t => .error t
  | none => .ok (lanesEff h g act vd fun i => lift3 f (g.srcP va pa i) (g.srcP vb pb i) (g.src0 vd i))

def effFadd (g : Group) (act : Mask) (h : Hdr) (vd va : BitVec 6) (pa : BitVec 2) (vb : BitVec 6) (pb : BitVec 2) :=
  effR g act h vd va pa vb pb fAdd
def effFsub (g : Group) (act : Mask) (h : Hdr) (vd va : BitVec 6) (pa : BitVec 2) (vb : BitVec 6) (pb : BitVec 2) :=
  effR g act h vd va pa vb pb fSub
def effFmul (g : Group) (act : Mask) (h : Hdr) (vd va : BitVec 6) (pa : BitVec 2) (vb : BitVec 6) (pb : BitVec 2) :=
  effR g act h vd va pa vb pb fMul
def effFmac (g : Group) (act : Mask) (h : Hdr) (vd va : BitVec 6) (pa : BitVec 2) (vb : BitVec 6) (pb : BitVec 2) :=
  effRd g act h vd va pa vb pb fMad
def effHadd2 (g : Group) (act : Mask) (h : Hdr) (vd va : BitVec 6) (pa : BitVec 2) (vb : BitVec 6) (pb : BitVec 2) :=
  effR g act h vd va pa vb pb hAdd2
def effHmul2 (g : Group) (act : Mask) (h : Hdr) (vd va : BitVec 6) (pa : BitVec 2) (vb : BitVec 6) (pb : BitVec 2) :=
  effR g act h vd va pa vb pb hMul2
def effHfmac2 (g : Group) (act : Mask) (h : Hdr) (vd va : BitVec 6) (pa : BitVec 2) (vb : BitVec 6) (pb : BitVec 2) :=
  effRd g act h vd va pa vb pb hMad2
def effFscale (g : Group) (act : Mask) (h : Hdr) (vd va : BitVec 6) (pa : BitVec 2) (vb : BitVec 6) (pb : BitVec 2) :=
  effR g act h vd va pa vb pb fScale
def effDot4s (g : Group) (act : Mask) (h : Hdr) (vd va : BitVec 6) (pa : BitVec 2) (vb : BitVec 6) (pb : BitVec 2) :=
  effRd g act h vd va pa vb pb dot4s
def effDot4u (g : Group) (act : Mask) (h : Hdr) (vd va : BitVec 6) (pa : BitVec 2) (vb : BitVec 6) (pb : BitVec 2) :=
  effRd g act h vd va pa vb pb dot4u
def effFma (g : Group) (act : Mask) (h : Hdr) (vd va vb : BitVec 6) (vc : BitVec 4) := effQ g act h vd va vb vc fMad
def effHfma2 (g : Group) (act : Mask) (h : Hdr) (vd va vb : BitVec 6) (vc : BitVec 4) := effQ g act h vd va vb vc hMad2
def effFminmax (g : Group) (act : Mask) (h : Hdr) (vd va vb : BitVec 6) (op : FMinMaxOp) :=
  effF g act h vd va vb (fMinMax op)
def effFunc (g : Group) (act : Mask) (h : Hdr) (vd va : BitVec 6) (op : FunOp) := eff1 g act h vd va (funOp op)
def effFcmp (g : Group) (act : Mask) (h : Hdr) (pd : BitVec 3) (c : FCond) (va vb : BitVec 6) (pacc : BitVec 3) (comb : Bool) :
    Except Trap Eff :=
  .ok (predEff h act pd fun i =>
    let t := fCond c (g.src0 va i).1 (g.src0 vb i).1
    let q := (g.pred pacc).getLsbD i
    (if comb then t || q else t && q, (g.src0 va i).2 || (g.src0 vb i).2 || (g.predBad pacc).getLsbD i))

/-! ### Conversions (R223 to R226) -/

/-- The exact value of a CVT source (R223). -/
def cvtSource (t : CvtTy) (a : Word) : Val :=
  match t with
  | .f32 => f32 a
  | .f16 => fp16.decode (a.toNat % 65536)
  | .bf16 => bf16.decode (a.toNat % 65536)
  | .f16h => fp16.decode (a.toNat / 65536)
  | .bf16h => bf16.decode (a.toNat / 65536)
  | .s32 => Val.ofInt a.toInt 0
  | .u32 => .fin false a.toNat 0

/-- A value rounded to an integer and saturated to [lo, hi]; a NaN gives 0 (R224). -/
def toInteger (mode : Rnd) (x : Word) (lo hi : Int) (v : Val) : Word :=
  match v with
  | .nan => 0
  | .inf neg => BitVec.ofInt 32 (if neg then lo else hi)
  | .fin neg m e =>
    let n : Int := roundAt mode x m e false 0
    BitVec.ofInt 32 (clampInt lo hi (if neg then -n else n))

/-- CVT on one lane (R224); `x` is the generator state after its step. -/
def cvtOp (src dst : CvtTy) (mode : Rnd) (x a : Word) : Word :=
  let v := cvtSource src a
  match dst with
  | .s32 => toInteger mode x (-2147483648) 2147483647 v
  | .u32 => toInteger mode x 0 4294967295 v
  | .f16 | .f16h => BitVec.ofNat 32 (fp16.round mode x false v).1
  | .bf16 | .bf16h => BitVec.ofNat 32 (bf16.round mode x false v).1
  | .f32 => BitVec.ofNat 32 (fp32.round mode x false v).1

/-- Lane i's generator state (R197). -/
def Group.rng (g : Group) (i : Nat) : Word := Tbl.get 0 g.rngs i

/-- The generators of the lanes that convert under SR advance once each (R196). -/
def rngWrites (g : Group) (mode : Rnd) (lanes : List Nat) : List Write :=
  if mode = .sr then [.rngs (lanes.map fun i => (i, rngNext (g.rng i)))] else []

/-- CVT (R223, R224). -/
def effCvt (g : Group) (act : Mask) (h : Hdr) (vd va : BitVec 6) (src dst : CvtTy) (mode : Rnd) : Except Trap Eff :=
  let e := lanesEff h g act vd fun i => lift1 (cvtOp src dst mode (rngNext (g.rng i))) (g.src0 va i)
  .ok ⟨e.writes ++ rngWrites g mode (partLanes h act), []⟩

/-- The slot j of a control value (R225). -/
def ctlSlot (b : Word) : Nat := b.toNat / 256 % 32
/-- The scale byte of a control value, 127 where the format is not scaled (R225). -/
def ctlScale (f : NFmt) (b : Word) : Nat := if f.scaled then b.toNat % 256 else 127

/-- CVTN on one lane (R225): the packed word, with its events. -/
def cvtnOp (f : NFmt) (mode : Rnd) (x d a b : Word) : Word × Flags :=
  let w := f.width
  let j := ctlSlot b
  if 32 < (j + 1) * w then (d, Flags.none)
  else
    let r := f.round mode x (unscaleBy (ctlScale f b) (f32 a))
    let m := BitVec.ofNat 32 ((2 ^ w - 1) * 2 ^ (j * w))
    ((d &&& ~~~m) ||| BitVec.ofNat 32 (r.1 * 2 ^ (j * w)), r.2)

/-- CVTW on one lane (R225, R226): the FP32 word, with its events. -/
def cvtwOp (f : NFmt) (mode : Rnd) (x a b : Word) : Word × Flags :=
  let w := f.width
  let j := ctlSlot b
  if 32 < (j + 1) * w then (0, Flags.none)
  else
    let r := fp32.round mode x false (scaleBy (ctlScale f b) (f.decode (a.toNat / 2 ^ (j * w))))
    (BitVec.ofNat 32 r.1, r.2)

/-- The lanes that convert: those whose slot fits (R225, R226). -/
def converting (f : NFmt) (g : Group) (vb : BitVec 6) (lanes : List Nat) : List Nat :=
  lanes.filter fun i => (ctlSlot (g.src0 vb i).1 + 1) * f.width ≤ 32

/-- An invalid format word is refused before any lane acts (R225, R199); with U and no active lane nothing traps (R20). -/
def formatTrap (h : Hdr) (act : Mask) (wd : Word) : Bool := !fmtValid wd && !(h.u && act == 0)

/-- CVTN (R225): it reads vd; counts are made for lanes without poison (R142, R210). -/
def effCvtn (g : Group) (act : Mask) (h : Hdr) (vd va : BitVec 6) (fmt : BitVec 2) (mode : Rnd) (vb : BitVec 6) :
    Except Trap Eff :=
  let wd := g.freg fmt
  if formatTrap h act wd then .error ⟨Cause.badForm, wd.toNat⟩
  else
    let f := NFmt.of wd
    let r := fun i => cvtnOp f mode (rngNext (g.rng i)) (g.src0 vd i).1 (g.src0 va i).1 (g.src0 vb i).1
    let bad := fun i => (g.src0 vd i).2 || (g.src0 va i).2 || (g.src0 vb i).2
    let e := lanesEff h g act vd fun i => ((r i).1, bad i)
    let cs := converting f g vb (partLanes h act)
    .ok ⟨e.writes ++ rngWrites g mode cs, (cs.filter fun i => !bad i).flatMap fun i => countsOf f.tensor (r i).2⟩

/-- CVTW (R225). -/
def effCvtw (g : Group) (act : Mask) (h : Hdr) (vd va : BitVec 6) (fmt : BitVec 2) (mode : Rnd) (vb : BitVec 6) :
    Except Trap Eff :=
  let wd := g.freg fmt
  if formatTrap h act wd then .error ⟨Cause.badForm, wd.toNat⟩
  else
    let f := NFmt.of wd
    let r := fun i => cvtwOp f mode (rngNext (g.rng i)) (g.src0 va i).1 (g.src0 vb i).1
    let bad := fun i => (g.src0 va i).2 || (g.src0 vb i).2
    let e := lanesEff h g act vd fun i => ((r i).1, bad i)
    let cs := converting f g vb (partLanes h act)
    .ok ⟨e.writes ++ rngWrites g mode cs, (cs.filter fun i => !bad i).flatMap fun i => countsOf f.tensor (r i).2⟩

/-! ### Reductions (R206, R228) -/

/-- Neighbours combined, lower lane first (R206). -/
def pairUp (f : Word → Word → Word) : List Word → List Word
  | x :: y :: rest => f x y :: pairUp f rest
  | l => l
/-- The pairwise tree over 2^n positions (R206). -/
def treeReduce (f : Word → Word → Word) : Nat → List Word → List Word
  | 0, l => l
  | n + 1, l => treeReduce f n (pairUp f l)

/-- FREDUX's combination (R228). -/
def freduxOp (op : FReduxOp) (x y : Word) : Word :=
  match op with
  | .fradd => fAdd x y
  | .frmax => fMinMax .fmax x y
  | .framax => fMinMax .fmax (x &&& 0x7FFFFFFF) (y &&& 0x7FFFFFFF)
  | .frmin => fMinMax .fmin x y
/-- FREDUX's neutral element (R206, R228). -/
def freduxNeutral (op : FReduxOp) : Word :=
  match op with
  | .fradd => 0x80000000
  | .frmax => 0xFF800000
  | .framax => 0
  | .frmin => 0x7F800000

/-- FREDUX (R228). -/
def effFredux (g : Group) (act : Mask) (vd va : BitVec 6) (op : FReduxOp) : Except Trap Eff :=
  let vals := (List.range g.w).map fun i => if act.getLsbD i then (g.src0 va i).1 else freduxNeutral op
  .ok (sameEff g vd ((treeReduce (freduxOp op) 6 vals).headD 0) (act.lanes.any fun i => (g.src0 va i).2))

/-! ### The words a recipe slice may hold (R151) -/

/-- The effect of an instruction of majors 0x00 to 0x33; none for every other instruction. -/
def registerEff (i : Instr) (g : Group) (act : Mask) : Option (Except Trap Eff) :=
  match i with
  | .nop _ => some (.ok ⟨[], []⟩)
  | .iadd h vd va pa vb pb => some (effIadd g act h vd va pa vb pb)
  | .isub h vd va pa vb pb => some (effIsub g act h vd va pa vb pb)
  | .imul h vd va pa vb pb => some (effImul g act h vd va pa vb pb)
  | .imulh h vd va pa vb pb => some (effImulh g act h vd va pa vb pb)
  | .imulhu h vd va pa vb pb => some (effImulhu g act h vd va pa vb pb)
  | .imad h vd va vb vc => some (effImad g act h vd va vb vc)
  | .iaddi h vd va imm => some (effIaddi g act h vd va imm)
  | .and h vd va pa vb pb => some (effAnd g act h vd va pa vb pb)
  | .or h vd va pa vb pb => some (effOr g act h vd va pa vb pb)
  | .xor h vd va pa vb pb => some (effXor g act h vd va pa vb pb)
  | .andi h vd va imm => some (effAndi g act h vd va imm)
  | .ori h vd va imm => some (effOri g act h vd va imm)
  | .xori h vd va imm => some (effXori g act h vd va imm)
  | .shf h vd va vb op => some (effShf g act h vd va vb op)
  | .shfi h vd va op n => some (effShfi g act h vd va op n)
  | .minmax h vd va vb op => some (effMinmax g act h vd va vb op)
  | .unary h vd va op => some (effUnary g act h vd va op)
  | .bfe h vd va vb op => some (effBfe g act h vd va vb op)
  | .bfi h vd va vb vc => some (effBfi g act h vd va vb vc)
  | .sel h vd va vb p inv => some (effSel g act h vd va vb p inv)
  | .icmp h pd c va vb pacc comb => some (effIcmp g act h pd c va vb pacc comb)
  | .icmpi h pd c va imm => some (effIcmpi g act h pd c va imm)
  | .pcomb h pd pa pb op => some (effPcomb g act h pd pa pb op)
  | .mov h vd va pa => some (effMov g act h vd va pa)
  | .movi h vd imm => some (effMovi g act h vd imm)
  | .movhi h vd imm => some (effMovhi g act h vd imm)
  | .li h vd lit => some (effLi g act h vd lit)
  | .vote _ vd p kind => some (effVote g act vd p kind)
  | .shfl _ vd va vb pb => some (effShfl g act vd va vb pb)
  | .int64 h vd va vb op => some (effInt64 g act h vd va vb op)
  | .redux _ vd va op => some (effRedux g act vd va op)
  | .fadd h vd va pa vb pb => some (effFadd g act h vd va pa vb pb)
  | .fsub h vd va pa vb pb => some (effFsub g act h vd va pa vb pb)
  | .fmul h vd va pa vb pb => some (effFmul g act h vd va pa vb pb)
  | .fma h vd va vb vc => some (effFma g act h vd va vb vc)
  | .fmac h vd va pa vb pb => some (effFmac g act h vd va pa vb pb)
  | .fminmax h vd va vb op => some (effFminmax g act h vd va vb op)
  | .func h vd va op => some (effFunc g act h vd va op)
  | .fcmp h pd c va vb pacc comb => some (effFcmp g act h pd c va vb pacc comb)
  | .hadd2 h vd va pa vb pb => some (effHadd2 g act h vd va pa vb pb)
  | .hmul2 h vd va pa vb pb => some (effHmul2 g act h vd va pa vb pb)
  | .hfma2 h vd va vb vc => some (effHfma2 g act h vd va vb vc)
  | .hfmac2 h vd va pa vb pb => some (effHfmac2 g act h vd va pa vb pb)
  | .cvt h vd va src dst r => some (effCvt g act h vd va src dst r)
  | .cvtn h vd va f r vb => some (effCvtn g act h vd va f r vb)
  | .cvtw h vd va f r vb => some (effCvtw g act h vd va f r vb)
  | .fscale h vd va pa vb pb => some (effFscale g act h vd va pa vb pb)
  | .fredux _ vd va op => some (effFredux g act vd va op)
  | .dot4s h vd va pa vb pb => some (effDot4s g act h vd va pa vb pb)
  | .dot4u h vd va pa vb pb => some (effDot4u g act h vd va pa vb pb)
  | _ => none

end Sys2Proof.Machine
end

