-- ==== Sys2Proof/Machine/Link.lean ====
section
/-! DEFINITION. Sending over the fabric (R117 to R126): the route of a destination, a flit put into a port's send queue, and the request flits
of lane accesses. Receiving stands in Fabric.lean. -/

namespace Sys2Proof.Machine

/-- E-port n. -/
def State.port (s : State) (n : Nat) : Port := Tbl.get Port.reset s.ports n
/-- The state with E-port n replaced. -/
def State.setPort (s : State) (n : Nat) (p : Port) : State := { s with ports := Tbl.set Port.reset s.ports n p }
/-- The route entry of a package (R124). -/
def State.route (s : State) (dst : Nat) : DWord := Tbl.get 0 s.routes dst
/-- The port of classes 0, 1 and 3 to a package, where it is reachable. -/
def State.routePort (s : State) (dst : Nat) : Option Nat :=
  let e := s.route dst
  if e.getLsbD 63 then some (e.toNat / 2 ^ 58 % 32) else none
/-- The entry of a destination names a port that is down, which the Sheaf takes out of it (R122, R125). -/
def State.routeDoomed (s : State) (dst : Nat) : Bool :=
  let e := s.route dst
  e.getLsbD 63 && ((s.port (e.toNat / 2 ^ 58 % 32)).down || (List.range 18).any fun k => e.getLsbD (40 + k) && (s.port k).down)
/-- The entry of a destination is to change, by a ROUTEWR of the host or because its port is down: new traffic to it is stalled until it has (R125, R400). -/
def State.routeStalled (s : State) (dst : Nat) : Bool :=
  (s.regs.fabcmd.getLsbD 63 && s.regs.fabcmd.toNat % 16 == 2 && s.regs.fabcmd.toNat / 2 ^ 16 % 512 == dst) || s.routeDoomed dst
/-- The port of a BULK chunk: the set bit of the mask that PA[15:8] selects (R124). -/
def State.bulkPort (s : State) (dst pa : Nat) : Option Nat :=
  let e := s.route dst
  let bits := (List.range 18).filter fun k => e.getLsbD (40 + k)
  if e.getLsbD 63 then bits[pa / 256 % 256 % Nat.max 1 bits.length]? else none

/-- A number as n bytes, little-endian. -/
def bytesOf : Nat → Nat → List Byte
  | 0, _ => []
  | n + 1, v => BitVec.ofNat 8 v :: bytesOf n (v / 256)
/-- Little-endian bytes as a number. -/
def ofBytes : List Byte → Nat
  | [] => 0
  | b :: bs => b.toNat + 256 * ofBytes bs

/-- A flit to a package, its sequence and acknowledgement numbers still open (R118). -/
def mkFlit (s : State) (cls dst tag : Nat) (w : Bool) (payload : List Byte) : Flit :=
  ⟨BitVec.ofNat 2 cls, 0, 0, 0, BitVec.ofNat 9 dst, s.pkgId, BitVec.ofNat 16 tag, 0, 0, w, payload⟩

/-- A flit put at the end of a port's send queue, as a request of this package's own or not. -/
def State.enqueueAs (s : State) (port type : Nat) (f : Flit) (own : Bool) : State :=
  let p := s.port port
  s.setPort port { p with sendq := p.sendq ++ [⟨type, f, 0, own⟩] }
/-- A request of this package, or an answer of it, put at the end of a port's send queue. -/
def State.enqueue (s : State) (port type : Nat) (f : Flit) : State :=
  s.enqueueAs port type f (type == 1 || type == 2 || type == 3 || type == 7 || type == 9)

/-! ### The bytes of a flit (R117, R118) -/

/-- One bit of CRC32C: the Castagnoli polynomial 0x1EDC6F41, reflected. -/
def crc32cBit (c : Word) : Word := if c.getLsbD 0 then (c >>> 1) ^^^ 0x82F63B78 else c >>> 1
/-- One byte of CRC32C. -/
def crc32cByte (c : Word) (b : Byte) : Word := (List.range 8).foldl (fun c _ => crc32cBit c) (c ^^^ b.setWidth 32)
/-- CRC32C of bytes (R117). -/
def crc32c (l : List Byte) : Word := ~~~(l.foldl crc32cByte 0xFFFFFFFF)

/-- The header of a flit of a type (R118). -/
def flitHeader (type : Nat) (f : Flit) : Nat :=
  type % 16 * 2 ^ 92 + f.cls.toNat * 2 ^ 90 + f.rsv.toNat / 2 * 2 ^ 88 + f.seq.toNat * 2 ^ 72 + f.ack.toNat * 2 ^ 56 + f.dst.toNat * 2 ^ 47 +
    f.src.toNat * 2 ^ 38 + f.payload.length % 256 * 2 ^ 30 + f.tag.toNat * 2 ^ 14 + f.hops.toNat * 2 ^ 10 + f.rate.toNat * 4 +
    (if f.w then 2 else 0) + f.rsv.toNat % 2

/-- The 256 bytes of a flit: header, payload filled up with zeros, CRC32C (R117). -/
def flitBytes (type : Nat) (f : Flit) : List Byte :=
  let body := bytesOf 12 (flitHeader type f) ++ f.payload ++ List.replicate (240 - f.payload.length) 0
  body ++ bytesOf 4 (crc32c body).toNat

/-- The flit that 256 bytes hold, with its type; none where the CRC fails, or a byte past len is not zero (R117, R121). -/
def flitOfBytes (l : List Byte) : Option (Nat × Flit) :=
  let h := ofBytes (l.take 12)
  let len := h / 2 ^ 30 % 256
  let f : Flit := ⟨BitVec.ofNat 2 (h / 2 ^ 90), BitVec.ofNat 3 (h / 2 ^ 88 % 4 * 2 + h % 2), BitVec.ofNat 16 (h / 2 ^ 72), BitVec.ofNat 16 (h / 2 ^ 56),
    BitVec.ofNat 9 (h / 2 ^ 47), BitVec.ofNat 9 (h / 2 ^ 38), BitVec.ofNat 16 (h / 2 ^ 14), BitVec.ofNat 4 (h / 2 ^ 10), BitVec.ofNat 8 (h / 4),
    h / 2 % 2 == 1, (l.drop 12).take len⟩
  if l.length == 256 && ofBytes (l.drop 252) == (crc32c (l.take 252)).toNat && decide (len ≤ 240) && ((l.drop (12 + len)).take (240 - len)).all (fun b => b == 0)
  then some (h / 2 ^ 92, f) else none

/-- A fresh request tag (R118). -/
def State.freshTag (s : State) : Nat × State := (s.nextTag % 65536, { s with nextTag := s.nextTag + 1 })

/-- An address word of a request (R119). -/
def addrWord (pa sizeLog order : Nat) : Nat := pa % 2 ^ 54 + sizeLog * 2 ^ 54 + order * 2 ^ 57

/-- A partition's cores write to a package (R267 step 2). -/
def State.noteWrite (s : State) (part dst : Nat) (write : Bool) : State :=
  if write then s.setPart part { s.part part with wrote := addNat (s.part part).wrote dst } else s

/-- A list cut into runs of at most n items; `fuel` bounds the number of runs. -/
def chunksOf {α : Type} : Nat → Nat → List α → List (List α)
  | 0, _, _ => []
  | _ + 1, _, [] => []
  | k + 1, n, l => l.take n :: chunksOf k n (l.drop n)

/-- log2 of an access size. -/
def sizeLog (n : Nat) : Nat := n.log2

end Sys2Proof.Machine
end

