-- ==== Sys2Proof/Machine/Operands.lean ====
section
/-! DEFINITION. The operand forms of memory instructions: global and local addresses (R70, R83), the checks of R75 in their order, the translation
of an instruction's pages (R57), and one access performed at its home (R77, R84 to R87), or asked of another package (R119, R126). -/

namespace Sys2Proof.Machine

/-! ### What an instruction does to a location -/

/-- The access of one lane. -/
inductive MemOp
  | load (n : Nat)
  | ldk (n : Nat)
  | store (n : Nat)
  | atomic (op : AtomOp) (dw ret : Bool)
  | cas (dw : Bool)
  deriving DecidableEq, Repr

/-- Bytes of the access. -/
def MemOp.bytes : MemOp → Nat
  | .load n | .ldk n | .store n => n
  | .atomic _ dw _ | .cas dw => if dw then 8 else 4
/-- The page permission it needs (R54). -/
def MemOp.need : MemOp → Need
  | .load _ => .load
  | .ldk _ => .ldk
  | .store _ => .store
  | .atomic .. | .cas _ => .atomic
/-- It is a plain or acquire read. -/
def MemOp.isLoad : MemOp → Bool
  | .load _ | .ldk _ => true
  | _ => false
/-- The descriptor permits it (R76). -/
def MemOp.permitted (o : MemOp) (perm : BitVec 16) : Bool :=
  let r := perm.getLsbD 0
  let w := perm.getLsbD 1
  let a := perm.getLsbD 3
  let k := perm.getLsbD 4
  let t := perm.getLsbD 6
  match o with
  | .load _ => r
  | .ldk _ => r && k
  | .store _ => w && !t
  | .atomic _ _ ret => (r || !ret) && w && a && !t
  | .cas _ => r && w && a && !t

/-- The access of an instruction through an address register. -/
def memOpOf : Instr → Option MemOp
  | .ldB .. => some (.load 1)
  | .ldH .. => some (.load 2)
  | .ldW .. => some (.load 4)
  | .ldD .. => some (.load 8)
  | .ldQ .. => some (.load 16)
  | .stB .. | .hstore _ .b .. => some (.store 1)
  | .stH .. | .hstore _ .h .. => some (.store 2)
  | .stW .. | .hstore _ .w .. => some (.store 4)
  | .stD .. | .hstore _ .d .. => some (.store 8)
  | .stQ .. => some (.store 16)
  | .ldkW .. => some (.ldk 4)
  | .ldkD .. => some (.ldk 8)
  | .atom _ _ _ op dw _ => some (.atomic op dw true)
  | .red _ _ op dw _ => some (.atomic op dw false)
  | .cas _ _ _ dw _ _ => some (.cas dw)
  | _ => none

/-- The order code of an instruction's access (R80). -/
def orderOf : Instr → Order
  | .ldB _ _ m | .ldH _ _ m | .ldW _ _ m | .ldD _ _ m | .ldQ _ _ m | .stB _ _ m | .stH _ _ m | .stW _ _ m
  | .stD _ _ m | .stQ _ _ m | .atom _ _ m .. | .red _ m .. | .cas _ _ m .. => m.order
  | .atoml _ _ _ o .. => o
  | _ => .plain

/-- A store, RED, atomic or CAS to global memory. -/
def globalWrites (i : Instr) : Bool := match memOpOf i with | some o => !o.isLoad | none => false

/-- Writes of the group are under way to other packages. -/
def Group.remoteWrites (g : Group) : Bool := g.remote.any fun r => globalWrites r.instr

/-- The access orders later ones of its lanes after itself by its code (R61, R85, R258): an acquire load, an ATOM, ATOML or CAS of order 0b01, an sc access. -/
def acquires (i : Instr) : Bool :=
  match orderOf i with
  | .sc => true
  | .acqrel => match i with | .red .. | .stB .. | .stH .. | .stW .. | .stD .. | .stQ .. => false | _ => true
  | _ => false

/-- The access performs after every earlier one of its lanes by its code (R258): a release store, RED, ATOM, ATOML or CAS of order 0b01, an sc access. -/
def releases (i : Instr) : Bool :=
  match orderOf i with
  | .sc => true
  | .acqrel => match i with | .ldB .. | .ldH .. | .ldW .. | .ldD .. | .ldQ .. => false | _ => true
  | _ => false

/-! ### Values (R84) -/

/-- A value as a signed number of n bytes. -/
def signedOf (n v : Nat) : Int := if v < 2 ^ (8 * n - 1) then v else (v : Int) - (2 ^ (8 * n) : Nat)

/-- The new value of an atomic of n bytes from old and operand (R84). -/
def atomNew (op : AtomOp) (n old s : Nat) : Nat :=
  match op with
  | .add => (old + s) % 2 ^ (8 * n)
  | .and => Nat.land old s
  | .or => Nat.lor old s
  | .xor => Nat.xor old s
  | .min => if signedOf n old ≤ signedOf n s then old else s
  | .max => if signedOf n old ≤ signedOf n s then s else old
  | .minu => Nat.min old s
  | .maxu => Nat.max old s
  | .xchg => s
  | .incw => if s ≤ old then 0 else old + 1
  | .decw => if old = 0 || s < old then s else old - 1
  | .fadd => (fAdd (BitVec.ofNat 32 old) (BitVec.ofNat 32 s)).toNat
  | .fmin => (fMinMax .fmin (BitVec.ofNat 32 old) (BitVec.ofNat 32 s)).toNat
  | .fmax => (fMinMax .fmax (BitVec.ofNat 32 old) (BitVec.ofNat 32 s)).toNat

/-! ### Addresses (R70, R83) -/

/-- The per-lane offset: Reg(vo, i) sign-extended, or 0 for vo = 63 (R70). -/
def Group.offset (g : Group) (vo : BitVec 6) (i : Nat) : Int := if vo = 63 then 0 else (g.rd vo i).toInt
/-- The offset register is poisoned in a lane. -/
def Group.offsetBad (g : Group) (vo : BitVec 6) (i : Nat) : Bool := vo != 63 && g.bad vo i
/-- The displacement of lane i's part of a stack window (R70). -/
def winOff (d : Desc) (ws i : Nat) : Nat := if d.perm.getLsbD 5 then i * ws else 0
/-- The effective address of lane i (R70), as an unbounded integer. -/
def effAddr (d : Desc) (ws i : Nat) (off : Int) : Int := (d.pointer.toNat : Int) + off + (winOff d ws i : Nat)
/-- The access of n bytes is within bounds, and below 2^51 (R47, R70). -/
def inBounds (d : Desc) (ws i n : Nat) (ea : Int) : Bool :=
  decide ((d.base.toNat : Int) + (winOff d ws i : Nat) ≤ ea) &&
    decide (ea + n ≤ (d.base.toNat : Int) + d.length.toNat + (winOff d ws i : Nat)) &&
    decide (0 ≤ ea) && decide (ea < (2 ^ 51 : Nat))
/-- An address as the 64-bit value that TRAPINFO holds. -/
def infoOf (ea : Int) : Nat := (BitVec.ofInt 64 ea).toNat

/-- The address lies in the launch's tiller arena (R382). -/
def inArena (l : Option Launch) (ea : Nat) : Bool :=
  match l with
  | some l => l.hdr.arena ≤ ea && ea < l.hdr.arena + l.hdr.alen
  | none => false

/-- Some of n bytes at an address lie in the arena. -/
def meetsArena (l : Option Launch) (ea n : Nat) : Bool :=
  match l with
  | some l => decide (ea < l.hdr.arena + l.hdr.alen) && decide (l.hdr.arena < ea + n)
  | none => false

/-- n bytes lie in a write tile of the node (R313). -/
def inWriteTile (r : NodeRec) (ea n : Nat) : Bool :=
  r.tiles.any fun t => t.perm / 2 % 2 == 1 && t.base ≤ ea && ea + n ≤ t.base + t.length

/-- Check 6 of R75 refuses the access. -/
def State.refusedStore (s : State) (g : Group) (d : Desc) (ea n : Nat) : Bool :=
  meetsArena (s.launchOf g) ea n ||
    (match (s.teamOf g).bind s.nodeOf with
     | some r => r.rs && !d.perm.getLsbD 5 && !inWriteTile r ea n
     | none => false)

/-- The first lane of a list that fails a test. -/
def firstLane (lanes : List Nat) (bad : Nat → Bool) : Option Nat := lanes.find? bad

/-- The address translates to another package: poisoned data for it fails check 2 (R81, R87). -/
def State.leaves (s : State) (core asid : Nat) (ea : Int) : Bool :=
  decide (0 ≤ ea) && decide (ea < (2 ^ 51 : Nat)) &&
    match (s.translate core asid ea.toNat false).1 with
    | .ok pa _ _ => !s.isLocal pa
    | _ => false

/-- Checks 2 to 6 of R75 on the participating lanes, and what each lane then accesses. -/
def State.checkGlobal (s : State) (g : Group) (lanes : List Nat) (d : Desc) (vo : BitVec 6) (o : MemOp)
    (data : Nat → BitVec 128 × Marks) : Except Trap (List LaneAcc) :=
  let ws := s.wsOf g
  let ea := fun i => effAddr d ws i (g.offset vo i)
  match firstLane lanes fun i => g.offsetBad vo i || ((data i).2 != 0 && s.leaves (s.coreOf g) (s.asidOf g) (ea i)) with
  | some i => .error ⟨Cause.poison, i⟩
  | none =>
  match firstLane lanes fun _ => !o.permitted d.perm with
  | some i => .error ⟨Cause.addrPerm, infoOf (ea i)⟩
  | none =>
  match firstLane lanes fun i => !inBounds d ws i o.bytes (ea i) with
  | some i => .error ⟨Cause.addrLimit, infoOf (ea i)⟩
  | none =>
  match firstLane lanes fun i => (ea i).toNat % o.bytes != 0 with
  | some i => .error ⟨Cause.misalign, infoOf (ea i)⟩
  | none =>
  match firstLane lanes fun i => !o.isLoad && s.refusedStore g d (ea i).toNat o.bytes with
  | some i => .error ⟨Cause.addrPerm, infoOf (ea i)⟩
  | none => .ok (lanes.map fun i => ⟨i, (ea i).toNat, (data i).1, (data i).2⟩)

/-- The local address of a lane (R83): the offset register zero-extended plus a byte offset. -/
def Group.localAddr (g : Group) (vo : BitVec 6) (imm i : Nat) : Nat :=
  (if vo = 63 then 0 else (g.rd vo i).toNat) + imm

/-- The checks of a local access (R75 in the terms of R83): poison, the limit L, alignment. -/
def checkLocal (g : Group) (size : Nat) (lanes : List Nat) (vo : BitVec 6) (imm n : Nat) : Option Trap :=
  let la := g.localAddr vo imm
  match firstLane lanes (g.offsetBad vo) with
  | some i => some ⟨Cause.poison, i⟩
  | none =>
  match firstLane lanes fun i => decide (size < la i + n) with
  | some i => some ⟨Cause.addrLimit, la i⟩
  | none =>
  match firstLane lanes fun i => la i % n != 0 with
  | some i => some ⟨Cause.misalign, la i⟩
  | none => none

/-! ### Translation of an instruction's pages (R56, R57) -/

/-- The unique pages of a list of accesses, in order of first use. -/
def pagesOf (accs : List LaneAcc) : List Nat := (accs.map fun a => a.ea / 65536).eraseDups

/-- Each page translated once; the state has the walks' updates. -/
def State.translateAll (s : State) (core asid : Nat) (write : Bool) : List Nat → State × List (Nat × Trans)
  | [] => (s, [])
  | p :: ps =>
    let r := s.translate core asid (p * 65536) write
    let rest := r.2.translateAll core asid write ps
    (rest.1, (p, r.1) :: rest.2)

/-- What the pages of an instruction allow. -/
inductive Resolved
  | ok (s : State) (at_ : List (LaneAcc × Nat))
  | refused (ea : Nat) (s : State)
  | poison (lane : Nat) (s : State)
  | wait (s : State) (pages : List Nat)
  deriving DecidableEq, Repr

/-- The physical address that a translated list gives for an address. -/
def paOf (ts : List (Nat × Trans)) (ea : Nat) : Option Nat :=
  match ts.find? fun t => t.1 == ea / 65536 with
  | some (_, .ok pa _ _) => some (pa + ea % 65536)
  | _ => none

/-- A page of the list refuses the access. -/
def pageRefuses (ts : List (Nat × Trans)) (need : Need) (ea : Nat) : Bool :=
  match ts.find? fun t => t.1 == ea / 65536 with
  | some (_, .ok _ pte _) => !pagePermits pte need
  | _ => false

/-- Check 7 of R75: the permission part first; then poison that would leave the package (R81, R87), which a replay may find; pages
without a translation are reported and waited for (R60). -/
def State.resolve (s : State) (core asid : Nat) (need : Need) (accs : List LaneAcc) : Resolved :=
  let r := s.translateAll core asid need.writes (pagesOf accs)
  match accs.find? fun a => pageRefuses r.2 need a.ea with
  | some a => .refused a.ea r.1
  | none =>
    match accs.find? fun (a : LaneAcc) => a.poison != (0 : Marks) && (match paOf r.2 a.ea with | some pa => !s.isLocal pa | none => false) with
    | some a => .poison a.lane r.1
    | none =>
      let missing := r.2.filter fun t => match t.2 with | .ok _ _ _ => false | _ => true
      if missing.isEmpty then .ok r.1 (accs.filterMap fun a => (paOf r.2 a.ea).map fun pa => (a, pa))
      else .wait (missing.foldl (fun s t => match t.2 with
        | .fault => s.postFault asid (t.1 * 65536) need.kind false
        | .malformed => s.postFault asid (t.1 * 65536) need.kind true
        | _ => s) r.1) (missing.map Prod.fst)

/-! ### Performing (R77, R78, R86, R87) -/

/-- A value that a lane receives, with its poison marks. -/
abbrev Got := Nat × BitVec 128 × Marks

/-- The marks of a value of at most 8 bytes. -/
def markOf (bad : Bool) : Marks := if bad then 1 else 0

/-- One access performed at its home in this package. What an atomic leaves is poisoned where its operand or the old value is (R87, R142 rule 3), and so is what an
XCHG or a CAS leaves, whose new value does not depend on the old: DEDUCED, log entry 64. -/
def State.performAt (s : State) (o : MemOp) (a : LaneAcc) (pa : Nat) : State × Got :=
  match o with
  | .load n | .ldk n => (s, (a.lane, BitVec.ofNat 128 (s.readPA pa n), s.marksPA pa n))
  | .store n => (s.writeMarked pa n (a.data.toNat % 2 ^ (8 * n)) a.poison, (a.lane, 0, 0))
  | .atomic op dw _ =>
    let n := if dw then 8 else 4
    let old := s.readPA pa n
    let bad := s.poisonedPA pa n
    (s.writePA pa n (atomNew op n old (a.data.toNat % 2 ^ (8 * n))) (a.poison != 0 || bad), (a.lane, BitVec.ofNat 128 old, markOf bad))
  | .cas dw =>
    let n := if dw then 8 else 4
    let old := s.readPA pa n
    let bad := s.poisonedPA pa n
    (if old == a.data.toNat % 2 ^ (8 * n) then
       s.writePA pa n (a.data.toNat / 2 ^ 64 % 2 ^ (8 * n)) (a.poison != 0 || bad)
     else s, (a.lane, BitVec.ofNat 128 old, markOf bad))

/-! ### The L1 data cache of a core (R9, R134, R136) -/

/-- The line that a core's L1 holds of a physical address of this package, read at a step or later. -/
def State.l1Line (s : State) (core since pa : Nat) : Option L1Line :=
  s.l1.find? fun x => x.core == core && x.line == paLocal pa / 64 && decide (since ≤ x.at_)
/-- n bytes that a line holds at an address in it, with their marks: accesses are aligned, so that none crosses a line. -/
def L1Line.read (x : L1Line) (pa n : Nat) : Nat × Marks :=
  let word := fun k => x.poison.getLsbD ((pa % 64 + 8 * k) / 8)
  (x.data / 2 ^ (8 * (pa % 64)) % 2 ^ (8 * n), markOf (word 0) ||| (if decide (8 < n) && word 1 then 2 else 0))
/-- The line of an address as memory has it. -/
def State.lineOf (s : State) (core pa : Nat) : L1Line :=
  let la := paLocal pa / 64 * 64
  ⟨core, paLocal pa / 64, s.ticks, Mem.readN s.mem la 64, BitVec.ofNat 8 ((List.range 8).foldl (fun m k => m + if s.memPoison.contains (la / 8 + k) then 2 ^ k else 0) 0)⟩
/-- A core's L1 with the line of an address, read now; a full one gives up another line. -/
def State.l1Fill (s : State) (core pa : Nat) : State :=
  let rest := s.l1.filter fun x => !(x.core == core && x.line == paLocal pa / 64)
  { s with l1 := s.lineOf core pa :: makeRoom (fun x => x.core == core) Config.l1Lines (Config.evicted s.ticks) rest }
/-- A core's L1 without the lines that n bytes at an address lie in: the L1 is written through and never holds an older value than its core has stored. -/
def State.l1Drop (s : State) (core pa n : Nat) : State :=
  { s with l1 := s.l1.filter fun x => !(x.core == core && decide (paLocal pa / 64 ≤ x.line) && decide (x.line ≤ (paLocal pa + n - 1) / 64)) }
/-- No L1 holds a line of n bytes at an address any more: the frame there has been given other contents or another use. -/
def State.l1Forget (s : State) (pa n : Nat) : State :=
  { s with l1 := s.l1.filter fun x => !(decide (paLocal pa / 64 ≤ x.line) && decide (x.line ≤ (paLocal pa + n - 1) / 64)) }
/-- A core's L1 emptied (R90 L1INV, R135). -/
def State.l1Empty (s : State) (core : Nat) : State := { s with l1 := s.l1.filter fun x => x.core != core }

/-- A plain load of a group: from a line of its core's L1, be it stale, that was read since the group last waited for something (R136, R257: a free value whether the
L1 is asked), or from memory, whose line the L1 then holds. -/
def State.l1Load (s : State) (g : Group) (o : MemOp) (a : LaneAcc) (pa : Nat) : State × Got :=
  match s.l1Line (s.coreOf g) g.l1Since pa with
  | some x =>
    if Config.l1Hit s.ticks then (s, (a.lane, BitVec.ofNat 128 (x.read pa o.bytes).1, (x.read pa o.bytes).2))
    else ((s.l1Fill (s.coreOf g) pa).performAt o a pa)
  | none => (s.l1Fill (s.coreOf g) pa).performAt o a pa

/-- One access of group n at its home in this package, past its core's L1: a plain load may be served there, any other access is performed at the home. -/
def State.performFor (s : State) (n : Nat) (plain : Bool) (o : MemOp) (a : LaneAcc) (pa : Nat) : State × Got :=
  match s.group n with
  | none => s.performAt o a pa
  | some g =>
    if o.isLoad then (if plain then s.l1Load g o a pa else s.performAt o a pa)
    else (s.l1Drop (s.coreOf g) pa o.bytes).performAt o a pa

/-- Accesses of group n performed in the order of the list, which is ascending in lanes. -/
def State.performList (s : State) (n : Nat) (plain : Bool) (o : MemOp) : List (LaneAcc × Nat) → State × List Got
  | [] => (s, [])
  | a :: rest =>
    let r := s.performFor n plain o a.1 a.2
    let q := r.1.performList n plain o rest
    (q.1, r.2 :: q.2)

/-! ### Accesses to other packages (R119, R126) -/

/-- The code that a CAS carries in an ATOMIC record, and the mark of a RED (log entry 12). -/
def casCode : Nat := 14
def redMark : Nat := 128

/-- The R84 code of an atomic operation. -/
def atomCode (op : AtomOp) : Nat := op.code.toNat

/-- The bytes of one lane's record (R119). The spec says that a CAS.D carries its new value in a following record whose address word is zero; the model
puts it into that record's operand (DESIGN CHOICE, log entry 12). -/
def recordOf (o : MemOp) (order : Nat) (a : LaneAcc) (pa : Nat) : List Byte :=
  let w := bytesOf 8 (addrWord pa (sizeLog o.bytes) order)
  match o with
  | .load _ | .ldk _ => w
  | .store _ => w ++ bytesOf 16 a.data.toNat
  | .atomic op dw ret =>
    w ++ bytesOf 8 a.data.toNat ++ bytesOf 8 (atomCode op + (if dw then 32 else 0) + (if ret then 0 else redMark))
  | .cas dw =>
    if dw then
      w ++ bytesOf 8 a.data.toNat ++ bytesOf 8 (casCode + 32) ++ bytesOf 8 0 ++ bytesOf 8 (a.data.toNat / 2 ^ 64) ++ bytesOf 8 0
    else w ++ bytesOf 8 (a.data.toNat % 2 ^ 32) ++ bytesOf 8 (casCode + (a.data.toNat / 2 ^ 64 % 2 ^ 32) * 2 ^ 32)

/-- The flit type of a request, and the accesses that one flit carries (R119). How the lanes of one ATOM, RED or CAS are split over flits the spec does not say: they
are cut in ascending lanes, so that at the home a write of another agent may fall between two flits of one instruction (DESIGN CHOICE, log entry 72). -/
def flitOf : MemOp → Nat × Nat
  | .load _ | .ldk _ => (2, 15)
  | .store _ => (1, 10)
  | .atomic .. => (3, 10)
  | .cas dw => (3, if dw then 5 else 10)

/-- One request flit of a group's lanes to a package; its tag, or none where the package cannot be reached. -/
def State.requestLanes (s : State) (n part : Nat) (o : MemOp) (order dst : Nat) (accs : List (LaneAcc × Nat)) :
    Option Nat × State :=
  match s.routePort dst with
  | none => (none, s)
  | some port =>
    let t := s.freshTag
    let f := mkFlit s 0 dst t.1 false (accs.flatMap fun a => recordOf o order a.1 a.2)
    let s1 := t.2.enqueue port (flitOf o).1 f
    (some t.1, { s1.noteWrite part dst (!o.isLoad) with remote := s1.remote ++ [⟨t.1, dst, part, !o.isLoad, .lanes n (accs.map fun a => a.1.lane)⟩] })

/-- The requests of an instruction's remote accesses, package by package; the tags, and whether some package is unreachable. -/
def State.requestAll (s : State) (n part : Nat) (o : MemOp) (order : Nat) :
    List (List (LaneAcc × Nat)) → List Nat × Bool × State
  | [] => ([], false, s)
  | l :: rest =>
    match l with
    | [] => s.requestAll n part o order rest
    | a :: _ =>
      let r := s.requestLanes n part o order (paPkg a.2) l
      let q := r.2.requestAll n part o order rest
      match r.1 with
      | some t => (t :: q.1, q.2.1, q.2.2)
      | none => (q.1, true, q.2.2)

/-- A code of order for a record: that of the instruction, or sc for a page with the SC attribute (R261). -/
def orderCode (i : Instr) (sc : Bool) : Nat := if sc then 3 else (orderOf i).code.toNat

/-- The access is a plain one, which an L1 may serve (R136, R258, R261): nothing performs after it by its order, its capsule or its pages. -/
def State.plainFor (s : State) (n : Nat) (acq : Bool) (at_ : List (LaneAcc × Nat)) : Bool :=
  !acq && match s.group n with
    | some g => !at_.any fun a => s.pageSC (s.coreOf g) (s.asidOf g) a.1.ea
    | none => false

/-- An instruction's accesses performed: those of this package at once in lane order; those of other packages asked for (R126), the
instruction then waiting for its answers. Where some lane's package cannot be reached, the fault is unresolvable, with that lane's address, and no lane
performs (R64, R124). -/
def State.perform (s : State) (n : Nat) (i : Instr) (pc : DWord) (mask : Mask) (acq : Bool) (seq : Nat) (o : MemOp) (at_ : List (LaneAcc × Nat)) :
    State × List Got × List Nat :=
  let here := at_.filter fun a => s.isLocal a.2
  let away := at_.filter fun a => !s.isLocal a.2
  let plain := s.plainFor n acq at_
  if away.isEmpty then (let r := s.performList n plain o here; (r.1, r.2, []))
  else
    match away.find? fun a => (s.routePort (paPkg a.2)).isNone, s.group n with
    | some a, some g => (s.setGroup n { g with deferred := some ⟨Cause.pageFatal, BitVec.ofNat 64 a.1.ea, pc, true⟩ }, [], [])
    | _, none => (s, [], [])
    | none, some _ =>
      let r := s.performList n plain o here
      let part := (((s.group n).bind s.launchOf).map Launch.part).getD 0
      let sc := match s.group n with
        | some g => at_.any fun a => s.pageSC (s.coreOf g) (s.asidOf g) a.1.ea
        | none => false
      let pkgs := (away.map fun a => paPkg a.2).eraseDups
      let lists := pkgs.flatMap fun p => chunksOf 64 (flitOf o).2 (away.filter fun a => paPkg a.2 == p)
      let q := r.1.requestAll n part o (orderCode i sc) lists
      let s1 := q.2.2
      let s2 := match s1.group n with
        | none => s1
        | some g => s1.setGroup n { g with remote := g.remote ++ [⟨i, mask, q.1, r.2, pc, at_.map Prod.fst, acq || sc, seq⟩] }
      (s2, r.2, q.1)

/-- An access of a list goes to a package whose route is being changed, and is stalled (R125). -/
def State.stalled (s : State) (at_ : List (LaneAcc × Nat)) : Bool := at_.any fun a => !s.isLocal a.2 && s.routeStalled (paPkg a.2)

/-! ### Local memory (R83) -/

/-- The marks of up to 16 bytes of a team's local memory. -/
def Team.localMarks (t : Team) (la n : Nat) : Marks := marksIn t.localPoison la n
/-- n bytes of a team's local memory, with the poison of the words they lie in. -/
def Team.readLocal (t : Team) (la n : Nat) : Nat × Bool := (Mem.readN t.localMem la n, poisonedIn t.localPoison la n)
/-- n bytes written to a team's local memory. -/
def Team.writeLocal (t : Team) (la n v : Nat) (bad : Bool) : Team :=
  { t with localMem := Mem.writeN t.localMem la n v, localPoison := poisonAfter t.localPoison la n bad }

/-- Up to 16 bytes written to a team's local memory, each 8 bytes with their own mark (R141, R142). -/
def Team.writeMarked (t : Team) (la n v : Nat) (marks : Marks) : Team :=
  if n ≤ 8 then t.writeLocal la n v (marks != 0)
  else (t.writeLocal la 8 (v % 2 ^ 64) (marks.getLsbD 0)).writeLocal (la + 8) (n - 8) (v / 2 ^ 64) (marks.getLsbD 1)

/-- An atomic on local memory (R85, R87). -/
def Team.atomicLocal (t : Team) (op : AtomOp) (dw : Bool) (la : Nat) (a : LaneAcc) : Team × Got :=
  let n := if dw then 8 else 4
  let old := t.readLocal la n
  (t.writeLocal la n (atomNew op n old.1 (a.data.toNat % 2 ^ (8 * n))) (a.poison != 0 || old.2),
    (a.lane, BitVec.ofNat 128 old.1, markOf old.2))

/-- A list of local atomics in order. -/
def Team.atomicList (t : Team) (op : AtomOp) (dw : Bool) : List (LaneAcc × Nat) → Team × List Got
  | [] => (t, [])
  | a :: rest =>
    let r := t.atomicLocal op dw a.2 a.1
    let q := r.1.atomicList op dw rest
    (q.1, r.2 :: q.2)

/-- What a lane receives, from a list of answers. -/
def gotOf (got : List Got) (i : Nat) : BitVec 128 × Marks := ((got.find? fun x => x.1 == i).map Prod.snd).getD (0, 0)

/-- The register writes that deliver answers to n registers from vt upward, low word first (R77): under U the one answer goes to every
active lane. A register takes the mark of the 8 bytes that it comes from (R142 rule 1). -/
def gotWrites (h : Hdr) (w : Nat) (vt : BitVec 6) (n : Nat) (got : List Got) : List Write :=
  (List.range n).map fun k =>
    let word := fun (x : BitVec 128) => x.extractLsb' (32 * k) 32
    if h.u then
      match got with
      | [] => .lanes (vt.toNat + k) []
      | x :: _ => .uniform (vt.toNat + k) (word x.2.1) (x.2.2.getLsbD (k / 2))
    else .lanes (vt.toNat + k) ((List.range w).map fun i => (word (gotOf got i).1, (gotOf got i).2.getLsbD (k / 2)))

/-- The destination registers of a memory instruction: the lowest, and how many. -/
def memDest : Instr → Option (BitVec 6 × Nat)
  | .ldB _ vt _ | .ldH _ vt _ | .ldW _ vt _ | .ldkW _ vt .. => some (vt, 1)
  | .ldD _ vt _ | .ldkD _ vt .. => some (vt, 2)
  | .ldQ _ vt _ => some (vt, 4)
  | .ldl _ vt _ sz _ => some (vt, match sz with | .w => 1 | .d => 2 | .q => 4)
  | .atom _ vt _ _ dw _ | .atoml _ vt _ _ _ _ dw _ | .cas _ vt _ dw _ _ => some (vt, if dw then 2 else 1)
  | _ => none

end Sys2Proof.Machine
end

