-- ==== Sys2Proof/Machine/Recipe.lean ====
section
/-! DEFINITION. Forming operands (R147), regeneration and materialization of folded registers (R157 to R162), register writes with the
materializations they require (R158), and the one way a register instruction runs. -/

namespace Sys2Proof.Machine

/-- What a path waits for within an instruction: pages of data, with the accesses of the lanes that need them (R60, R161, R286); values of n bytes at addresses of other packages (R82, R126); a page of code; a word of
code in another package (R16, R43). -/
inductive Pending
  | page (accs : List LaneAcc) (pages : List Nat)
  | remote (n : Nat) (accs : List (LaneAcc × Nat))
  | fetch (va : Nat)
  | word (va pa : Nat)
  deriving DecidableEq, Repr

/-- A page of data at one address is waited for. -/
def Pending.pageAt (va : Nat) : Pending := .page [⟨0, va, 0, 0⟩] [va / 65536]
/-- Something on a page is waited for. -/
def Pending.onPage (w : Pending) (page : Nat) : Bool :=
  match w with
  | .page _ pages => pages.contains page
  | .fetch va => va / 65536 == page
  | _ => false

/-- What a regeneration gives: a state and a group; a permission trap of an LDK; or what the LDK of a folded register's slice waits for (R161). -/
inductive Regen
  | ok (s : State) (g : Group)
  | trap (t : Trap) (s : State)
  | wait (s : State) (w : Pending) (r : Nat)
  deriving DecidableEq, Repr

/-- What one slice word gives. -/
inductive SliceEff
  | ok (s : State) (e : Eff)
  | trap (t : Trap) (s : State)
  | wait (s : State) (w : Pending)
  deriving DecidableEq, Repr

/-- A launch-constant value of another package that the group has asked for. -/
def Group.kdataAt (g : Group) (pa n : Nat) : Option (BitVec 128) := (g.kdata.find? fun x => x.1 == pa && x.2.1 == n).map fun x => x.2.2

/-- The address register, offset register and header of an LDK. -/
def ldkForm : Instr → Option (Hdr × BitVec 4 × BitVec 6)
  | .ldkW h _ an vo _ | .ldkD h _ an vo _ => some (h, an, vo)
  | _ => none

/-- One word of a slice, with the active mask given: a register instruction, or an LDK (R82, R151). -/
def State.sliceEff (s : State) (i : Instr) (g : Group) (act : Mask) : SliceEff :=
  match registerEff i g act with
  | some (.ok e) => .ok s e
  | some (.error t) => .trap t s
  | none =>
    match ldkForm i, memOpOf i, memDest i with
    | some (h, an, vo), some o, some (vt, n) =>
      (match s.checkGlobal g (partLanes h act) (g.areg an) vo o fun _ => (0, 0) with
      | .error t => .trap t s
      | .ok accs =>
        match s.resolve (s.coreOf g) (s.asidOf g) o.need accs with
        | .ok s1 at_ =>
          let missing := at_.filter fun a => !s1.isLocal a.2 && (g.kdataAt a.2 o.bytes).isNone
          if !missing.isEmpty then .wait s1 (.remote o.bytes missing)
          else .ok s1 ⟨gotWrites h g.w vt n (at_.map fun a =>
            if s1.isLocal a.2 then (s1.performAt o a.1 a.2).2 else (a.1.lane, (g.kdataAt a.2 o.bytes).getD 0, 0)), []⟩
        | .refused ea s1 => .trap ⟨Cause.addrPerm, ea⟩ s1
        | .poison l s1 => .trap ⟨Cause.poison, l⟩ s1
        | .wait s1 pages => .wait s1 (.page accs pages))
    | _, _, _ => .ok s ⟨[], []⟩

/-- The words of a slice run in order over a view of the group under mask m (R157); nothing but the view changes. -/
def State.regenRun (s : State) (m : Mask) (r : Nat) : Nat → List Word → Group → Regen
  | 0, _, g => .ok s g
  | _ + 1, [], g => .ok s g
  | k + 1, w :: rest, g =>
    match decode w (rest.headD 0) with
    | .error _ => .ok s g
    | .ok i =>
      match s.sliceEff i g m with
      | .ok s1 e => s1.regenRun m r k (rest.drop (i.words - 1)) (e.writes.foldl (fun g x => g.apply m false x) g)
      | .trap t s1 => .trap t s1
      | .wait s1 w => .wait s1 w r

/-- A folded register formed in a view of its group: the values of the lanes of M, 0 in every other lane (R157). -/
def State.formReg (s : State) (g : Group) (r : Nat) : Regen :=
  match (g.vreg r).hold, (g.vreg r).recipe with
  | .folded, some rc =>
    (match s.regenRun rc.m r 8 rc.words (g.setVreg r VReg.empty) with
    | .ok s1 view =>
      let val := fun i => if rc.m.getLsbD i then view.rdp r i else (0, false)
      .ok s1 (g.setVreg r { g.vreg r with
        hold := .rows ((List.range g.w).map fun i => (val i).1) (Mask.ofFn fun i => decide (i < g.w) && (val i).2) })
    | x => x)
  | _, _ => .ok s g

/-- Every folded register of a set formed, in ascending order (R147): the result is a view, the group itself stays as it is. -/
def State.formAll (s : State) (g : Group) : List Nat → Regen
  | [] => .ok s g
  | r :: rs =>
    match s.formReg g r with
    | .ok s1 g1 => s1.formAll g1 rs
    | x => x

/-- The registers of a set of v registers. -/
def vList (v : BitVec 64) : List Nat := (List.range 64).filter fun k => v.getLsbD k

/-- Materialization of a register (R158): its values go into a row, its record is released, MATCNT rises by 1. -/
def State.materialize (s : State) (g : Group) (r : Nat) : Regen :=
  if (g.vreg r).hold != .folded then .ok s g
  else match s.formReg g r with
    | .ok s1 g1 => .ok s1 { g1.setVreg r { g1.vreg r with recipe := none } with matcnt := g1.matcnt + 1 }
    | x => x

/-- Registers materialized in ascending order (R158). -/
def State.materializeAll (s : State) (g : Group) : List Nat → Regen
  | [] => .ok s g
  | r :: rs =>
    match s.materialize g r with
    | .ok s1 g1 => s1.materializeAll g1 rs
    | x => x

/-- A recipe pins some register of a set. -/
def Recipe.pinsAny (rc : Recipe) (f : Foot) : Bool := !(rc.pins.foot.inter f).isEmpty

/-- A write of a set of registers makes a folded register materialize first: it pins one of them, or is itself written without every
lane of M being active and without compression (R145, R158). -/
def Group.mustMaterialize (g : Group) (f : Foot) (act : Mask) (compress : Bool) (r : Nat) : Bool :=
  match (g.vreg r).hold, (g.vreg r).recipe with
  | .folded, some rc => rc.pinsAny f || (f.v.getLsbD r && !compress && (rc.m &&& ~~~act) != 0)
  | _, _ => false

/-- A register that carries a recipe but is not folded loses it when a pinned input is written (R158). -/
def Group.dropRecipes (g : Group) (f : Foot) : Group :=
  (List.range 64).foldl (fun g r =>
    match (g.vreg r).hold, (g.vreg r).recipe with
    | .folded, _ => g
    | _, some rc => if rc.pinsAny f then g.setVreg r { g.vreg r with recipe := none } else g
    | _, none => g) g

/-- The group made ready for a write of a set of registers (R158). -/
def State.prepareWrite (s : State) (g : Group) (f : Foot) (act : Mask) (compress : Bool) : Regen :=
  match s.materializeAll g ((List.range 64).filter fun r => g.mustMaterialize f act compress r) with
  | .ok s1 g1 => .ok s1 (g1.dropRecipes f)
  | x => x

/-- Exception counts of a team, saturating (R210, R211). -/
def Team.count (t : Team) (cs : List Nat) : Team :=
  { t with counts := cs.foldl (fun l k => Tbl.set 0 l k (Nat.min 0xFFFFFFFF (Tbl.get 0 l k + 1))) t.counts }

/-- Counts added to a group's team. -/
def State.count (s : State) (g : Group) (cs : List Nat) : State :=
  if cs.isEmpty then s
  else match s.team g.team with
    | some t => s.setTeam g.team (t.count cs)
    | none => s

/-- The registers that a list of writes names. -/
def writesFoot (ws : List Write) : Foot :=
  Foot.all (ws.map fun w => match w with
    | .lanes r _ | .uniform r _ _ => Foot.v1 (BitVec.ofNat 6 r)
    | .pred r _ _ => Foot.p1 r
    | .x n _ => { Foot.none with x := BitVec.ofNat 3 (2 ^ n) }
    | .a n _ => Foot.a1 n
    | .f n _ => Foot.f1 n
    | _ => Foot.none)

/-- Register writes of group n with the materializations they require (R158). -/
def State.writeRegs (s : State) (n : Nat) (act : Mask) (full : Bool) (ws : List Write) : Regen :=
  match s.group n with
  | none => .ok s default0
  | some g =>
    let uni := ws.all fun w => match w with | .lanes _ _ => false | _ => true
    match s.prepareWrite g (writesFoot ws) act (uni && full && g.exited == 0) with
    | .ok s1 g1 =>
      let g2 := ws.foldl (fun g w => g.apply act full w) g1
      .ok (s1.setGroup n g2) g2
    | x => x
where
  /-- A group of no lanes, where there is none. -/
  default0 : Group := {
    team := 0
    gid := 0
    width := 32
    hwslot := 0
    lslot := 0
    key := 0
    v := []
    p := []
    pPoison := []
    x := []
    a := []
    f := []
    j := []
    ob := []
    b := []
    tiles := []
    foldpol := 0
    matcnt := 0
    rngs := []
    scopes := []
    slotA := none
    slotB := none
    stack := []
    tstack := []
    spilt := 0
    exited := 0
    trap := ⟨false, .a, false, 0, 0, 0, none, none⟩
    deferred := none
    log := []
    remote := []
    asleep := none
    mx := []
    frozen := false
    mxFault := none
    copyFaults := []
    husk := none
    deliv := false
    abort := false
    adopted := 0
    kdata := []
    heard := []
    l1Since := 0
    sched := Sched.from_ 0
    live := false }

/-- Entries that the operand log of a core holds (R62). -/
def State.logOn (s : State) (core : Nat) : Nat := ((s.resident.filter fun e => s.coreOf e.2 == core).map fun e => e.2.log.length).foldl (· + ·) 0

/-- The operand log has no entry for a group (R62). -/
def Ctx.logFull (c : Ctx) : Bool :=
  decide (Config.logPerGroup ≤ c.g.log.length) || decide (Config.logPerCore ≤ c.s.logOn (c.s.coreOf c.g))

/-- The instruction enters the operand log with the accesses known, the pages that it waits for and what is to be done at replay (R60). An instruction for
which the log has no entry has not issued: it waits (R62). -/
def Ctx.log (c : Ctx) (i : Instr) (s : State) (accs : List LaneAcc) (pages : List Nat) (kind : LogKind) (acq : Bool) : State :=
  c.setG s fun g => { g with log := g.log ++ [(⟨i, c.pc, c.slot, c.act, accs, pages, s.orphanDue, kind, acq, c.s.ticks⟩ : LogEntry)] }

/-- The instruction waits in the operand log for pages that its lanes' accesses need, its path with it, and issues again once they are there (R60, R161). -/
def Ctx.logWait (c : Ctx) (i : Instr) (s : State) (accs : List LaneAcc) (pages : List Nat) (kind : LogKind) (acq : Bool) : Res :=
  if c.logFull then .hold c.s else .hold (c.log i s accs pages kind acq)
/-- The instruction waits in the operand log for the page of one address. -/
def Ctx.logHold (c : Ctx) (i : Instr) (s : State) (va : Nat) (kind : LogKind) (acq : Bool) : Res := c.logWait i s [⟨c.low, va, 0, 0⟩] [va / 65536] kind acq

/-- A READ of addresses of one package, and what its answer is for (R119, R126): its tag, or none where the package cannot be reached. -/
def State.sendRead (s : State) (part n : Nat) (pas : List Nat) (for_ : RemoteFor) : Option Nat × State :=
  let dst := paPkg (pas.headD 0)
  match s.routePort dst with
  | none => (none, s)
  | some port =>
    let t := s.freshTag
    let s1 := t.2.enqueue port 2 (mkFlit s 0 dst t.1 false (pas.flatMap fun pa => bytesOf 8 (addrWord pa (sizeLog n) 0)))
    (some t.1, { s1 with remote := s1.remote ++ [(⟨t.1, dst, part, false, for_⟩ : RemoteOp)] })

/-- READs of lists of addresses, virtual and physical, one for each; their tags. -/
def State.sendReads (s : State) (g part n : Nat) (keep : Bool) : List (List (Nat × Nat)) → List Nat × State
  | [] => ([], s)
  | pas :: rest =>
    let r := s.sendRead part n (pas.map Prod.snd) (.reads g n pas keep)
    let q := r.2.sendReads g part n keep rest
    (r.1.toList ++ q.1, q.2)

/-- The addresses of accesses to other packages, package by package, as READ flits carry them. -/
def readLists (accs : List (LaneAcc × Nat)) : List (List (Nat × Nat)) :=
  ((accs.map fun a => paPkg a.2).eraseDups).flatMap fun p =>
    chunksOf 64 15 ((accs.filter fun a => paPkg a.2 == p).map fun a => (a.1.ea, a.2)).eraseDups

/-- Values that a regeneration needs for group n, where no path of it can wait: those of other packages are asked for once (R126); a page fault is already
reported. -/
def State.pendFor (s : State) (n : Nat) (w : Pending) : State :=
  match w, s.group n with
  | .remote k accs, some g =>
    if s.remote.any (fun r => match r.for_ with | .reads m _ _ _ => m == n | _ => false) || s.stalled accs then s
    else
      (s.sendReads n (((s.launchOf g).map Launch.part).getD 0) k true (readLists accs)).2
  | _, _ => s

/-- The fault of an access of the path to a package that cannot be reached is unresolvable (R64, R124). -/
def Ctx.unreached (c : Ctx) (s : State) (va : Nat) : Res :=
  .hold (c.setG s fun g => { g with deferred := some ⟨Cause.pageFatal, BitVec.ofNat 64 va, c.pc, true⟩ })

/-- The path waits for values of n bytes of other packages that group `owner` needs; `keep` where they are launch-constant. -/
def Ctx.askRemote (c : Ctx) (s : State) (owner n : Nat) (accs : List (LaneAcc × Nat)) (keep : Bool) : Res :=
  match accs.find? fun a => (s.routePort (paPkg a.2)).isNone with
  | some a => c.unreached s a.1.ea
  | none =>
    if s.stalled accs then .hold s
    else
      let q := s.sendReads owner (((s.launchOf c.g).map Launch.part).getD 0) n keep (readLists accs)
      .hold (c.setPath q.2 fun p => { p with wait := some (.remote q.1) })

/-- The path waits for a word of code of another package (R16, R43), which the group hears for the instruction at hand and no cache keeps (R46). -/
def Ctx.askWord (c : Ctx) (s : State) (va pa : Nat) : Res :=
  if s.routeStalled (paPkg pa) then .hold s
  else match s.sendRead (((s.launchOf c.g).map Launch.part).getD 0) 4 [pa] (.reads c.n 4 [(va, pa)] false) with
    | (none, s1) => c.unreached s1 va
    | (some t, s1) => .hold (c.setPath s1 fun p => { p with wait := some (.remote [t]) })

/-- The path waits at the instruction for what it has met; the kind is that of an operand-log entry for a page of data (R60, R161, R286). -/
def Ctx.pend (c : Ctx) (i : Instr) (s : State) (w : Pending) (kind : LogKind) : Res :=
  match w with
  | .page accs pages => c.logWait i s accs pages kind (accs.any fun a => s.pageSC (s.coreOf c.g) (s.asidOf c.g) a.ea)
  | .remote n accs => c.askRemote s c.n n accs (kind != .again)
  | .fetch va => .hold (c.setPath s fun p => { p with wait := some (.page va) })
  | .word va pa => c.askWord s va pa

/-- The instruction waits for what the regeneration of register r has met; an operand-log entry names the register (R161). -/
def Ctx.waitRegen (c : Ctx) (i : Instr) (s : State) (w : Pending) (r : Nat) : Res := c.pend i s w (.regen (BitVec.ofNat 6 r))

/-- The path of an entry's instruction has gone on (R37): the entry will still write what the instruction writes. -/
def LogEntry.passed (e : LogEntry) : Bool :=
  match e.kind with
  | .access | .perform _ => true
  | .regen _ | .again => false

/-- Registers that instructions of the group still owe a value to: loads and atomics in the operand log or on the fabric, and matrix
work (R36, R61, R234); and register instructions in the log (R161). -/
def Group.owed (g : Group) : Foot :=
  Foot.all ((g.log.filter LogEntry.passed).map (fun e => writes e.instr) ++ (g.remote.filter fun e => e.mask != 0).map (fun e => writes e.instr) ++
    g.mx.map fun e => writes e.instr)

/-- Registers that a register instruction in the log has yet to read: no later instruction writes them before (R36: its sources are those of its issue). -/
def Group.unread (g : Group) : Foot :=
  Foot.all ((g.log.filter fun e => match e.kind with | .perform _ => true | _ => false).map fun e => reads e.instr)

/-- Vector registers that no instruction may write yet: owed ones, and those that a queued instruction still reads (R36, R148, R161). -/
def Group.busyV (g : Group) : BitVec 64 :=
  g.owed.v ||| g.unread.v ||| Mask.ofFn fun r => decide ((g.vreg r).locks != 0)

/-- The operands of an instruction formed (R147), then its body run on the view; a fault of a regeneration belongs to it (R161). -/
def Ctx.withForm (c : Ctx) (i : Instr) (body : State → Group → Res) : Res :=
  match c.s.formAll c.g (vList (reads i).v) with
  | .ok s view => body s view
  | .trap t s => .trap t s
  | .wait s w r => c.waitRegen i s w r

/-- Writes of an instruction applied, with its counts, and the path taken on; or the wait and trap of R161. -/
def Ctx.commit (c : Ctx) (i : Instr) (s : State) (e : Eff) : Res :=
  match s.writeRegs c.n c.act c.full e.writes with
  | .ok s1 g1 => c.done i (s1.count g1 e.counts)
  | .trap t s1 => .trap t s1
  | .wait s1 w r => c.waitRegen i s1 w r

/-- An instruction whose effect is on registers alone and, but for the patterns it names, cannot trap on its sources' values: it may be performed from the log (R161). FMTSET
traps on a value, and waits at its path. -/
def defers (i : Instr) : Bool :=
  (match i with | .fmtset .. => false | _ => true) && (registerEff i State.writeRegs.default0 0).isSome

/-- A register instruction whose source's, or materialized register's, regeneration has met an absent page (R37, R161): it enters the operand log, naming the register, and
its path goes on; the scoreboard holds what depends on it. -/
def Ctx.deferEff (c : Ctx) (i : Instr) (s : State) (w : Pending) (r : Nat) (eff : Group → Mask → Except Trap Eff) : Res :=
  match w, eff c.g c.act with
  | .page accs pages, .ok _ =>
    if !defers i then c.waitRegen i s w r
    else if c.logFull then .hold c.s
    else c.done i (c.log i s accs pages (.perform (BitVec.ofNat 6 r)) false)
  | .page _ _, .error t => if defers i then .trap t s else c.waitRegen i s w r
  | _, _ => c.waitRegen i s w r

/-- A register instruction (R40): its operands formed, its effect computed from them, its writes made. -/
def Ctx.runEff (c : Ctx) (i : Instr) (eff : Group → Mask → Except Trap Eff) : Res :=
  match c.s.formAll c.g (vList (reads i).v) with
  | .trap t s => .trap t s
  | .wait s w r => c.deferEff i s w r eff
  | .ok s view =>
    match eff view c.act with
    | .error t => .trap t s
    | .ok e =>
      match s.writeRegs c.n c.act c.full e.writes with
      | .ok s1 g1 => c.done i (s1.count g1 e.counts)
      | .trap t s1 => .trap t s1
      | .wait s1 w r => c.deferEff i s1 w r eff

/-- A register instruction of the log performed (R161): the regeneration completes, the register is materialized, and the instruction has its effect under the mask of its
issue; none where it still waits, which the state then says with what it waits for. Its mask was full, with no lane exited, where it is every lane of the group (R21, R22). -/
def State.performEff (s : State) (n : Nat) (e : LogEntry) (r : BitVec 6) : Regen :=
  match s.group n with
  | none => .ok s State.writeRegs.default0
  | some g =>
    match s.materialize g r.toNat with
    | .ok s1 g1 =>
      (match (s1.setGroup n g1).formAll g1 (vList (reads e.instr).v) with
      | .ok s2 view =>
        (match registerEff e.instr view e.mask with
        | some (.ok x) =>
          (match s2.writeRegs n e.mask (e.mask == g1.all) x.writes with
          | .ok s3 g3 => .ok (s3.count g3 x.counts) g3
          | y => y)
        | some (.error t) => .trap t s2
        | none => .ok s2 view)
      | y => y)
    | y => y

end Sys2Proof.Machine
end

