-- ==== Sys2Proof/Machine/Fetch.lean ====
section
/-! DEFINITION. Fetching words of code (R15, R16, R54, R81, R268): through the translation of the group's address space, the
instruction cache of its core, which may still hold an old word until ICINV, and the path's loop buffer (R305). -/

namespace Sys2Proof.Machine

/-- What a fetch of one word gives: the word; a page that does not permit it; or a page, or an answer of another package, that must be waited for. -/
inductive Fetch
  | ok (w : Word) (s : State)
  | noExec (s : State)
  | wait (w : Pending) (s : State)
  deriving DecidableEq, Repr

/-- The word that a core's instruction cache holds for an address. -/
def State.cached (s : State) (core asid va : Nat) : Option Word :=
  (s.icache.find? fun x => x.1 == core && x.2.1 == asid && x.2.2.1 == va).map fun x => x.2.2.2

/-- The instruction cache of a core with a word for an address; a full one gives up another word (R134). -/
def State.cache (s : State) (core asid va : Nat) (w : Word) : State :=
  let rest := s.icache.filter fun x => !(x.1 == core && x.2.1 == asid && x.2.2.1 == va)
  { s with icache := (core, asid, va, w) :: makeRoom (fun x => x.1 == core) Config.icacheWords (Config.evicted s.ticks) rest }

/-- The word at an address as a fetch of a group receives it: where memory has changed since its core cached the word, the old word or
the new one (R81), which is a free value. A word of another package is read there each time (R43), for no cache of this package keeps it (R46). -/
def State.fetchWord (s : State) (g : Group) (va : Nat) : Fetch :=
  let core := s.coreOf g
  let asid := s.asidOf g
  match s.translate core asid va false with
  | (.ok pa pte _, s1) =>
    if !pteX pte then .noExec s1
    else if !s1.isLocal pa then (match g.heardWord pa with | some w => .ok w s1 | none => .wait (.word va pa) s1)
    else
      let new := BitVec.ofNat 32 (s1.readPA pa 4)
      match s1.cached core asid va with
      | none => .ok new (s1.cache core asid va new)
      | some old =>
        if old = new then .ok new s1
        else if Config.staleFetch s1.ticks then .ok old s1
        else .ok new (s1.cache core asid va new)
  | (.fault, s1) => .wait (.fetch va) (s1.postFault asid va .fetch false)
  | (.malformed, s1) => .wait (.fetch va) (s1.postFault asid va .fetch true)
  | (.frozen, s1) => .wait (.fetch va) s1

/-! ### Loop buffers (R305) -/

/-- The loop record of the issuing path, as the state now has it. -/
def Ctx.loopNow (c : Ctx) (s : State) : Option LoopRec := (((s.group c.n).bind fun g => g.slot c.slot).bind Path.loop)

/-- Loop buffers of a core in use (R305). -/
def State.loopBuffersUsed (s : State) (core : Nat) : Nat :=
  let full := fun (p : Option Path) => match p.bind Path.loop with | some l => if l.buf.isEmpty then 0 else 1 | none => 0
  ((s.resident.filter fun e => s.coreOf e.2 == core).map fun e => full e.2.slotA + full e.2.slotB).foldl (· + ·) 0

/-- An address is translated to this package: what lies there may be cached (R46). -/
def State.hereVA (s : State) (core asid va : Nat) : Bool :=
  match (s.translate core asid va false).1 with
  | .ok pa _ _ => s.isLocal pa
  | _ => false

/-- A word of a loop's body has or finds a place in a loop buffer of the core (R305). -/
def State.buffers (s : State) (core asid : Nat) (l : LoopRec) (va : Nat) : Bool :=
  decide (l.start.toNat ≤ va) && decide (va < l.stop.toNat) && decide (l.stop.toNat - l.start.toNat ≤ 4 * Config.loopWords) &&
    (!l.buf.isEmpty || decide (s.loopBuffersUsed core < Config.loopBuffers)) && s.hereVA core asid va

/-- The word that the loop buffer of the issuing path holds for an address. -/
def Ctx.buffered (c : Ctx) (s : State) (va : Nat) : Option Word :=
  (c.loopNow s).bind fun l => (l.buf.find? fun x => x.1 == va).map Prod.snd

/-- A word of a loop's body put into the path's loop buffer (R305). -/
def Ctx.buffer (c : Ctx) (va : Nat) (w : Word) (s : State) : State :=
  match c.loopNow s with
  | none => s
  | some l =>
    if s.buffers (s.coreOf c.g) (s.asidOf c.g) l va then
      c.setPath s fun p => { p with loop := p.loop.map fun (l : LoopRec) => { l with buf := l.buf ++ [(va, w)] } }
    else s

/-- The word at an address as the path issues it: from its loop buffer, else fetched, and a word of the body put into the buffer (R305). -/
def Ctx.fetchWord (c : Ctx) (s : State) (va : Nat) : Fetch :=
  match c.buffered s va with
  | some w => .ok w s
  | none =>
    match s.fetchWord c.g va with
    | .ok w s1 => .ok w (c.buffer va w s1)
    | x => x

/-- The word at an address for a path, whether its page has X or not: what stands before the PC in its packet. -/
def Ctx.anyWord (c : Ctx) (s : State) (va : Nat) : Fetch :=
  match c.fetchWord s va with
  | .noExec s1 =>
    (match (s1.translate (s1.coreOf c.g) (s1.asidOf c.g) va false).1 with
    | .ok pa _ _ =>
      if s1.isLocal pa then .ok (BitVec.ofNat 32 (s1.readPA pa 4)) s1
      else (match c.g.heardWord pa with | some w => .ok w s1 | none => .wait (.word va pa) s1)
    | _ => .noExec s1)
  | x => x

/-- What a fetch of several words gives. -/
inductive FetchAll
  | ok (ws : List Word) (s : State)
  | noExec (s : State)
  | wait (w : Pending) (s : State)
  deriving DecidableEq, Repr

/-- n words from an address upward, as the path issues them. -/
def Ctx.fetchWords (c : Ctx) : Nat → Nat → State → FetchAll
  | 0, _, s => .ok [] s
  | n + 1, va, s =>
    match c.fetchWord s va with
    | .noExec s1 => .noExec s1
    | .wait w s1 => .wait w s1
    | .ok w s1 =>
      match c.fetchWords n (va + 4) s1 with
      | .ok ws s2 => .ok (w :: ws) s2
      | x => x

end Sys2Proof.Machine
end

