-- ==== Sys2Proof/Machine/Stack.lean ====
section
/-! DEFINITION. What control-flow and tiller instructions share: checks that may wait for a page, the stack window and its frame headers
(R284 to R286, R376, R377), the checks of targets (R288), and transfers to several targets (R289). -/

namespace Sys2Proof.Machine

/-- A check that goes on with a value, traps, or waits for a page or for answers of another package. -/
inductive Chk (α : Type)
  | ok (a : α) (s : State)
  | trap (t : Trap) (s : State)
  | wait (w : Pending) (s : State)

/-- One check after another. -/
def Chk.bind {α β : Type} (x : Chk α) (f : α → State → Chk β) : Chk β :=
  match x with
  | .ok a s => f a s
  | .trap t s => .trap t s
  | .wait w s => .wait w s

/-- A check made for each item in order. -/
def Chk.each {α β : Type} (f : α → State → Chk β) : List α → State → Chk (List β)
  | [], s => .ok [] s
  | a :: rest, s => (f a s).bind fun b s1 => (Chk.each f rest s1).bind fun bs s2 => .ok (b :: bs) s2

/-- The instruction leaves nothing of what other packages have answered to it. -/
def Ctx.unheard (c : Ctx) (s : State) : State := c.setG s fun g => { g with heard := [] }

/-- The outcome of an instruction whose checks are done: a wait holds the path at the instruction, with an entry of the operand log for a page of data (R60,
R286, R288, R383). -/
def Chk.res {α : Type} (c : Ctx) (i : Instr) (x : Chk α) (f : α → State → Res) : Res :=
  match x with
  | .ok a s => f a (c.unheard s)
  | .trap t s => .trap t s
  | .wait w s => c.pend i s w .again

/-- A trap where a condition fails. -/
def Chk.test (ok : Bool) (t : Trap) (s : State) : Chk Unit := if ok then .ok () s else .trap t s

/-! ### The stack window (R284, R285) -/

/-- The address of stack offset o of a lane (R285). -/
def State.stackEA (s : State) (g : Group) (lane o : Nat) : Nat :=
  (g.areg 15).pointer.toNat + o + winOff (g.areg 15) (s.wsOf g) lane

/-- n bytes at stack offset o lie in a lane's window (R70, R285). -/
def State.inWindow (s : State) (g : Group) (lane o n : Nat) : Bool :=
  inBounds (g.areg 15) (s.wsOf g) lane n (s.stackEA g lane o)

/-- a15 lets the device write the stack (R292). -/
def Group.stackW (g : Group) : Bool := (g.areg 15).perm.getLsbD 1 && !(g.areg 15).perm.getLsbD 6
/-- a15 lets the device read the stack (R294). -/
def Group.stackR (g : Group) : Bool := (g.areg 15).perm.getLsbD 0

/-- The accesses of an instruction to the stack or the arena resolved (R286, R383): a refused page traps ADDR_PERM with the address, poison for another package
traps POISON with the lane (R81), an absent page is waited for. -/
def State.reach (s : State) (g : Group) (need : Need) (accs : List LaneAcc) : Chk (List (LaneAcc × Nat)) :=
  match s.resolve (s.coreOf g) (s.asidOf g) need accs with
  | .ok s1 at_ => .ok at_ s1
  | .refused ea s1 => .trap ⟨Cause.addrPerm, ea⟩ s1
  | .poison l s1 => .trap ⟨Cause.poison, l⟩ s1
  | .wait s1 pages => .wait (.page accs pages) s1

/-- n bytes at a physical address as the instruction at hand receives them: this package's, or what another package has answered (R43, R286). -/
def State.valueAt (s : State) (g : Group) (pa n : Nat) : Option (Nat × Marks) :=
  if s.isLocal pa then some (s.readPA pa n, s.marksPA pa n)
  else (g.heard.find? fun x => x.1 == pa && x.2.1 == n).map fun x => (x.2.2.toNat, 0)

/-- Values of n bytes read for an instruction's lanes, with their marks; what lies in another package is asked for first. -/
def State.peeks (s : State) (g : Group) (n : Nat) (accs : List LaneAcc) : Chk (List (Nat × Marks)) :=
  (s.reach g .load accs).bind fun at_ s1 =>
    let missing := at_.filter fun a => (s1.valueAt g a.2 n).isNone
    if missing.isEmpty then .ok (at_.map fun a => (s1.valueAt g a.2 n).getD (0, 0)) s1 else .wait (.remote n missing) s1

/-- n bytes of an address space read for a lane, with their marks. -/
def State.peek (s : State) (g : Group) (lane ea n : Nat) : Chk (Nat × Marks) :=
  (s.peeks g n [⟨lane, ea, 0, 0⟩]).bind fun vs s1 => .ok (vs.headD (0, 0)) s1

/-- A frame header (R284), with the poison of its bytes. -/
structure Frame where
  retpc : DWord
  dist : Nat
  rmask : Nat
  tag : Nat
  flags : Nat
  bad : Bool
  deriving DecidableEq, Repr

/-- The 128 bits of a header (R284). -/
def Frame.bits (f : Frame) : BitVec 128 :=
  BitVec.ofNat 128 (f.retpc.toNat + f.dist % 2 ^ 32 * 2 ^ 64 + f.rmask % 2 ^ 16 * 2 ^ 96 + f.tag % 256 * 2 ^ 112
    + f.flags % 256 * 2 ^ 120)
/-- A header from its 128 bits. -/
def Frame.of (v : Nat) (bad : Bool) : Frame :=
  ⟨BitVec.ofNat 64 v, v / 2 ^ 64 % 2 ^ 32, v / 2 ^ 96 % 2 ^ 16, v / 2 ^ 112 % 256, v / 2 ^ 120 % 256, bad⟩
/-- M: a marker (R376). -/
def Frame.marker (f : Frame) : Bool := f.flags % 2 == 1
/-- The header is well formed (R376). -/
def Frame.wellFormed (f : Frame) : Bool :=
  (f.tag == 0 && (f.flags == 0 || f.flags == 2)) || ((f.flags == 1 || f.flags == 3) && f.tag != 0)
/-- The words that the mask names, as offsets in the frame. -/
def Frame.masked (f : Frame) : List Nat := ((List.range 16).filter fun k => f.rmask / 2 ^ k % 2 == 1).map fun k => 4 * k
/-- Every masked word lies below the frame's end (R377). -/
def Frame.maskFits (f : Frame) (at_ end_ : Nat) : Bool := f.masked.all fun k => at_ + k < end_

/-- A header lies where LD.Q and ST.Q could reach it (R286). -/
def State.stackAligned (s : State) (g : Group) (lane o : Nat) : Chk Unit :=
  Chk.test (s.stackEA g lane o % 16 == 0) ⟨Cause.misalign, s.stackEA g lane o⟩ s

/-- The header at stack offset o of a lane, whose frame ends at an offset; malformed ones trap STACK_LIMIT (R376, R377). -/
def State.readFrame (s : State) (g : Group) (lane o end_ : Nat) : Chk Frame :=
  (Chk.test (s.inWindow g lane o 16) ⟨Cause.stackLimit, o⟩ s).bind fun _ s1 =>
  (Chk.test g.stackR ⟨Cause.addrPerm, o⟩ s1).bind fun _ s1 =>
  (s1.stackAligned g lane o).bind fun _ s2 =>
  (s2.peek g lane (s2.stackEA g lane o) 16).bind fun v s3 =>
    let f := Frame.of v.1 (v.2 != 0)
    (Chk.test (f.wellFormed && f.maskFits o end_) ⟨Cause.stackLimit, o⟩ s3).bind fun _ s4 => .ok f s4

/-- The distance of a frame leads to a caller below it (R294). -/
def Frame.distOk (f : Frame) (at_ : Nat) : Bool := f.dist != 0 && f.dist % 16 == 0 && decide (f.dist ≤ at_)

/-- Frames that a lane's window can hold one below another: what bounds a walk of its headers. -/
def Group.frameBound (g : Group) : Nat := (g.areg 15).length.toNat / 16 + 2

/-- Headers to be written at stack offsets of lanes, all their pages translated first (R57, R286); one in the tiller arena is refused (R382). The distance, which a poisoned v62 or v63
has formed, takes the mark of its granule; the return PC beside it is clean (R142). -/
def State.writeFrames (s : State) (g : Group) (hs : List (Nat × Nat × Frame)) : Chk (List (LaneAcc × Nat)) :=
  let accs := hs.map fun h => (⟨h.1, s.stackEA g h.1 h.2.1, h.2.2.bits, if h.2.2.bad then 2 else 0⟩ : LaneAcc)
  match accs.find? fun a => a.ea % 16 != 0 with
  | some a => .trap ⟨Cause.misalign, a.ea⟩ s
  | none =>
  match accs.find? fun a => inArena (s.launchOf g) a.ea with
  | some a => .trap ⟨Cause.addrPerm, a.ea⟩ s
  | none => s.reach g .store accs

/-- A store instruction as which the stack and arena stores of other instructions travel and are acknowledged (R126, R286). -/
def stackStore : Instr := .stQ ⟨false, false, false⟩ 0 ⟨0, 63, .core, .plain, false⟩

/-- Stores of n bytes performed: those of this package at once, those of others sent (R43, R126). -/
def Ctx.stores (c : Ctx) (s : State) (n : Nat) (at_ : List (LaneAcc × Nat)) : State := (s.perform c.n stackStore c.pc c.act false c.s.ticks (.store n) at_).1

/-- What stores at resolved addresses, where they can be sent now: one for a package whose route is being changed waits (R125), one for a package that cannot be
reached is a fault of R64. -/
def Ctx.mayStore (c : Ctx) (s : State) (at_ : List (LaneAcc × Nat)) (k : Res) : Res :=
  if s.stalled at_ then .hold s
  else match at_.find? fun a => !s.isLocal a.2 && (s.routePort (paPkg a.2)).isNone with
    | some a => c.unreached s a.1.ea
    | none => k

/-! ### Targets (R288) -/

/-- The packet address plus a signed packet offset. -/
def packetPlus (packet : Nat) (off : Int) : DWord := BitVec.ofInt 64 (packet + 12 * off)

/-- The PAD at a target carries a tag (R288 check 6). -/
def State.padCheck (s : State) (g : Group) (tag : BitVec 8) (t : Nat × DWord) : Chk Unit :=
  match s.fetchWord g t.2.toNat with
  | .ok w s1 => Chk.test (padTag w == some tag) ⟨Cause.padMismatch, t.2.toNat⟩ s1
  | .noExec s1 => .trap ⟨Cause.addrPerm, t.2.toNat⟩ s1
  | .wait w s1 => .wait w s1

/-- Checks 4 to 6 of R288 on the lanes' targets. -/
def State.checkTargets (s : State) (g : Group) (ts : List (Nat × DWord)) (pad : Option (BitVec 8)) : Chk Unit :=
  let sects := s.sectsOf g
  match ts.find? fun t => 2 ^ 51 ≤ t.2.toNat || !targetAligned sects t.2.toNat with
  | some t => .trap ⟨Cause.misalign, t.2.toNat⟩ s
  | none =>
  match ts.find? fun t => (sectOf sects t.2.toNat).isNone with
  | some t => .trap ⟨Cause.addrPerm, t.2.toNat⟩ s
  | none =>
  match pad with
  | none => .ok () s
  | some tag => (Chk.each (fun t s => s.padCheck g tag t) ts s).bind fun _ s1 => .ok () s1

/-- Lanes grouped by target, ordered by lowest lane (R289). -/
def groupTargets : Nat → List (Nat × DWord) → List (DWord × Mask)
  | 0, _ => []
  | _ + 1, [] => []
  | k + 1, (i, t) :: rest =>
    (t, ((i, t) :: rest.filter fun x => x.2 == t).foldl (fun m x => m ||| Mask.bit x.1) 0) ::
      groupTargets k (rest.filter fun x => x.2 != t)

/-- Entries that a group's stack may hold (R278). -/
def State.stackRoom (s : State) (g : Group) (n : Nat) : Bool :=
  n == 0 || decide (g.curStack.length + n ≤ g.stackCap (((s.launchOf g).map fun l => l.hdr.d).getD 0))

/-- The trap of a push that finds no room (R278). -/
def Group.stackTrap (g : Group) : Trap := ⟨Cause.divStack, g.curStack.length⟩

/-- The transfer of a slot's lanes to their targets (R289); `join` is the return PC of a CALLI. -/
def Group.spread (g : Group) (slot : SlotId) (p : Path) (sets : List (DWord × Mask)) (join : Option DWord) : Group :=
  match sets with
  | [] => g
  | [(t, _)] => g.setSlot slot (some { p with pc := t, slice := none })
  | (t, m) :: rest =>
    let r := join.getD p.rpc
    let pushes := (match join with | some j => [⟨.join, j, p.mask, p.rpc⟩] | none => []) ++
      rest.reverse.map fun x => (⟨.parked, x.1, x.2, r⟩ : DivEntry)
    (g.setStack (g.curStack ++ pushes)).setSlot slot (some (Path.mk' t m r))

/-- Entries that R289 pushes. -/
def pushCount (sets : List (DWord × Mask)) (join : Bool) : Nat :=
  if sets.length ≤ 1 then 0 else sets.length - 1 + (if join then 1 else 0)

/-- A pair's value in each active lane, as targets (R293, R296). -/
def Group.pairTargets (g : Group) (act : Mask) (vp : BitVec 6) : List (Nat × DWord) := act.lanes.map fun i => (i, g.rd2 vp i)

/-- The first active lane in which some of n registers from r upward is poisoned (R143). -/
def Group.poisonLane (g : Group) (act : Mask) (r : BitVec 6) (n : Nat) : Option Nat := act.lanes.find? fun i => g.badN r n i

/-- Lane values with their marks as the value list of a write. -/
def laneMarked (vs : List (Nat × Word × Bool)) : List (Word × Bool) :=
  (List.range 64).map fun i => ((vs.find? fun x => x.1 == i).map Prod.snd).getD (0, false)
/-- Lane values as the value list of a write. -/
def laneList (vs : List (Nat × Word)) : List (Word × Bool) := laneMarked (vs.map fun x => (x.1, x.2, false))

/-- The writes of the frame and stack offsets (v62 and v63). -/
def fpSpWrites (vs : List (Nat × Nat × Nat)) : List Write :=
  [.lanes 62 (laneList (vs.map fun x => (x.1, BitVec.ofNat 32 x.2.1))),
   .lanes 63 (laneList (vs.map fun x => (x.1, BitVec.ofNat 32 x.2.2)))]

/-- Register writes, then what follows them; a regeneration that must wait or traps ends the instruction (R161). -/
def Ctx.writeThen (c : Ctx) (i : Instr) (s : State) (act : Mask) (ws : List Write) (k : State → Res) : Res :=
  match s.writeRegs c.n act false ws with
  | .ok s1 _ => k s1
  | .trap t s1 => .trap t s1
  | .wait s1 w r => c.waitRegen i s1 w r

end Sys2Proof.Machine
end

