-- ==== Sys2Proof/Machine/Control.lean ====
section
/-! DEFINITION. The meanings of the control-flow and synchronisation instructions (R287 to R303): BRA, JMP, CALL, CALLI, JMPI, RET, PAD,
RJOIN, EXIT, BAR, WAIT and LOOP. -/

namespace Sys2Proof.Machine

/-! ### Exit (R279, R300) -/

/-- The trap of a pending matrix fault, delivered at trap level 0 (R236). -/
def Group.mxTrap (g : Group) : Option Trap :=
  match g.mxFault with
  | some f => if g.trap.level then none else some f.trap
  | none => none

/-- The 16 bytes of a barrier at a local address (R99). -/
def Team.barrier (t : Team) (la : Nat) : Nat := (t.readLocal la 16).1
/-- Bytes still expected (R99). -/
def barCount (b : Nat) : Nat := b % 2 ^ 64
/-- FAULT (R99). -/
def barFault (b : Nat) : Bool := b / 2 ^ 64 % 2 == 1
/-- The reason code of the first fault (R99). -/
def barReason (b : Nat) : Nat := b / 2 ^ 72 % 256
/-- The trap of a barrier that shows FAULT (R102, R105). -/
def barTrap (la b : Nat) : Trap := ⟨Cause.engineFault, barReason b + la % 2 ^ 24 * 2 ^ 32⟩

/-- Lanes end, with the tests that an EXIT makes (R279, R298, R300); the group retires with its last lane (R281). A husk that the group
still holds is purged (R367, R369). The TRET of a PAGE_FATAL handler ends them with their node faulted, and what faults its work has raised goes into the Sheaf's log (R64).
Lanes leave the issuing slot's mask (R279). -/
def State.endLanes (s : State) (n : Nat) (slot : SlotId) (lanes : Mask) : State :=
  match s.group n with
  | none => s
  | some g =>
    let g1 := { g with exited := g.exited ||| lanes }
    let dead := fun (p : Option Path) => p.bind fun (q : Path) => if g1.active q == (0 : Mask) then none else some { q with mask := q.mask &&& ~~~lanes }
    let g2 := (g1.setSlot slot (dead (g1.slot slot))).joinsTest
    let s1 := s.setGroup n g2
    if g2.alive == 0 then
      if g.trap.level && g.trap.df then State.endGroup { s1 with sheafLog := s1.sheafLog ++ g.faultNotes } n g.trap.cause.toNat
      else (if g.husk.isSome then s1.purge g.key else s1).retire n
    else s1.barriersTest g2.team

/-- The holds and traps of an EXIT of a group's last lane (R61, R114, R236, R251): none lets it go on. -/
inductive ExitFate
  | go
  | hold
  | engine (t : Trap)
  | matrix (t : Trap)
  deriving DecidableEq, Repr

/-- Which of them meets group n. -/
def State.exitFate (s : State) (n : Nat) (g : Group) : ExitFate :=
  if !g.log.isEmpty || !g.remote.isEmpty || s.copies.any fun r => r.group == n then .hold
  else
    let faulted := (s.teamOf g).bind fun t => (g.copyFaults.find? fun la => barFault (t.barrier la)).map fun la =>
      barTrap la (t.barrier la)
    match faulted, g.mxTrap with
    | some t, _ => .engine t
    | none, some t => .matrix t
    | none, none => if g.mx.isEmpty then .go else .hold

/-- Lanes of the issuing slot end, and the last lane waits for its holds (R300); then what follows. -/
def Ctx.endLanes (c : Ctx) (s : State) (lanes : Mask) (k : State → Res) : Res :=
  if lanes == 0 then k s
  else if (c.g.alive &&& ~~~lanes) == 0 then
    match s.exitFate c.n c.g with
    | .hold => .hold s
    | .engine t => .trap t s
    | .matrix t => .trap t s
    | .go => k (s.endLanes c.n c.slot lanes)
  else k (s.endLanes c.n c.slot lanes)

/-- EXIT (R300). -/
def execExit (h : Hdr) (s : State) : Host.Outcome State Fault Refusal :=
  issue (.exit h) s fun c =>
    match c.s.exitFate c.n c.g, (c.g.alive &&& ~~~c.act) == 0 with
    | .hold, true => .hold c.s
    | .engine t, true => .trap t c.s
    | .matrix t, true => .trap t c.s
    | _, _ => .ok ((c.advance (.exit h) c.s).endLanes c.n c.slot c.act)

/-! ### Branches (R275, R290, R291) -/

/-- The state with the group's slots and stack changed. -/
def Ctx.goto (c : Ctx) (s : State) (pc : DWord) : State := c.setPath s fun p => { p with pc := pc, slice := none }

/-- BRA (R275, R290). A divergent branch that would park a path with a loop record waits (R304). -/
def execBra (h : Hdr) (p : BitVec 3) (inv : Bool) (off : BitVec 18) (rpo : BitVec 24) (s : State) :
    Host.Outcome State Fault Refusal :=
  issue (.bra h p inv off rpo) s fun c =>
    let target := packetPlus c.packet off.toInt
    let next := packetPlus c.packet 1
    let r := if rpo = 0 then c.path.rpc else packetPlus c.packet rpo.toInt
    let taking := (if inv then ~~~(c.g.pred p) else c.g.pred p) &&& c.act
    let bad := c.g.predBad p &&& c.act
    match bad.lowest with
    | some l => .trap ⟨Cause.poison, l⟩ c.s
    | none =>
      if taking == 0 then .ok (c.goto c.s next)
      else
        match c.s.checkTargets c.g [(taking.lowest.getD 0, target)] none with
        | .trap t s1 => .trap t s1
        | .wait _ s1 => .hold s1
        | .ok _ s1 =>
          if taking == c.act then .ok (c.goto s1 target)
          else
            let other := c.g.slot c.slot.other
            let pushes := (match other with | some y => [⟨.parked, y.pc, y.mask, y.rpc⟩] | none => []) ++
              [(⟨.join, r, c.path.mask, c.path.rpc⟩ : DivEntry)]
            if !s1.stackRoom c.g pushes.length then .trap c.g.stackTrap s1
            else if ((other.map fun y => y.loop.isSome).getD false) then .hold s1
            else .ok (c.setG s1 fun g =>
              ((g.setStack (g.curStack ++ pushes)).setSlot c.slot (some (Path.mk' next (c.act &&& ~~~taking) r))).setSlot
                c.slot.other (some (Path.mk' target taking r)))

/-- JMP (R291). -/
def execJmp (h : Hdr) (off : BitVec 22) (s : State) : Host.Outcome State Fault Refusal :=
  issue (.jmp h off) s fun c =>
    let target := packetPlus c.packet off.toInt
    (c.s.checkTargets c.g [(c.low, target)] none).res c (.jmp h off) fun _ s1 => .ok (c.goto s1 target)

/-! ### Calls and returns (R292 to R296) -/

/-- The stack checks of CALL for one lane: alignment, the window, and a15's permissions (R292). -/
def State.callCheck (s : State) (g : Group) (n : Nat) (i : Nat) : Chk Unit :=
  let sp := (g.rd 63 i).toNat
  (Chk.test (sp % 16 == 0) ⟨Cause.misalign, sp⟩ s).bind fun _ s1 =>
  (Chk.test (s1.inWindow g i sp n) ⟨Cause.stackLimit, sp⟩ s1).bind fun _ s2 =>
  Chk.test g.stackW ⟨Cause.addrPerm, sp⟩ s2

/-- The frame that a call or a MARK pushes for one lane (R292, R384). -/
def pushedFrame (g : Group) (retpc : DWord) (tag flags i : Nat) : Nat × Nat × Frame :=
  (i, (g.rd 63 i).toNat, ⟨retpc, (g.rd 63 i - g.rd 62 i).toNat, 0, tag, flags, g.bad 62 i⟩)

/-- The new frame and stack offsets after a push of a frame of n bytes. -/
def pushedOffsets (g : Group) (n : Nat) (lanes : List Nat) : List (Nat × Nat × Nat) :=
  lanes.map fun i => (i, (g.rd 63 i).toNat, (g.rd 63 i).toNat + n)

/-- The first active lane with a poisoned register of a list traps POISON (R143). -/
def Ctx.clean (c : Ctx) (view : Group) (rs : List (BitVec 6)) (s : State) (k : Res) : Res :=
  match c.act.lanes.find? fun i => rs.any fun r => view.bad r i with
  | some l => .trap ⟨Cause.poison, l⟩ s
  | none => k

/-- CALL and CALLI (R292, R293), their targets read from the operands as formed: the stack offset of every active lane, an address, must be free of poison, and so must the
registers that give a target (R143). -/
def Ctx.call (c : Ctx) (i : Instr) (fs : BitVec 6) (pad : Option (BitVec 8)) (from_ : List (BitVec 6)) (targets : Group → List (Nat × DWord)) : Res :=
  c.withForm i fun s view => c.clean view (63 :: from_) s <|
    let n := 16 * fs.toNat
    let lanes := c.act.lanes
    let ret := packetPlus c.packet 1
    let ts := targets view
    let sets := groupTargets 64 ts
    ((s.checkTargets c.g ts pad).bind fun _ s1 =>
      (Chk.each (fun i s => s.callCheck view n i) lanes s1).bind fun _ s2 =>
      (Chk.test (s2.stackRoom c.g (pushCount sets pad.isSome)) c.g.stackTrap s2).bind fun _ s3 =>
      s3.writeFrames view (lanes.map (pushedFrame view ret 0 0))).res c i fun at_ s4 =>
    c.mayStore s4 at_ <| c.writeThen i (c.stores s4 16 at_) c.act (fpSpWrites (pushedOffsets view n lanes)) fun s5 =>
      .ok (c.setG s5 fun g => g.spread c.slot c.path sets (if pad.isSome then some ret else none))

/-- CALL (R292). -/
def execCall (h : Hdr) (off : BitVec 16) (fs : BitVec 6) (s : State) : Host.Outcome State Fault Refusal :=
  issue (.call h off fs) s fun c => c.call (.call h off fs) fs none [] fun _ => c.act.lanes.map fun i => (i, packetPlus c.packet off.toInt)

/-- CALLI (R293). -/
def execCalli (h : Hdr) (vp : BitVec 6) (tag : BitVec 8) (fs : BitVec 6) (s : State) : Host.Outcome State Fault Refusal :=
  issue (.calli h vp tag fs) s fun c => c.call (.calli h vp tag fs) fs (some tag) [vp, vp + 1] fun g => g.pairTargets c.act vp

/-- JMPI once its targets are known (R296): check 3 of R288 with a descriptor. -/
def Ctx.jmpi (c : Ctx) (i : Instr) (vp : BitVec 6) (tag : BitVec 8) (an : Option (BitVec 4)) : Res :=
  c.withForm i fun s view =>
    let ts := view.pairTargets c.act vp
    let sets := groupTargets 64 ts
    match view.poisonLane c.act vp 2 with
    | some l => .trap ⟨Cause.poison, l⟩ s
    | none =>
      let refused := match an with
        | none => none
        | some an =>
          let d := c.g.areg an
          if !d.perm.getLsbD 2 || d.perm.getLsbD 5 then some (⟨Cause.addrPerm, ((ts.head?).map fun t => t.2.toNat).getD 0⟩ : Trap)
          else (ts.find? fun t => t.2.toNat < d.base.toNat || d.base.toNat + d.length.toNat ≤ t.2.toNat).map fun t =>
            ⟨Cause.addrLimit, t.2.toNat⟩
      match refused with
      | some t => .trap t s
      | none =>
        ((s.checkTargets c.g ts (some tag)).bind fun _ s1 =>
          Chk.test (s1.stackRoom c.g (pushCount sets false)) c.g.stackTrap s1).res c i fun _ s2 =>
        .ok (c.setG s2 fun g => g.spread c.slot c.path sets none)

/-- JMPI (R296). -/
def execJmpi (h : Hdr) (vp : BitVec 6) (tag : BitVec 8) (s : State) : Host.Outcome State Fault Refusal :=
  issue (.jmpi h vp tag) s fun c => c.jmpi (.jmpi h vp tag) vp tag none

/-- JMPI through a descriptor (R296). -/
def execJmpiDesc (h : Hdr) (vp : BitVec 6) (tag : BitVec 8) (an : BitVec 4) (s : State) : Host.Outcome State Fault Refusal :=
  issue (.jmpiDesc h vp tag an) s fun c => c.jmpi (.jmpiDesc h vp tag an) vp tag (some an)

/-- What a return does with a lane: it ends, or goes to a target with new offsets; with the poison of the header read. -/
structure Returned where
  target : Option DWord
  fp : Nat
  sp : Nat
  bad : Bool
  deriving DecidableEq, Repr

/-- The return of one lane from the frame at fp, which ends at sp; a current marker is popped first (R294, R378). `bad` where a marker popped before was poisoned:
its distance has formed fp (R143). -/
def State.retLane (g : Group) (lane : Nat) : Nat → Nat → Nat → Bool → State → Chk Returned
  | 0, fp, _, _, s => .trap ⟨Cause.stackLimit, fp⟩ s
  | k + 1, fp, sp, bad, s =>
    (Chk.test (fp % 16 == 0) ⟨Cause.misalign, fp⟩ s).bind fun _ s1 =>
    (s1.readFrame g lane fp sp).bind fun f s2 =>
    (Chk.test (decide (fp + 16 ≤ sp) && (f.retpc == 0 && !f.marker || f.distOk fp)) ⟨Cause.stackLimit, fp⟩ s2).bind fun _ s3 =>
      if f.marker then State.retLane g lane k (fp - f.dist) fp (bad || f.bad) s3
      else .ok ⟨if f.retpc == 0 then none else some f.retpc, fp - f.dist, fp, bad || f.bad⟩ s3

/-- The pages of every lane's current header known (R57, R286), once all lanes' offsets are good: where some are not, all the lanes' accesses wait for them (R60). -/
def State.retReach (s : State) (g : Group) (lanes : List Nat) : Chk Unit :=
  let at_ := fun i => s.stackEA g i (g.rd 62 i).toNat
  if lanes.all fun i => (g.rd 62 i).toNat % 16 == 0 && s.inWindow g i (g.rd 62 i).toNat 16 && g.stackR && at_ i % 16 == 0 then
    match s.reach g .load (lanes.map fun i => ⟨i, at_ i, 0, 0⟩) with
    | .wait w s1 => .wait w s1
    | _ => .ok () s
  else .ok () s

/-- RET (R294, R378): every lane's frames are checked; lanes that return through their root frame end, the others go to their return PCs. -/
def execRet (h : Hdr) (s : State) : Host.Outcome State Fault Refusal :=
  issue (.ret h) s fun c => c.withForm (.ret h) fun s view =>
    let lanes := c.act.lanes
    match lanes.find? fun i => view.bad 62 i with
    | some l => .trap ⟨Cause.poison, l⟩ s
    | none =>
      ((s.retReach view lanes).bind fun _ s =>
        Chk.each (fun i s => State.retLane view i view.frameBound (view.rd 62 i).toNat (view.rd 63 i).toNat false s) lanes s).res c (.ret h) fun rs s1 =>
        let all := lanes.zip rs
        let back := all.filterMap fun x => x.2.target.map fun t => (x.1, t)
        let gone := all.foldl (fun m x => if x.2.target.isNone then m ||| Mask.bit x.1 else m) 0
        let sets := groupTargets 64 back
        match all.find? fun x => x.2.bad with
        | some x => .trap ⟨Cause.poison, x.1⟩ s1
        | none =>
          ((s1.checkTargets c.g back none).bind fun _ s2 =>
            Chk.test (s2.stackRoom c.g (pushCount sets false)) c.g.stackTrap s2).res c (.ret h) fun _ s3 =>
          let offs := all.filterMap fun x => x.2.target.map fun _ => (x.1, x.2.fp, x.2.sp)
          let act := back.foldl (fun m x => m ||| Mask.bit x.1) 0
          c.writeThen (.ret h) s3 act (if back.isEmpty then [] else fpSpWrites offs) fun s4 =>
            c.endLanes (c.setG s4 fun g => g.spread c.slot c.path sets none) gone .ok

/-- PAD (R295): no effect. -/
def execPad (h : Hdr) (tag : BitVec 8) (s : State) : Host.Outcome State Fault Refusal :=
  issue (.pad h tag) s fun c => c.done (.pad h tag) c.s

/-! ### RJOIN, BAR, WAIT, LOOP (R297 to R303) -/

/-- RJOIN.SET (R297). -/
def execRjoinSet (h : Hdr) (j : BitVec 3) (s : State) : Host.Outcome State Fault Refusal :=
  issue (.rjoinSet h j) s fun c =>
    c.done (.rjoinSet h j) (c.setG c.s fun g => { g with j := Tbl.set 0 g.j j.toNat c.act })

/-- RJOIN.ADD (R297). -/
def execRjoinAdd (h : Hdr) (j : BitVec 3) (s : State) : Host.Outcome State Fault Refusal :=
  issue (.rjoinAdd h j) s fun c =>
    c.done (.rjoinAdd h j) (c.setG c.s fun g => { g with j := Tbl.set 0 g.j j.toNat (g.jreg j.toNat ||| c.act) })

/-- A path pushed as a HELD entry, its slot then empty (R298, R299). -/
def Ctx.held (c : Ctx) (i : Instr) (bar : Nat) : Res :=
  if !c.s.stackRoom c.g 1 then .trap c.g.stackTrap c.s
  else .ok (c.setG c.s fun g =>
    (g.setStack (g.curStack ++ [⟨.held bar false, c.pc + BitVec.ofNat 64 (4 * i.words), c.path.mask, c.path.rpc⟩])).setSlot c.slot none)

/-- The entry is held at a barrier, resumes where the arriving path does, and has its rpc (R298). -/
def joinsPath (n : Nat) (next rpc : DWord) (e : DivEntry) : Bool :=
  (match e.kind with | .held b _ => b == n | _ => false) && e.pc == next && e.rpc == rpc

/-- An arriving path completes jN (R298). -/
def Group.joinPath (g : Group) (slot : SlotId) (n : Nat) (p : Path) (next : DWord) : Group :=
  let taken := g.curStack.filter (joinsPath n next p.rpc)
  let g1 := (g.setStack (g.curStack.filter fun e => !joinsPath n next p.rpc e)).release n
  { g1 with j := Tbl.set 0 g1.j n 0 }.setSlot slot (some { p with pc := next, mask := taken.foldl (fun (m : Mask) (e : DivEntry) => m ||| e.mask) p.mask })

/-- RJOIN.WAIT (R298). -/
def execRjoinWait (h : Hdr) (j : BitVec 3) (s : State) : Host.Outcome State Fault Refusal :=
  issue (.rjoinWait h j) s fun c =>
    let i : Instr := .rjoinWait h j
    if c.g.trap.level then .trap ⟨Cause.badForm, wordInfo i⟩ c.s
    else if c.g.joinComplete j.toNat c.act then
      .ok (c.setG c.s fun g => g.joinPath c.slot j.toNat c.path (c.pc + 4))
    else c.held i j.toNat

/-- The number of a barrier level (R299). -/
def levelNum : Level → Nat
  | .core => 0
  | .quad => 1
  | .die => 2
  | .pkg => 3
  | .pod => 4

/-- The barrier's level is one that the node may wait at (R280, R325). -/
def State.barAllowed (s : State) (g : Group) (lvl : Nat) : Bool :=
  match s.teamOf g with
  | none => false
  | some t =>
    if lvl == 0 then true
    else if lvl == 4 then ((s.launch t.launch).map fun l => l.hdr.podbar != 0 && l.podNodes.contains t.node).getD false
    else ((s.nodeOf t).map fun r => decide (lvl ≤ r.gang)).getD false

/-- BAR (R280, R299). -/
def execBar (h : Hdr) (lvl : Level) (s : State) : Host.Outcome State Fault Refusal :=
  issue (.bar h lvl) s fun c =>
    if c.g.trap.level then .trap ⟨Cause.badForm, wordInfo (.bar h lvl)⟩ c.s
    else if !c.s.barAllowed c.g (levelNum lvl) then .trap ⟨Cause.launchFault, levelNum lvl⟩ c.s
    else match c.held (.bar h lvl) (8 + levelNum lvl) with
      | .ok s1 => .ok (s1.barrierTest c.g.team (8 + levelNum lvl))
      | r => r

/-- WAIT.SLEEP (R301): the slot issues again once the cycles have passed; a halt saves it at the WAIT (R341). -/
def execWaitSleep (h : Hdr) (imm : BitVec 16) (s : State) : Host.Outcome State Fault Refusal :=
  issue (.waitSleep h imm) s fun c =>
    if imm = 0 then c.done (.waitSleep h imm) c.s
    else .hold (c.setPath c.s fun p => { p with wait := some (.sleep (c.s.cycle + imm.toNat)) })

/-- WAIT.YIELD (R301): every other group that could issue is granted once before this one (Issue.lean). -/
def execWaitYield (h : Hdr) (s : State) : Host.Outcome State Fault Refusal :=
  issue (.waitYield h) s fun c => c.done (.waitYield h) (c.setG c.s fun g => { g with sched := { g.sched with yielded := some c.s.ticks } })

/-- LOOP (R302). -/
def execLoop (h : Hdr) (vc : BitVec 6) (n : BitVec 4) (s : State) : Host.Outcome State Fault Refusal :=
  issue (.loop h vc n) s fun c => c.withForm (.loop h vc n) fun s view =>
    let start := packetPlus c.packet 1
    let stop := packetPlus c.packet (n.toNat + 2)
    let inside := match sectOf (s.sectsOf c.g) c.packet with
      | some sc => decide (stop.toNat < sc.1 + sc.2)
      | none => false
    if view.bad vc c.low then .trap ⟨Cause.poison, c.low⟩ s
    else if !inside then .trap ⟨Cause.addrPerm, stop.toNat⟩ s
    else if view.rd vc c.low = 0 then .ok (c.goto s stop)
    else .ok (c.setPath s fun p => { p with pc := start, loop := some ⟨start, stop, view.rd vc c.low, [], false⟩ })

end Sys2Proof.Machine
end

