-- ==== Sys2Proof/Machine/MxNum.lean ====
section
/-! DEFINITION. The arithmetic of the matrix array (R205, R207 to R209) and the elements of its operands (R232, R240, R241). -/

namespace Sys2Proof.Machine

/-- Element types (R93, R232): 2 FP16, 3 BF16, 4 NARROW. -/
def elWidth (etype : Nat) (fmt : Word) : Nat := if etype == 4 then (NFmt.of fmt).width else 16
/-- The scale block of an element type; 0 where it is not scaled. -/
def elBlock (etype : Nat) (fmt : Word) : Nat := if etype == 4 && (NFmt.of fmt).scaled then (NFmt.of fmt).block else 0
/-- The value of an element. -/
def elVal (etype : Nat) (fmt : Word) (bits : Nat) : Val :=
  if etype == 4 then (NFmt.of fmt).decode bits else if etype == 2 then fp16.decode bits else bf16.decode bits

/-- A reservation's type and format are accepted (R232, R242). -/
def etypeOk (etype : Nat) (fmt : Word) : Bool :=
  if etype == 4 then fmtValid fmt else (etype == 2 || etype == 3) && (fmt &&& 0xFFFFE07F) == 0

/-- w bits at a bit offset from a byte (R3, R93). -/
def bitsAt (m : Mem) (at_ off w : Nat) : Nat := Mem.readN m (at_ + off / 8) 3 / 2 ^ (off % 8) % 2 ^ w
/-- Some word that those bits lie in is poisoned. -/
def bitsBad (ps : List Nat) (at_ off w : Nat) : Bool := poisonedIn ps (at_ + off / 8) ((off % 8 + w + 7) / 8)

/-- An operand element with its scale applied, and its poison (R207, R240): data bits at an offset of a row or column start, and the
scale byte. -/
def Resv.element (r : Resv) (at_ slot scaleAt : Nat) : Val × Bool :=
  let w := elWidth r.etype r.fmt
  let v := elVal r.etype r.fmt (bitsAt r.data at_ (slot * w) w)
  if elBlock r.etype r.fmt == 0 then (v, bitsBad r.poison at_ (slot * w) w)
  else (scaleBy (Mem.get r.data scaleAt).toNat v, bitsBad r.poison at_ (slot * w) w || bitsBad r.poison scaleAt 0 8)

/-- A pruned element of a sparse A is an exact zero under its block's scale (R209). -/
def prunedElement : Val := .fin false 0 0

/-- The largest floor(log2) of the nonzero terms. -/
def maxLog (ps : List Val) : Option Int :=
  ps.foldl (fun acc p => match p with
    | .fin _ m e => if m == 0 then acc else match acc with
      | none => some (magLog m e)
      | some x => some (max x (magLog m e))
    | _ => acc) none

/-- sign × floor(|p| × 2^(59 − E)) (R207). -/
def alignedTerm (E : Int) : Val → Int
  | .fin neg m e =>
    let sh := e + 59 - E
    let n : Nat := if 0 ≤ sh then m * pow2 sh else m / pow2 (-sh)
    if neg then -(n : Int) else n
  | _ => 0

/-- The sum of one block (R207), as an A56 value. -/
def blockSum (ps : List Val) : Val :=
  let pos := ps.any fun p => p == .inf false
  let neg := ps.any fun p => p == .inf true
  if ps.any Val.isNan || (pos && neg) then .nan
  else if pos then .inf false
  else if neg then .inf true
  else match maxLog ps with
    | none => .fin false 0 0
    | some E =>
      let S := (ps.map (alignedTerm E)).foldl (· + ·) 0
      if S == 0 then .fin false 0 0 else a56.decode (a56.rne (Val.ofInt S (E - 59)))

/-- An entry after a block (R207). -/
def accBlock (acc : BitVec 56) (ps : List Val) : BitVec 56 :=
  BitVec.ofNat 56 (a56.rne ((a56.decode acc.toNat).add (blockSum ps)))

/-- An entry is a NaN. -/
def accNan (e : BitVec 56) : Bool := (a56.decode e.toNat).isNan

/-- Entry (r, c) of a tile. -/
def Tile.entry (t : Tile) (r c : Nat) : BitVec 56 := Tbl.get 0 (Tbl.get [] t.rows r) c
/-- Its poison. -/
def Tile.bad (t : Tile) (r c : Nat) : Bool := (Tbl.get 0 t.poison r).getLsbD c
/-- The tile with entry (r, c) written. -/
def Tile.put (t : Tile) (r c : Nat) (v : BitVec 56) (bad : Bool) : Tile :=
  let p := Tbl.get 0 t.poison r
  let bit : BitVec 256 := BitVec.ofNat 256 (2 ^ c)
  ⟨Tbl.set [] t.rows r (Tbl.set 0 (Tbl.get [] t.rows r) c v), Tbl.set 0 t.poison r (if bad then p ||| bit else p &&& ~~~bit)⟩
/-- A tile of +0 without poison (R233). -/
def Tile.zero : Tile := ⟨[], []⟩

/-- The format that a drain rounds to (R245). -/
def accFmt : AccTy → BinFmt
  | .f32 => fp32
  | .bf16 => bf16
  | .f16 => fp16
  | .a56 => a56
/-- Bytes of an element (R247). -/
def accSize : AccTy → Nat
  | .f32 => 4
  | .bf16 | .f16 => 2
  | .a56 => 8

/-- Entries converted in ascending column; under SR the generator advances once for each (R196, R245). -/
def drainSeq (ty : AccTy) (mode : Rnd) : Word → List (BitVec 56) → List Nat × Word
  | x, [] => ([], x)
  | x, e :: es =>
    let x1 := if mode = .sr then rngNext x else x
    let v := if ty = .a56 then e.toNat else ((accFmt ty).round mode x1 false (a56.decode e.toNat)).1
    let r := drainSeq ty mode x1 es
    (v :: r.1, r.2)

/-- An element taken into A56 exactly, a NaN canonical (R246). -/
def fillEntry (ty : AccTy) (bits : Nat) : BitVec 56 :=
  BitVec.ofNat 56 (a56.rne ((accFmt ty).decode (if ty = .a56 then bits % 2 ^ 56 else bits)))

end Sys2Proof.Machine
end

