-- ==== Sys2Proof/Machine/Matrix.lean ====
section
/-! DEFINITION. The matrix array (R230 to R251): reservations and tiles, the group's queue of matrix work, its faults, the instructions, and
the events in which queued work begins and goes on. -/

namespace Sys2Proof.Machine

/-! ### What work and copy requests name -/

/-- Matrix-side storage of a group. -/
inductive MxName
  | ob (n : Nat)
  | b (n : Nat)
  | tile (t : Nat)
  deriving DecidableEq, Repr

/-- A tile's number. -/
def tileNum (t : Bool) : Nat := if t then 1 else 0

/-- The storage that a matrix instruction names (R234, R237). -/
def mxNames : Instr → List MxName
  | .obres _ _ ob _ | .obrel _ ob => [.ob ob.toNat]
  | .bres _ _ b _ | .brel _ b => [.b b.toNat]
  | .mxloop _ t ob b _ sp _ _ _ mob =>
    [.ob ob.toNat, .b b.toNat, .tile (tileNum t)] ++ (if sp = .dense then [] else [.ob mob.toNat])
  | .accz _ t | .acczFree _ t | .accrd _ _ t .. | .accwr _ _ t .. | .accst _ _ t .. | .accld _ _ t .. => [.tile (tileNum t)]
  | _ => []

/-- Bits of a copy request block (R91): n bits from bit lo. -/
def blkField (blk : BitVec 512) (lo n : Nat) : Nat := blk.toNat / 2 ^ lo % 2 ^ n

/-- The storage that one side of a copy request names (R92). -/
def sideName (kind addr : Nat) : List MxName :=
  match kind with
  | 2 => [.ob (addr / 2 ^ 56 % 8)]
  | 3 => [.b (addr / 2 ^ 56 % 4)]
  | 5 => [.tile (addr / 2 ^ 56 % 2)]
  | _ => []

/-- The storage that a copy request names on either side (R237). -/
def copyNames (blk : BitVec 512) : List MxName :=
  sideName (blkField blk 448 4) (blkField blk 0 64) ++ sideName (blkField blk 452 4) (blkField blk 64 64)

/-- Some outstanding copy request of a group names the storage. -/
def State.copyUses (s : State) (n : Nat) (x : MxName) : Bool :=
  s.copies.any fun r => r.group == n && (copyNames r.block).contains x

/-! ### Reservations and tiles (R232, R233) -/

/-- Reservation ob n. -/
def Group.obAt (g : Group) (n : Nat) : Option Resv := Tbl.get none g.ob n
/-- Reservation b n. -/
def Group.bAt (g : Group) (n : Nat) : Option Resv := Tbl.get none g.b n
/-- Tile t, if the group holds it. -/
def Group.tileAt (g : Group) (t : Nat) : Option Tile := Tbl.get none g.tiles t
/-- The group with tile t replaced. -/
def Group.setTile (g : Group) (t : Nat) (x : Option Tile) : Group := { g with tiles := Tbl.set none g.tiles t x }

/-- Ranges of units that reservations of a core's groups occupy. -/
def State.unitsUsed (s : State) (core : Nat) (f : Group → List (Option Resv)) : List (Nat × Nat) :=
  (s.resident.filter fun e => s.coreOf e.2 == core).flatMap fun e => (f e.2).filterMap fun r => r.map fun r => (r.start, r.size)

/-- The lowest free contiguous range of a size (R242). -/
def lowestFree (used : List (Nat × Nat)) (total need : Nat) : Option Nat :=
  (List.range (total + 1 - need)).find? fun k => used.all fun u => k + need ≤ u.1 || u.1 + u.2 ≤ k

/-- Another group of the core holds tile t. -/
def State.tileTaken (s : State) (n : Nat) (g : Group) (t : Nat) : Bool :=
  s.resident.any fun e => e.1 != n && s.coreOf e.2 == s.coreOf g && (e.2.tileAt t).isSome

/-! ### The queue (R234, R236) -/

/-- The source locks of an instruction taken (R148). -/
def Group.lock (g : Group) (i : Instr) : Group :=
  (vList (reads i).v).foldl (fun g r => g.setVreg r { g.vreg r with locks := (g.vreg r).locks + 1 }) g
/-- The source locks of an instruction cleared. -/
def Group.unlock (g : Group) (i : Instr) : Group :=
  (vList (reads i).v).foldl (fun g r => g.setVreg r { g.vreg r with locks := (g.vreg r).locks - 1 }) g

/-- The locks last until the instruction completes (R234), else until it begins. -/
def locksLong : Instr → Bool
  | .mxloop .. | .accwr .. | .accst .. | .accld .. => true
  | _ => false

/-- The work that may begin or go on next: work that runs ahead of frozen work, else the oldest unless the work is frozen (R249). -/
def Group.mxHead (g : Group) : Option (Nat × MxWork) :=
  match g.mx.findIdx? fun w => w.ahead with
  | some k => (g.mx[k]?).map fun w => (k, w)
  | none => if g.frozen then none else (g.mx[0]?).map fun w => (0, w)

/-- Item k of the queue replaced. -/
def Group.setMx (g : Group) (k : Nat) (w : MxWork) : Group := { g with mx := g.mx.set k w }

/-- The work at a place of the queue has completed. -/
def Group.mxDone (g : Group) (k : Nat) (w : MxWork) : Group :=
  let g1 := { g with mx := g.mx.eraseIdx k }
  if locksLong w.instr || w.ops.isNone then g1.unlock w.instr else g1

/-- The work at a place fails (R236): it and the later work are discarded, but for what a handler issued, and the first fault stays pending. -/
def Group.mxFail (g : Group) (k : Nat) (w : MxWork) (reason what : Nat) : Group :=
  let later := g.mx.drop (k + 1)
  let dropped := w :: later.filter fun x => !x.handler
  let g1 := { g with
    mx := g.mx.take k ++ later.filter MxWork.handler
    mxFault := match g.mxFault with | some f => some f | none => some ⟨reason, what, w.pc⟩ }
  dropped.foldl (fun g x => if locksLong x.instr || x.ops.isNone then g.unlock x.instr else g) g1

/-- Work that a handler runs ahead of frozen work when it issues it (R236 reason 9, R249): all but MXLOOP. -/
def runsAhead : Instr → Bool
  | .mxloop .. => false
  | _ => true

/-- Frozen work that names the storage is marked (R236 reason 9). -/
def Group.spoilMx (g : Group) (x : MxName) (what : Nat) : Group :=
  if g.frozen then { g with mx := g.mx.map fun w => if !w.ahead && (mxNames w.instr).contains x then { w with spoiled := some what } else w }
  else g

/-- A pending matrix fault delivered at a matrix instruction (R236); otherwise what the instruction does. -/
def Ctx.mxFirst (c : Ctx) (k : Res) : Res :=
  match c.g.mxTrap with
  | some t => .trap t c.s
  | none => k

/-- Matrix instructions queued on a core (R234). -/
def State.mxOnCore (s : State) (core : Nat) : Nat :=
  (s.resident.map fun e => if s.coreOf e.2 == core then e.2.mx.length else 0).foldl (· + ·) 0

/-- The address register of an ACCST or ACCLD. -/
def drainReg : Instr → Option (BitVec 4)
  | .accst _ an .. | .accld _ an .. => some an
  | _ => none

/-- A matrix instruction enters its group's queue: folded sources are materialized, source locks taken, its destination made ready. An ACCST or ACCLD takes its descriptor with it: what
a handler writes into the address register while the work lies frozen does not reach it (R249), and no other write comes before it begins (R234). -/
def Ctx.queueMx (c : Ctx) (i : Instr) : Res :=
  c.mxFirst (
    if Config.mxPerGroup ≤ c.g.mx.length || Config.mxPerCore ≤ c.s.mxOnCore (c.s.coreOf c.g) then .hold c.s
    else match c.s.materializeAll c.g (vList (reads i).v) with
      | .trap t s1 => .trap t s1
      | .wait s1 p r => c.waitRegen i s1 p r
      | .ok s1 g1 =>
        match s1.prepareWrite g1 (writes i) c.act false with
        | .trap t s2 => .trap t s2
        | .wait s2 p r => c.waitRegen i s2 p r
        | .ok s2 g2 =>
          let w : MxWork := ⟨i, c.pc, c.act, none, ((drainReg i).map g2.areg).getD Desc.null, 0, 0, g2.frozen && runsAhead i, none, none, g2.trap.level⟩
          let g3 := g2.lock i
          c.done i (s2.setGroup c.n { g3 with mx := g3.mx ++ [w] }))

/-- The lane that supplies register operands (R234). -/
def MxWork.lane (w : MxWork) : Nat := w.mask.lowest.getD 0

/-- Destinations of matrix work written in every active lane at once (R245). -/
def Group.mxWrite (g : Group) (w : MxWork) (ws : List Write) : Group :=
  ws.foldl (fun g x => g.apply w.mask ((w.mask &&& g.all) == g.all) x) (g.dropRecipes (writes w.instr))

/-! ### Operand checks of MXLOOP (R239 to R241) -/

/-- The descriptor quad (R239). -/
structure MxDesc where
  aoff : Nat
  apitch : Nat
  asoff : Nat
  boff : Nat
  bsoff : Nat
  ainc : Nat
  binc : Nat
  deriving DecidableEq, Repr

/-- The quad's fields; none where a reserved bit is nonzero. -/
def MxDesc.of (q : List Word) : Option MxDesc :=
  let w := fun k => (Tbl.get 0 q k).toNat
  if w 0 / 2 ^ 19 != 0 || w 2 / 2 ^ 30 != 0 || w 2 / 2 ^ 14 % 4 != 0 || w 3 / 2 ^ 30 != 0 then none
  else some ⟨w 0, w 1 % 65536, w 1 / 65536, w 2 % 16384, w 2 / 65536 % 16384, w 3 % 65536, w 3 / 65536 % 16384⟩

/-- Stored elements of each 16 K positions of A (R241). -/
def sparseN : Sparsity → Nat
  | .dense => 16
  | .s8 => 8
  | .s4 => 4

/-- Positions of a summation block (R207). -/
def sumBlock (a b : Resv) : Nat := if elBlock a.etype a.fmt == 16 || elBlock b.etype b.fmt == 16 then 16 else 32

/-- Bytes that n elements of a reservation take. -/
def dataBytes (r : Resv) (n : Nat) : Nat := (n * elWidth r.etype r.fmt + 7) / 8
/-- Bytes from a row or column start that kc positions reach, with their scale bytes: `n` stored elements. -/
def reachBytes (r : Resv) (soff kc n : Nat) : Nat :=
  Nat.max (dataBytes r n) (if elBlock r.etype r.fmt == 0 then 0 else soff + kc / elBlock r.etype r.fmt)

/-- The conditions of R239 and R241 on the counts and the ranges read. -/
def mxloopOk (d : MxDesc) (a b : Resv) (meta_ : Option Resv) (sp : Sparsity) (kc n : Nat) : Bool :=
  let ba := elBlock a.etype a.fmt
  let bb := elBlock b.etype b.fmt
  let stored := kc * sparseN sp / 16
  (sp == .dense || kc % 16 == 0) && (ba == 0 || kc % ba == 0) && (bb == 0 || kc % bb == 0) &&
    (n ≤ 1 || kc % sumBlock a b == 0) &&
    decide (d.aoff + (n - 1) * d.ainc + 127 * d.apitch + reachBytes a d.asoff kc stored ≤ a.size * 4096) &&
    decide (d.boff + (n - 1) * d.binc + reachBytes b d.bsoff kc kc ≤ b.size * 256) &&
    (match meta_ with
      | none => true
      | some m => decide (128 * (n * kc * sparseN sp / 32) ≤ m.size * 4096))

/-! ### Blocks (R240, R241) -/

/-- The metadata indices of global group G in row r (R241), with their poison. -/
def metaIdx (m : Resv) (mp nn r grp : Nat) : List Nat × Bool :=
  let at_ := r * mp + grp * nn / 2
  ((List.range nn).map fun j => bitsAt m.data at_ (4 * j) 4, poisonedIn m.poison at_ (nn / 2))

/-- Strictly ascending. -/
def ascending : List Nat → Bool
  | x :: y :: rest => decide (x < y) && ascending (y :: rest)
  | _ => true

/-- What a block of an MXLOOP reads: the reservations, the descriptor, the place of the loop. -/
structure MxPlace where
  d : MxDesc
  a : Resv
  b : Resv
  meta_ : Option Resv
  sp : Sparsity
  kc : Nat
  n : Nat
  it : Nat
  k : Nat
  len : Nat
  deriving DecidableEq, Repr

/-- A(r, k) with its scale and poison: a stored element, or a pruned position (R240, R241). -/
def MxPlace.aElem (p : MxPlace) (r k : Nat) : Val × Bool :=
  let row := p.d.aoff + p.it * p.d.ainc + r * p.d.apitch
  let scaleAt := row + p.d.asoff + k / Nat.max 1 (elBlock p.a.etype p.a.fmt)
  match p.meta_ with
  | none => p.a.element row k scaleAt
  | some m =>
    let nn := sparseN p.sp
    let idx := metaIdx m (p.n * p.kc * nn / 32) nn r ((p.it * p.kc + k) / 16)
    match idx.1.findIdx? fun x => x == k % 16 with
    | some j => let e := p.a.element row (k / 16 * nn + j) scaleAt; (e.1, e.2 || idx.2)
    | none => (prunedElement, idx.2)

/-- B(k, c) with its scale and poison (R240). -/
def MxPlace.bElem (p : MxPlace) (k c : Nat) : Val × Bool :=
  let col := c * 16384 + p.d.boff + p.it * p.d.binc
  p.b.element col k (col + p.d.bsoff + k / Nat.max 1 (elBlock p.b.etype p.b.fmt))

/-- Every metadata group of the block is strictly ascending (R241). -/
def MxPlace.metaOk (p : MxPlace) : Bool :=
  match p.meta_ with
  | none => true
  | some m =>
    let nn := sparseN p.sp
    (List.range 128).all fun r => (List.range ((p.len + 15) / 16)).all fun q =>
      ascending (metaIdx m (p.n * p.kc * nn / 32) nn r ((p.it * p.kc + p.k) / 16 + q)).1

/-- Entry (r, c) after the block, with its poison (R207, R142). -/
def MxPlace.entry (p : MxPlace) (t : Tile) (r c : Nat) : BitVec 56 × Bool :=
  let ks := (List.range p.len).map fun j => p.k + j
  let ps := ks.map fun k => (p.aElem r k).1.mul (p.bElem k c).1
  (accBlock (t.entry r c) ps, t.bad r c || ks.any fun k => (p.aElem r k).2 || (p.bElem k c).2)

/-- The tile after the block, and the NaNs produced (R208): the entries that are NaN after the block and were not before it. What R208's "before" and "operation" mean for an MXLOOP
the spec does not say (DESIGN CHOICE, log entry 73): the model counts block by block, against the tile as z has zeroed it, whatever a later block makes of the entry. -/
def MxPlace.run (p : MxPlace) (t : Tile) : Tile × Nat :=
  let rows := (List.range 128).map fun r => (List.range 256).map fun c => p.entry t r c
  let nans := ((List.range 128).map fun r => ((List.range 256).filter fun c =>
    let e := Tbl.get (0, false) (Tbl.get [] rows r) c
    !e.2 && accNan e.1 && !accNan (t.entry r c)).length).foldl (· + ·) 0
  (⟨rows.map fun row => row.map Prod.fst,
    rows.map fun row => BitVec.ofNat 256 ((List.range 256).foldl (fun acc c =>
      if (Tbl.get (0, false) row c).2 then acc + 2 ^ c else acc) 0)⟩, nans)

/-! ### Work begins (R234, R238 to R247) -/

/-- The registers that matrix work reads in the supplying lane, in ascending order, or the mark of a poisoned one (R236). -/
def Group.mxOperands (g : Group) (w : MxWork) : List Word × Bool :=
  let rs := vList (reads w.instr).v
  (rs.map fun r => (g.rdp r w.lane).1, rs.any fun r => (g.rdp r w.lane).2)

/-- Register r as the supplying lane holds it. -/
def Group.mxReg (g : Group) (w : MxWork) (r : BitVec 6) : Word := g.rd r w.lane

/-- OBRES and BRES (R242). -/
def State.beginRes (s : State) (n : Nat) (g : Group) (k : Nat) (w : MxWork) (isOb : Bool) (slot : Nat) (vd vp : BitVec 6) : State :=
  let w0 := g.mxReg w vp
  let fmt := g.mxReg w (vp + 1)
  let etype := w0.toNat / 256 % 16
  let lim := if isOb then 128 else 64
  let cur := if isOb then g.obAt slot else g.bAt slot
  if cur.isSome then s.setGroup n (g.mxFail k w 1 slot)
  else if !etypeOk etype fmt then s.setGroup n (g.mxFail k w 2 slot)
  else if w0.toNat / 4096 != 0 || w0.toNat % 256 / lim != 0 then s.setGroup n (g.mxFail k w 3 slot)
  else
    let size := w0.toNat % lim + 1
    let used := s.unitsUsed (s.coreOf g) (fun g => if isOb then g.ob else g.b)
    let g1 := g.mxDone k w
    let done := fun (g : Group) (x : Word) => s.setGroup n (g.mxWrite w [.uniform vd.toNat x false])
    match lowestFree used (if isOb then Config.obUnits else Config.bUnits) size with
    | none => done g1 0
    | some start =>
      let r : Resv := ⟨size, etype, fmt, start, [], []⟩
      let g2 := if isOb then { g1 with ob := Tbl.set none g1.ob slot (some r) } else { g1 with b := Tbl.set none g1.b slot (some r) }
      done (g2.spoilMx (if isOb then .ob slot else .b slot) slot) 1

/-- OBREL and BREL (R243, R237 rule 3). -/
def State.beginRel (s : State) (n : Nat) (g : Group) (k : Nat) (w : MxWork) (isOb : Bool) (slot : Nat) : State :=
  let name : MxName := if isOb then .ob slot else .b slot
  if (if isOb then g.obAt slot else g.bAt slot).isNone then s.setGroup n (g.mxFail k w 1 slot)
  else if s.copyUses n name then s
  else
    let g1 := (g.mxDone k w).spoilMx name slot
    s.setGroup n (if isOb then { g1 with ob := Tbl.set none g1.ob slot none } else { g1 with b := Tbl.set none g1.b slot none })

/-- ACCZ's claim (R244): it waits while another group holds the tile. -/
def State.beginClaim (s : State) (n : Nat) (g : Group) (k : Nat) (w : MxWork) (t : Nat) : State :=
  if s.tileTaken n g t then s.setGroup n (g.setMx k { w with ops := some [] })
  else s.setGroup n ((g.mxDone k w).setTile t (some Tile.zero))

/-- ACCZ.FREE (R244, R237 rule 3). -/
def State.beginFree (s : State) (n : Nat) (g : Group) (k : Nat) (w : MxWork) (t : Nat) : State :=
  if (g.tileAt t).isNone then s.setGroup n (g.mxFail k w 1 t)
  else if s.copyUses n (.tile t) then s
  else s.setGroup n (((g.mxDone k w).spoilMx (.tile t) t).setTile t none)

/-- Columns that one lane of an ACCRD or ACCWR takes (R245). -/
def perLane : AccTy → Nat
  | .bf16 | .f16 => 2
  | _ => 1

/-- The row and the first column that va names; none where a reserved bit is set or the columns pass the end (R245). -/
def rowCol (va : Word) (cols : Nat) : Option (Nat × Nat) :=
  let n := va.toNat
  if n / 65536 != 0 || n / 128 % 2 != 0 || 256 < n / 256 % 256 + cols then none else some (n % 128, n / 256 % 256)

/-- ACCRD (R245). -/
def State.beginAccrd (s : State) (n : Nat) (g : Group) (k : Nat) (w : MxWork) (vd : BitVec 6) (t : Nat) (ty : AccTy) (rnd : Rnd)
    (va : BitVec 6) : State :=
  match g.tileAt t, rowCol (g.mxReg w va) (perLane ty * g.w) with
  | none, _ => s.setGroup n (g.mxFail k w 1 t)
  | some _, none => s.setGroup n (g.mxFail k w 3 t)
  | some tile, some (row, c0) =>
    let cols := (List.range (perLane ty * g.w)).map fun j => c0 + j
    let r := drainSeq ty rnd (g.rng w.lane) (cols.map fun c => tile.entry row c)
    let v := fun i => Tbl.get 0 r.1 i
    let bad := fun i => tile.bad row (c0 + i)
    let ws : List Write := match ty with
      | .f32 => [.lanes vd.toNat ((List.range g.w).map fun i => (BitVec.ofNat 32 (v i), bad i))]
      | .a56 =>
        [.lanes vd.toNat ((List.range g.w).map fun i => (BitVec.ofNat 32 (v i), bad i)),
         .lanes (vd.toNat + 1) ((List.range g.w).map fun i => (BitVec.ofNat 32 (v i / 2 ^ 32), bad i))]
      | _ => [.lanes vd.toNat ((List.range g.w).map fun i =>
          (BitVec.ofNat 32 (v (2 * i) + v (2 * i + 1) * 65536), bad (2 * i) || bad (2 * i + 1)))]
    s.setGroup n ((g.mxDone k w).mxWrite w (ws ++ if rnd = .sr then [.rngs [(w.lane, r.2)]] else []))

/-- The element that a column of an ACCWR receives: the lane that supplies it and its bits (R246). -/
def wrElement (g : Group) (vs : BitVec 6) (ty : AccTy) (j : Nat) : Nat × Nat :=
  match ty with
  | .f32 => (j, (g.rd vs j).toNat)
  | .a56 => (j, (g.rd2 vs j).toNat)
  | _ => (j / 2, (g.rd vs (j / 2)).toNat / (if j % 2 == 1 then 65536 else 1) % 65536)

/-- ACCWR (R246). -/
def State.beginAccwr (s : State) (n : Nat) (g : Group) (k : Nat) (w : MxWork) (vs : BitVec 6) (t : Nat) (ty : AccTy) (add : Bool)
    (va : BitVec 6) : State :=
  let regs := if ty = .a56 then 2 else 1
  if w.mask.lanes.any fun i => g.badN vs regs i then s.setGroup n (g.mxFail k w 0 0)
  else match g.tileAt t, rowCol (g.mxReg w va) (perLane ty * g.w) with
  | none, _ => s.setGroup n (g.mxFail k w 1 t)
  | some _, none => s.setGroup n (g.mxFail k w 3 t)
  | some tile, some (row, c0) =>
    let tile1 := (List.range (perLane ty * g.w)).foldl (fun (tl : Tile) j =>
      let e := wrElement g vs ty j
      if !w.mask.getLsbD e.1 then tl
      else
        let x := fillEntry ty e.2
        if add then tl.put row (c0 + j) (BitVec.ofNat 56 (a56.rne ((a56.decode (tl.entry row (c0 + j)).toNat).add (a56.decode x.toNat))))
          (tl.bad row (c0 + j))
        else tl.put row (c0 + j) x false) tile
    s.setGroup n ((g.mxDone k w).setTile t (some tile1))

/-- The rows of an ACCST or ACCLD: first row, rows, pitch; none where a reserved bit is set or the rows pass the end (R247). -/
def rowRange (w0 w1 : Word) : Option (Nat × Nat × Nat) :=
  let n := w0.toNat
  let row0 := n % 128
  let rows := n / 256 % 128 + 1
  if n / 32768 != 0 || n / 128 % 2 != 0 || 128 < row0 + rows then none else some (row0, rows, w1.toNat)

/-- The address of row j of an ACCST or ACCLD. -/
def rowAddr (d : Desc) (pitch j : Nat) : Int := (d.pointer.toNat : Int) + ((j * pitch : Nat) : Int)

/-- The checks of an ACCST or ACCLD when it begins (R247): its reason and what it names, or none. -/
def State.drainCheck (s : State) (g : Group) (d : Desc) (t : Nat) (rows pitch bytes : Nat) (store : Bool) : Option (Nat × Nat) :=
  let op : MemOp := if store then .store 16 else .load 16
  let js := List.range rows
  if !op.permitted d.perm then some (5, t)
  else if js.any fun j => !inBounds d (s.wsOf g) 0 bytes (rowAddr d pitch j) || (rowAddr d pitch j).toNat % 16 != 0 then some (6, t)
  else if store && js.any fun j => s.refusedStore g d (rowAddr d pitch j).toNat bytes then some (5, t)
  else none

/-- ACCST and ACCLD begin (R247); their rows follow one by one. -/
def State.beginDrain (s : State) (n : Nat) (g : Group) (k : Nat) (w : MxWork) (t : Nat) (ty : AccTy) (va : BitVec 6)
    (store : Bool) : State :=
  match g.tileAt t, rowRange (g.mxReg w va) (g.mxReg w (va + 1)) with
  | none, _ => s.setGroup n (g.mxFail k w 1 t)
  | some _, none => s.setGroup n (g.mxFail k w 3 t)
  | some _, some (_, rows, pitch) =>
    match s.drainCheck g w.desc t rows pitch (256 * accSize ty) store with
    | some (reason, what) => s.setGroup n (g.mxFail k w reason what)
    | none => s.setGroup n (g.setMx k { w with ops := some [g.mxReg w va, g.mxReg w (va + 1)] })

/-- MXLOOP begins (R238, R239). -/
def State.beginLoop (s : State) (n : Nat) (g : Group) (k : Nat) (w : MxWork) (t ob b : Nat) (vq : BitVec 6) (sp : Sparsity)
    (z : Bool) (kc it mob : Nat) : State :=
  let quad := [g.mxReg w vq, g.mxReg w (vq + 1), g.mxReg w (vq + 2), g.mxReg w (vq + 3)]
  let fail := fun reason what => s.setGroup n (g.mxFail k w reason what)
  match g.obAt ob, g.bAt b, g.tileAt t with
  | none, _, _ => fail 1 ob
  | _, none, _ => fail 1 b
  | _, _, none => fail 1 t
  | some ra, some rb, some _ =>
    if sp != .dense && mob == ob then fail 3 t
    else if sp != .dense && (g.obAt mob).isNone then fail 1 mob
    else if !etypeOk ra.etype ra.fmt then fail 2 ob
    else if !etypeOk rb.etype rb.fmt then fail 2 b
    else match MxDesc.of quad with
      | none => fail 3 t
      | some d =>
        if !mxloopOk d ra rb (if sp == .dense then none else g.obAt mob) sp kc it then fail 3 t
        else
          let g1 := g.setMx k { w with ops := some quad }
          s.setGroup n (if z then g1.setTile t (some Tile.zero) else g1)

/-- The head of the group's matrix work is an MXLOOP. -/
def Group.atLoop (g : Group) : Bool := match g.mxHead with | some (_, w) => (match w.instr with | .mxloop .. => true | _ => false) | none => false

/-- The matrix array of its core executes the group's MXLOOP now (R235): of the groups whose heads are MXLOOPs, the one that came first. -/
def State.arrayTurn (s : State) (n : Nat) (g : Group) : Bool :=
  ((s.core (s.coreOf g)).array.find? fun k => ((s.group k).map Group.atLoop).getD false) == some n

/-- A core's row of groups for its array: a group whose head has become an MXLOOP goes to the end, one whose head is none leaves (R235). -/
def State.arrayLine (s : State) (n : Nat) (g : Group) : State :=
  let core := s.coreOf g
  let c := s.core core
  if g.atLoop == c.array.contains n then s
  else { s with cores := Tbl.set CoreSt.reset s.cores core { c with array := if g.atLoop then c.array ++ [n] else delNat c.array n } }

/-- The work at the head of a group's queue begins (R234): its operands are read, a poisoned one is a fault, and work that needs no time of its own
completes. -/
def State.mxBegin (s : State) (n : Nat) : State :=
  match s.group n with
  | none => s
  | some g =>
    match g.mxHead with
    | none => s
    | some (k, w) =>
      if w.ops.isSome then s
      else match w.spoiled with
        | some what => s.setGroup n (g.mxFail k w 9 what)
        | none =>
          if (g.mxOperands w).2 then s.setGroup n (g.mxFail k w 0 0)
          else match w.instr with
            | .obres _ vd ob vp => s.beginRes n g k w true ob.toNat vd vp
            | .bres _ vd b vp => s.beginRes n g k w false b.toNat vd vp
            | .obrel _ ob => s.beginRel n g k w true ob.toNat
            | .brel _ b => s.beginRel n g k w false b.toNat
            | .accz _ t => s.beginClaim n g k w (tileNum t)
            | .acczFree _ t => s.beginFree n g k w (tileNum t)
            | .accrd _ vd t ty rnd va => s.beginAccrd n g k w vd (tileNum t) ty rnd va
            | .accwr _ vs t ty add va => s.beginAccwr n g k w vs (tileNum t) ty add va
            | .accst _ _ t ty _ va => if g.quiet then s.beginDrain n g k w (tileNum t) ty va true else s
            | .accld _ _ t ty va => if g.quiet then s.beginDrain n g k w (tileNum t) ty va false else s
            | .mxloop _ t ob b vq sp z kc it mob =>
              if s.arrayTurn n g then s.beginLoop n g k w (tileNum t) ob.toNat b.toNat vq sp z kc.toNat it.toNat mob.toNat else s
            | _ => s.setGroup n (g.mxDone k w)

/-! ### Work goes on -/

/-- One block of an MXLOOP (R240). -/
def State.loopBlock (s : State) (n : Nat) (g : Group) (k : Nat) (w : MxWork) (t ob b : Nat) (sp : Sparsity) (kc it mob : Nat)
    (quad : List Word) : State :=
  match g.obAt ob, g.bAt b, g.tileAt t, MxDesc.of quad with
  | some ra, some rb, some tile, some d =>
    let len := Nat.min (sumBlock ra rb) (kc - w.k)
    let p : MxPlace := ⟨d, ra, rb, if sp == .dense then none else g.obAt mob, sp, kc, it, w.it, w.k, len⟩
    if !p.metaOk then s.setGroup n (g.mxFail k w 4 mob)
    else
      let r := p.run tile
      let g1 := g.setTile t (some r.1)
      let ends := decide (kc ≤ w.k + len)
      let it' := if ends then w.it + 1 else w.it
      let g2 := if it' == it then g1.mxDone k w else g1.setMx k { w with it := it', k := if ends then 0 else w.k + len }
      (s.setGroup n g2).count g2 (List.replicate r.2 (3 * (ra.fmt.toNat / 128 % 64) + 2))
  | _, _, _, _ => s.setGroup n (g.mxFail k w 1 t)

/-- The address of the first access to one of the pages that are missing. -/
def missedAt (accs : List LaneAcc) (pages : List Nat) : Nat :=
  ((accs.find? fun a => pages.contains (a.ea / 65536)).map LaneAcc.ea).getD (pages.headD 0 * 65536)

/-- The element accesses of one tile row (R247): column c of the row stands as the lane. -/
def rowAccs (at_ size : Nat) (data : Nat → Nat × Bool) : List LaneAcc :=
  (List.range 256).map fun c => ⟨c, at_ + c * size, BitVec.ofNat 128 (data c).1, markOf (data c).2⟩

/-- One row of an ACCST or ACCLD (R247), at the addresses of the descriptor that it began with. -/
def State.drainRow (s : State) (n : Nat) (g : Group) (k : Nat) (w : MxWork) (t : Nat) (ty : AccTy) (rnd : Rnd)
    (store : Bool) (ops : List Word) : State :=
  match g.tileAt t, rowRange (Tbl.get 0 ops 0) (Tbl.get 0 ops 1) with
  | some tile, some (row0, rows, pitch) =>
    let row := row0 + w.k
    let size := accSize ty
    let dr := drainSeq ty rnd (g.rng w.lane) ((List.range 256).map fun c => tile.entry row c)
    let accs := rowAccs (rowAddr w.desc pitch w.k).toNat size fun c =>
      if store then (Tbl.get 0 dr.1 c, tile.bad row c) else (0, false)
    match s.resolve (s.coreOf g) (s.asidOf g) (if store then .store else .load) accs with
    | .refused _ s1 => s1.setGroup n (g.mxFail k w 5 t)
    | .poison _ s1 => s1.setGroup n (g.mxFail k w 8 t)
    | .wait s1 pages => s1.setGroup n (g.setMx k { w with waitPage := some (missedAt accs pages) })
    | .ok s1 at_ =>
      if at_.any fun a => !s1.isLocal a.2 then s1.setGroup n (g.mxFail k w 8 t)
      else
        let r := s1.performList n false (if store then .store size else .load size) at_
        let g1 := if store then (if rnd = .sr then g.apply w.mask false (.rngs [(w.lane, dr.2)]) else g)
          else g.setTile t (some (r.2.foldl (fun tl x => tl.put row x.1 (fillEntry ty x.2.1.toNat) (x.2.2 != 0)) tile))
        r.1.setGroup n (if w.k + 1 == rows then g1.mxDone k w else g1.setMx k { w with k := w.k + 1, waitPage := none })
  | _, _ => s.setGroup n (g.mxFail k w 1 t)

/-- The work at the head of a group's queue goes on by one block or one row (R240, R247). -/
def State.mxStep (s : State) (n : Nat) : State :=
  match s.group n with
  | none => s
  | some g =>
    match g.mxHead with
    | none => s
    | some (k, w) =>
      match w.ops, w.spoiled with
      | none, _ => s
      | some _, some what => s.setGroup n (g.mxFail k w 9 what)
      | some ops, none =>
        match w.instr with
        | .mxloop _ t ob b _ sp _ kc it mob =>
          if s.arrayTurn n g then s.loopBlock n g k w (tileNum t) ob.toNat b.toNat sp kc.toNat it.toNat mob.toNat ops else s
        | .accst _ _ t ty rnd _ => s.drainRow n g k w (tileNum t) ty rnd true ops
        | .accld _ _ t ty _ => s.drainRow n g k w (tileNum t) ty .rne false ops
        | _ => s

/-- A waiting claim completes once no other group holds the tile (R244). -/
def State.mxClaim (s : State) (n : Nat) : State :=
  match s.group n with
  | none => s
  | some g =>
    match g.mxHead with
    | some (k, w) =>
      (match w.instr, w.ops with
      | .accz _ t, some _ =>
        if s.tileTaken n g (tileNum t) then s else s.setGroup n ((g.mxDone k { w with ops := none }).setTile (tileNum t) (some Tile.zero))
      | _, _ => s)
    | none => s

/-- The matrix work that an MXWAIT waits for: while frozen, only what runs ahead (R248). -/
def Group.mxAwaited (g : Group) : Bool := if g.frozen then g.mx.any MxWork.ahead else !g.mx.isEmpty

/-- The group's matrix work thaws (R249). -/
def Group.thaw (g : Group) : Group := { g with frozen := false }

/-! ### The instructions -/

/-- OBRES (R242). -/
def execObres (h : Hdr) (vd : BitVec 6) (ob : BitVec 3) (vp : BitVec 6) (s : State) : Host.Outcome State Fault Refusal :=
  issue (.obres h vd ob vp) s fun c => c.queueMx (.obres h vd ob vp)
/-- OBREL (R243). -/
def execObrel (h : Hdr) (ob : BitVec 3) (s : State) : Host.Outcome State Fault Refusal :=
  issue (.obrel h ob) s fun c => c.queueMx (.obrel h ob)
/-- BRES (R242). -/
def execBres (h : Hdr) (vd : BitVec 6) (b : BitVec 2) (vp : BitVec 6) (s : State) : Host.Outcome State Fault Refusal :=
  issue (.bres h vd b vp) s fun c => c.queueMx (.bres h vd b vp)
/-- BREL (R243). -/
def execBrel (h : Hdr) (b : BitVec 2) (s : State) : Host.Outcome State Fault Refusal :=
  issue (.brel h b) s fun c => c.queueMx (.brel h b)
/-- MXLOOP (R238). -/
def execMxloop (h : Hdr) (t : Bool) (ob : BitVec 3) (b : BitVec 2) (vq : BitVec 6) (sp : Sparsity) (z : Bool) (kc n : BitVec 12)
    (mob : BitVec 3) (s : State) : Host.Outcome State Fault Refusal :=
  issue (.mxloop h t ob b vq sp z kc n mob) s fun c => c.queueMx (.mxloop h t ob b vq sp z kc n mob)
/-- ACCZ (R244). -/
def execAccz (h : Hdr) (t : Bool) (s : State) : Host.Outcome State Fault Refusal :=
  issue (.accz h t) s fun c => c.queueMx (.accz h t)
/-- ACCZ.FREE (R244). -/
def execAcczFree (h : Hdr) (t : Bool) (s : State) : Host.Outcome State Fault Refusal :=
  issue (.acczFree h t) s fun c => c.queueMx (.acczFree h t)
/-- ACCRD (R245). -/
def execAccrd (h : Hdr) (vd : BitVec 6) (t : Bool) (ty : AccTy) (rnd : Rnd) (va : BitVec 6) (s : State) :
    Host.Outcome State Fault Refusal :=
  issue (.accrd h vd t ty rnd va) s fun c => c.queueMx (.accrd h vd t ty rnd va)
/-- ACCWR (R246). -/
def execAccwr (h : Hdr) (vs : BitVec 6) (t : Bool) (ty : AccTy) (add : Bool) (va : BitVec 6) (s : State) :
    Host.Outcome State Fault Refusal :=
  issue (.accwr h vs t ty add va) s fun c => c.queueMx (.accwr h vs t ty add va)
/-- ACCST (R247). -/
def execAccst (h : Hdr) (an : BitVec 4) (t : Bool) (ty : AccTy) (rnd : Rnd) (va : BitVec 6) (s : State) :
    Host.Outcome State Fault Refusal :=
  issue (.accst h an t ty rnd va) s fun c => c.queueMx (.accst h an t ty rnd va)
/-- ACCLD (R247). -/
def execAccld (h : Hdr) (an : BitVec 4) (t : Bool) (ty : AccTy) (va : BitVec 6) (s : State) : Host.Outcome State Fault Refusal :=
  issue (.accld h an t ty va) s fun c => c.queueMx (.accld h an t ty va)

/-- MXWAIT (R248): a pending fault is delivered; otherwise the group sleeps until the work it waits for has completed. -/
def execMxwait (h : Hdr) (s : State) : Host.Outcome State Fault Refusal :=
  issue (.mxwait h) s fun c => c.mxFirst (
    if c.g.mxAwaited then .hold (c.setG c.s fun g => { g with asleep := some (.mxwait c.slot) })
    else c.done (.mxwait h) (c.setG c.s fun g => { g with asleep := none }))

/-- MXFRZ (R249). -/
def execMxfrz (h : Hdr) (s : State) : Host.Outcome State Fault Refusal :=
  issue (.mxfrz h) s fun c => c.mxFirst (
    if !c.g.trap.level then .trap ⟨Cause.badForm, wordInfo (.mxfrz h)⟩ c.s
    else c.done (.mxfrz h) (c.setG c.s fun g => { g with frozen := true }))

/-- MXFRZ.THAW (R249). -/
def execMxfrzThaw (h : Hdr) (s : State) : Host.Outcome State Fault Refusal :=
  issue (.mxfrzThaw h) s fun c => c.mxFirst (
    if !c.g.trap.level then .trap ⟨Cause.badForm, wordInfo (.mxfrzThaw h)⟩ c.s
    else c.done (.mxfrzThaw h) (c.setG c.s Group.thaw))

/-- The bits of held slots. -/
def heldBits {α : Type} (l : List (Option α)) (n : Nat) : Nat :=
  (List.range n).foldl (fun acc k => if (Tbl.get none l k).isSome then acc + 2 ^ k else acc) 0

/-- The words that MXSTA gives (R250). -/
def Group.mxState (g : Group) : List Word :=
  let loop := g.mx.find? fun w => (match w.instr with | .mxloop .. => true | _ => false) && w.ops.isSome
  [BitVec.ofNat 32 (g.mx.length + (if g.frozen then 256 else 0) +
      (match g.mxFault with | some f => 512 + f.reason * 65536 | none => 0)),
   BitVec.ofNat 32 ((loop.map MxWork.it).getD 0), BitVec.ofNat 32 ((loop.map MxWork.k).getD 0),
   BitVec.ofNat 32 (heldBits g.tiles 2 + heldBits g.ob 8 * 256 + heldBits g.b 4 * 65536)]

/-- MXSTA (R250): every active lane receives the quad at issue. -/
def execMxsta (h : Hdr) (vq : BitVec 6) (s : State) : Host.Outcome State Fault Refusal :=
  issue (.mxsta h vq) s fun c => c.mxFirst (
    c.commit (.mxsta h vq) c.s ⟨(List.range 4).map fun k => .uniform (vq.toNat + k) (Tbl.get 0 c.g.mxState k) false, []⟩)

/-! ### The events -/

/-- What follows a move of a group's matrix work, which went from one state to the next: an MXLOOP that has ended gives up the array, so that the group's next one stands behind the
loops that have waited (R235), and a destination that needs a row finds one or is spilled (R160). -/
def State.afterMx (s : State) (n : Nat) (s1 : State) : State :=
  match s.group n, s1.group n with
  | some g, some g1 =>
    let core := s.coreOf g
    let c := s1.core core
    let s2 : State := if g.atLoop && g1.mx.length != g.mx.length then
      { s1 with cores := Tbl.set CoreSt.reset s1.cores core { c with array := delNat c.array n } } else s1
    s2.fitRows n g.inRows
  | _, _ => s1

/-- MATRIX_WORK_BEGIN (R234). -/
def execMatrixWorkBegin (g : Nat) (s : State) : Host.Outcome State Fault Refusal := .next (s.afterMx g (s.mxBegin g))
/-- MATRIX_BLOCK (R240, R247). -/
def execMatrixBlock (g : Nat) (s : State) : Host.Outcome State Fault Refusal := .next (s.afterMx g (s.mxStep g))
/-- ACCZ_CLAIM (R244). -/
def execAcczClaim (g : Nat) (s : State) : Host.Outcome State Fault Refusal := .next (s.mxClaim g)

/-- REGISTER_FOLD (R156): under row pressure the core folds a register where the policy and R155 allow it; which and when is not architectural. -/
def execRegisterFold (g : Nat) (vd : BitVec 6) (s : State) : Host.Outcome State Fault Refusal :=
  .next (match s.group g with
    | some gr => if gr.foldpol != 0 && gr.foldable vd.toNat then
        s.setGroup g (gr.setVreg vd.toNat { gr.vreg vd.toNat with hold := .folded }) else s
    | none => s)

/-- REGISTER_UNSPILL (R160): a spilled register returns to a row when one is free. -/
def execRegisterUnspill (g : Nat) (vd : BitVec 6) (s : State) : Host.Outcome State Fault Refusal :=
  .next (match s.group g with
    | some gr =>
      (match (gr.vreg vd.toNat).hold with
      | .spilled vals ps =>
        let gr1 := gr.setVreg vd.toNat { gr.vreg vd.toNat with hold := .rows vals ps }
        if gr1.rowsHeld ≤ s.rowLimit g gr then s.setGroup g gr1 else s
      | _ => s)
    | none => s)

end Sys2Proof.Machine
end

