-- ==== Sys2Proof/Machine/Winnow.lean ====
section
/-! DEFINITION. Winnow (R129 to R133): the block of a chunk's bytes as the sending E-port codes it, and its bytes as the receiving
E-port decodes them. -/

namespace Sys2Proof.Machine

/-! ### CRC-16 (R131) -/

/-- One bit of the remainder. -/
def crcBit (c : Nat) : Nat := if c / 32768 % 2 == 1 then Nat.xor (c * 2 % 65536) 0x1021 else c * 2 % 65536
/-- One byte. -/
def crcByte (c : Nat) (b : Byte) : Nat :=
  (List.range 8).foldl (fun c _ => crcBit c) (Nat.xor c (b.toNat * 256))
/-- CRC-16 with polynomial 0x1021 and initial value 0xFFFF (R131). -/
def crc16 (l : List Byte) : Nat := l.foldl crcByte 0xFFFF

/-! ### Planes (R131, R132) -/

/-- Byte b of each element of ew bytes, in element order. -/
def planeOf (ew b : Nat) (l : List Byte) : List Byte :=
  (List.range (l.length / ew)).map fun k => Tbl.get 0 l (k * ew + b)

/-- The largest byte, and the smallest. -/
def maxByte (l : List Byte) : Nat := l.foldl (fun m b => Nat.max m b.toNat) 0
def minByte (l : List Byte) : Nat := l.foldl (fun m b => Nat.min m b.toNat) 255

/-- The smallest w with d < 2^w. -/
def widthOf (d : Nat) : Nat := if d = 0 then 0 else d.log2 + 1

/-- One plane coded (R132 step 2). -/
def planeEnc (l : List Byte) : List Byte :=
  let lo := minByte l
  let hi := maxByte l
  let w := widthOf (hi - lo)
  if hi == 0 then [0]
  else if lo == hi then [0x40, BitVec.ofNat 8 lo]
  else if w ≤ 7 then
    [BitVec.ofNat 8 (0x80 + w * 8), BitVec.ofNat 8 lo] ++ bytesOf ((l.length * w + 7) / 8)
      ((List.range l.length).foldl (fun acc k => acc + ((Tbl.get 0 l k).toNat - lo) * 2 ^ (k * w)) 0)
  else 0xC0 :: l

/-- The code of an element width (R131). -/
def ewCode (ew : Nat) : Nat := if ew == 8 then 3 else if ew == 4 then 2 else if ew == 2 then 1 else 0

/-- The element width of a destination type (R132 step 1). -/
def winnowWidth (dtype len : Nat) : Nat :=
  let ew := if dtype == 1 then 4 else if dtype == 2 || dtype == 3 then 2 else if dtype == 5 then 8 else 1
  if len % ew == 0 then ew else 1

/-- The block with raw set (R132 step 3). -/
def winnowRaw (l : List Byte) : List Byte := bytesOf 4 (2 ^ 31 + l.length * 65536 + crc16 l) ++ l

/-- The block of a chunk (R132). -/
def winnowEnc (dtype : Nat) (l : List Byte) : List Byte :=
  let ew := winnowWidth dtype l.length
  let body := (List.range ew).flatMap fun b => planeEnc (planeOf ew b l)
  if l.length ≤ body.length then winnowRaw l
  else bytesOf 4 (ewCode ew * 2 ^ 29 + body.length * 65536 + crc16 l) ++ body

/-- One plane of n bytes decoded, with the bytes after it; none where a plane byte is invalid or bytes are missing (R133). -/
def planeDec (n : Nat) : List Byte → Option (List Byte × List Byte)
  | [] => none
  | p :: rest =>
    let mode := p.toNat / 64
    let w := p.toNat / 8 % 8
    if p.toNat % 8 != 0 then none
    else match mode with
      | 0 => if w == 0 then some (List.replicate n 0, rest) else none
      | 1 =>
        (match rest with
        | b :: rest' => if w == 0 then some (List.replicate n b, rest') else none
        | [] => none)
      | 2 =>
        (match rest with
        | m :: rest' =>
          let len := (n * w + 7) / 8
          if w == 0 || rest'.length < len then none
          else
            let bits := ofBytes (rest'.take len)
            some ((List.range n).map fun k => m + BitVec.ofNat 8 (bits / 2 ^ (k * w) % 2 ^ w), rest'.drop len)
        | [] => none)
      | _ => if w != 0 || rest.length < n then none else some (rest.take n, rest.drop n)

/-- Planes decoded one after another. -/
def planesDec (n : Nat) : Nat → List Byte → Option (List (List Byte) × List Byte)
  | 0, l => some ([], l)
  | k + 1, l =>
    (planeDec n l).bind fun p => (planesDec n k p.2).map fun q => (p.1 :: q.1, q.2)

/-- The bytes of a block of uncompressed length n; none where a check of R133 fails. -/
def winnowDec (n : Nat) (blk : List Byte) : Option (List Byte) :=
  let h := ofBytes (blk.take 4)
  let body := blk.drop 4
  let blen := h / 65536 % 4096
  let ew := 2 ^ (h / 2 ^ 29 % 4)
  let ok := fun (l : List Byte) => if crc16 l == h % 65536 then some l else none
  if blk.length < 4 || h / 2 ^ 28 % 2 != 0 || body.length != blen then none
  else if h / 2 ^ 31 == 1 then (if blen != n then none else ok body)
  else if n % ew != 0 then none
  else (planesDec (n / ew) ew body).bind fun p =>
    if p.2 != [] then none
    else ok ((List.range n).map fun i => Tbl.get 0 (Tbl.get [] p.1 (i % ew)) (i / ew))

/-! ### Chunks in BULK flits (R130) -/

/-- The payloads of a chunk: a descriptor and 224 stream bytes, then 240 stream bytes in each further flit. `extra` fills bytes 12 to 15 of the descriptor,
which are zero but in the model's request for a chunk (log entry 15). -/
def bulkPayloads (pa len extra : Nat) (stream : List Byte) : List (List Byte) :=
  (bytesOf 8 (pa % 2 ^ 54) ++ bytesOf 2 len ++ bytesOf 2 stream.length ++ bytesOf 4 extra ++ stream.take 224) ::
    chunksOf (stream.length / 240 + 1) 240 (stream.drop 224)

/-- A chunk sent to its package under a tag, by the bulk port of its address (R124); none where the package is unreachable. -/
def State.sendBulk (s : State) (tag pa len : Nat) (w : Bool) (extra : Nat) (stream : List Byte) : Option State :=
  (s.bulkPort (paPkg pa) pa).map fun port =>
    (bulkPayloads pa len extra stream).foldl (fun s b => s.enqueue port 7 (mkFlit s 2 (paPkg pa) tag w b)) s

end Sys2Proof.Machine
end

