-- ==== Sys2Proof/Machine/Copy.lean ====
section
/-! DEFINITION. Copy requests (R91 to R98, R109 to R111): the block's fields, its two sides, the production order, conversion in flight, and
units of production, each done whole or not at all. Completion and the instructions stand in Engines.lean. -/

namespace Sys2Proof.Machine

/-! ### The block (R91) -/

/-- A signed field of 32 bits. -/
def blkInt (blk : BitVec 512) (lo : Nat) : Int := (blk.extractLsb' lo 32 : BitVec 32).toInt

/-- One side of a request (R92, R93): kind, address, type, format word, strides, whether it is written, and the twin flag. -/
structure Side where
  kind : Nat
  addr : Nat
  etype : Nat
  fmt : Word
  s1 : Int
  s2 : Int
  dst : Bool
  twin : Bool
  deriving DecidableEq, Repr

/-- The source side. -/
def srcSide (blk : BitVec 512) : Side :=
  ⟨blkField blk 448 4, blkField blk 0 64, blkField blk 456 4, blk.extractLsb' 320 32, blkInt blk 192, blkInt blk 224, false, false⟩
/-- The destination side. -/
def dstSide (blk : BitVec 512) : Side :=
  ⟨blkField blk 452 4, blkField blk 64 64, blkField blk 460 4, blk.extractLsb' 352 32, blkInt blk 256, blkInt blk 288, true,
    blkField blk 467 1 == 1⟩

/-- Bits of an element (R93). -/
def Side.width (x : Side) : Nat :=
  match x.etype with
  | 0 => 8
  | 1 => 32
  | 2 | 3 => 16
  | 4 => (NFmt.of x.fmt).width
  | _ => 64
/-- The scale block, 0 where the side is not scaled. -/
def Side.block (x : Side) : Nat := elBlock x.etype x.fmt
/-- The byte at which an address of the kind begins (R92). -/
def Side.origin (x : Side) : Nat :=
  match x.kind with
  | 2 | 3 => x.addr % 2 ^ 24
  | 5 => x.addr % 2 ^ 18
  | _ => x.addr
/-- The slot or tile that an address names (R92). -/
def Side.slot (x : Side) : Nat :=
  match x.kind with
  | 2 => x.addr / 2 ^ 56 % 8
  | 3 => x.addr / 2 ^ 56 % 4
  | _ => x.addr / 2 ^ 56 % 2
/-- Bits outside an address's slot and offset fields are zero (R92). -/
def Side.addrOk (x : Side) : Bool :=
  match x.kind with
  | 2 => x.addr / 2 ^ 24 % 2 ^ 32 == 0 && x.addr / 2 ^ 59 == 0
  | 3 => x.addr / 2 ^ 24 % 2 ^ 32 == 0 && x.addr / 2 ^ 58 == 0
  | 5 => x.addr / 2 ^ 18 % 2 ^ 38 == 0 && x.addr / 2 ^ 57 == 0
  | _ => true

/-- Fields of the block (R91). -/
def blkBar (blk : BitVec 512) : Nat := blkField blk 494 16 * 16
def blkList (blk : BitVec 512) : Nat := blkField blk 478 16 * 8
def blkLcnt (blk : BitVec 512) : Nat := blkField blk 468 6
def blkTwin (blk : BitVec 512) : Bool := blkField blk 467 1 == 1
def blkCmp (blk : BitVec 512) : Bool := blkField blk 466 1 == 1
def blkRnd (blk : BitVec 512) : Nat := blkField blk 464 2
def blkSoff (blk : BitVec 512) : Int := blkInt blk 416
def blkSeed (blk : BitVec 512) : Word := blk.extractLsb' 384 32
def blkN0 (blk : BitVec 512) : Nat := blkField blk 128 24
def blkN1 (blk : BitVec 512) : Nat := blkField blk 152 16
def blkN2 (blk : BitVec 512) : Nat := blkField blk 168 16
/-- The rounding mode. -/
def blkMode (blk : BitVec 512) : Rnd := if blkRnd blk == 1 then .rz else if blkRnd blk == 2 then .sr else .rne
/-- Types and formats are equal, so that elements are copied unchanged (R96 step 2). -/
def blkSame (blk : BitVec 512) : Bool := (srcSide blk).etype == (dstSide blk).etype && (srcSide blk).fmt == (dstSide blk).fmt

/-! ### Production order (R94, R109) -/

/-- Where a produced element comes from: element k of a row; the element that a gather index displaces; or the value of a PAD. -/
inductive Source
  | at_ (row : Int) (k : Int)
  | gather (row : Int) (sc step : Int) (index : Nat)
  | pad (v : Nat)
  deriving DecidableEq, Repr

/-- One production: its source, and element k of a destination row. -/
structure Prod_ where
  src : Source
  drow : Int
  dk : Int
  deriving DecidableEq, Repr

/-- Production e of a request without a list (R94). -/
def prodAt (blk : BitVec 512) (e : Nat) : Prod_ :=
  let s := srcSide blk
  let d := dstSide blk
  let k0 := e % blkN0 blk
  let k1 := (e / blkN0 blk) % blkN1 blk
  let k2 := e / (blkN0 blk * blkN1 blk)
  ⟨.at_ (s.origin + k2 * s.s2 + k1 * s.s1) k0, d.origin + k2 * d.s2 + k1 * d.s1, k0⟩

/-- Bits of a command. -/
def cmdField (c : DWord) (lo n : Nat) : Nat := c.toNat / 2 ^ lo % 2 ^ n
/-- The operation of a command (R109). -/
def cmdOp (c : DWord) : Nat := cmdField c 60 4
/-- Its count. -/
def cmdN (c : DWord) : Nat := cmdField c 32 24
/-- Its source and destination step registers. -/
def cmdA (c : DWord) : Nat := cmdField c 30 2
def cmdD (c : DWord) : Nat := if cmdOp c == 6 then cmdField c 58 2 else cmdField c 28 2
/-- A LOOP's body length. -/
def cmdBody (c : DWord) : Nat := cmdField c 56 4

/-- The state of the layout engine (R109). -/
structure Layout where
  sc : Int
  dc : Int
  ss : List Int
  ds : List Int
  deriving DecidableEq, Repr

/-- Its state at the start of a request. -/
def Layout.start : Layout := ⟨0, 0, [1], [1]⟩

/-- One command that is no LOOP: the productions, and the state after it. -/
def Layout.one (so do_ : Int) (st : Layout) (c : DWord) : List Prod_ × Layout :=
  let n := cmdN c
  let a := Tbl.get 0 st.ss (cmdA c)
  let d := Tbl.get 0 st.ds (cmdD c)
  match cmdOp c with
  | 2 =>
    let v := (c.setWidth 32 : BitVec 32).toInt
    let r := cmdField c 56 2
    ([], if cmdField c 59 1 == 1 then { st with ds := Tbl.set 0 st.ds r v } else { st with ss := Tbl.set 0 st.ss r v })
  | 3 => ((List.range n).map fun (j : Nat) => ⟨.at_ so (st.sc + j * a), do_, st.dc + j * d⟩,
      { st with sc := st.sc + n * a, dc := st.dc + n * d })
  | 4 => ((List.range 256).map fun (j : Nat) => ⟨.at_ so (st.sc + (j % 16 : Nat) * a + (j / 16 : Nat)), do_, st.dc + (j / 16 : Nat) * d + (j % 16 : Nat)⟩, st)
  | 5 => ((List.range n).map fun (j : Nat) => ⟨.gather so st.sc a (cmdField c 0 17 * 4 + 4 * j), do_, st.dc + j * d⟩,
      { st with dc := st.dc + n * d })
  | 6 => ((List.range n).map fun (j : Nat) => ⟨.pad (cmdField c 0 32), do_, st.dc + j * d⟩, { st with dc := st.dc + n * d })
  | 7 =>
    let v := (c.setWidth 48 : BitVec 48).toInt
    ([], if cmdField c 59 1 == 1 then { st with dc := v } else { st with sc := v })
  | _ => ([], st)

/-- A list of commands run (R109); `fuel` bounds the commands and the nesting. -/
def Layout.run (so do_ : Int) : Nat → List DWord → Layout → List Prod_ × Layout
  | 0, _, st => ([], st)
  | _ + 1, [], st => ([], st)
  | k + 1, c :: rest, st =>
    if cmdOp c == 0 then ([], st)
    else if cmdOp c == 1 then
      let a := Tbl.get 0 st.ss (cmdA c)
      let d := Tbl.get 0 st.ds (cmdD c)
      let it := (List.range (cmdN c)).foldl (fun (acc : List Prod_ × Layout) (j : Nat) =>
        let r := Layout.run so do_ k (rest.take (cmdBody c)) { acc.2 with sc := st.sc + j * a, dc := st.dc + j * d }
        (acc.1 ++ r.1, r.2)) ([], st)
      let after := Layout.run so do_ k (rest.drop (cmdBody c)) { it.2 with sc := st.sc + cmdN c * a, dc := st.dc + cmdN c * d }
      (it.1 ++ after.1, after.2)
    else
      let x := st.one so do_ c
      let r := Layout.run so do_ k rest x.2
      (x.1 ++ r.1, r.2)

/-- Every production of a list. -/
def listProds (blk : BitVec 512) (l : List DWord) : List Prod_ :=
  (Layout.run (srcSide blk).origin (dstSide blk).origin (l.length + 1) l Layout.start).1

/-- Elements that a list produces, and those of them that have a source. -/
def listCount : Nat → List DWord → Nat × Nat
  | 0, _ => (0, 0)
  | _ + 1, [] => (0, 0)
  | k + 1, c :: rest =>
    if cmdOp c == 0 then (0, 0)
    else
      let n := cmdN c
      let x : Nat × Nat := match cmdOp c with
        | 1 => let b := listCount k (rest.take (cmdBody c)); (n * b.1, n * b.2)
        | 3 | 5 => (n, n)
        | 4 => (256, 256)
        | 6 => (n, 0)
        | _ => (0, 0)
      let r := listCount k (if cmdOp c == 1 then rest.drop (cmdBody c) else rest)
      (x.1 + r.1, x.2 + r.2)

/-- Elements of a request, and those with a source. -/
def CopyReq.count (r : CopyReq) : Nat × Nat :=
  if blkLcnt r.block == 0 then
    let n := blkN0 r.block * blkN1 r.block * blkN2 r.block
    (n, n)
  else listCount (r.list.length + 1) r.list

/-- Productions from number e on, as many as a chunk can need. -/
def CopyReq.prodsFrom (r : CopyReq) (e n : Nat) : List Prod_ :=
  if blkLcnt r.block == 0 then (List.range (Nat.min n (r.count.1 - e))).map fun k => prodAt r.block (e + k)
  else ((listProds r.block r.list).drop e).take n

/-- Destination bytes of a scaled block with its scale byte. -/
def blockBytes (d : Side) : Nat := d.block * d.width / 8 + 1

/-- The first production that P does not cover (R113). -/
def CopyReq.next (r : CopyReq) : Nat :=
  let d := dstSide r.block
  if d.block != 0 then r.done / blockBytes d * d.block
  else if d.width % 8 == 0 then r.done / (d.width / 8)
  else r.done * 8 / d.width

/-! ### List checks (R110) -/

/-- Fields that must be zero are. -/
def cmdZero (c : DWord) : Bool :=
  match cmdOp c with
  | 0 => cmdField c 0 60 == 0
  | 1 => cmdField c 0 28 == 0
  | 2 => cmdField c 58 1 == 0 && cmdField c 32 24 == 0
  | 3 => cmdField c 56 4 == 0 && cmdField c 0 28 == 0
  | 4 => cmdField c 32 28 == 0 && cmdField c 0 28 == 0
  | 5 => cmdField c 56 4 == 0 && cmdField c 17 11 == 0
  | 6 => cmdField c 56 2 == 0
  | 7 => cmdField c 48 11 == 0
  | _ => false

/-- The commands of a list, or of a body at a depth of loops, are well formed (R110). -/
def listOk : Nat → Nat → List DWord → Bool
  | 0, _, _ => false
  | _ + 1, _, [] => true
  | k + 1, depth, c :: rest =>
    if !cmdZero c then false
    else match cmdOp c with
      | 0 => depth == 0
      | 1 =>
        cmdN c != 0 && cmdBody c != 0 && cmdBody c ≤ rest.length && depth < 4 &&
          listOk k (depth + 1) (rest.take (cmdBody c)) && listOk k depth (rest.drop (cmdBody c))
      | 3 | 5 | 6 => cmdN c != 0 && listOk k depth rest
      | _ => listOk k depth rest

/-! ### The engine at work -/

/-- What the engine has at hand while it produces: the state, bytes for another package (address, byte; oldest first), the generator,
the events counted, and the destination bytes of the chunk that were last written clean. -/
structure Work where
  s : State
  out : List (Nat × Byte)
  rng : Word
  counts : List Nat
  clean : List Nat
  deriving DecidableEq, Repr

/-- The outcome of a part of a production. -/
inductive Cp (α : Type)
  | ok (a : α) (w : Work)
  | fail (reason : Nat)
  | wait (va : Nat) (write malformed frozen : Bool)
  | need (pa : Nat)

/-- One part after another. -/
def Cp.bind {α β : Type} (x : Cp α) (f : α → Work → Cp β) : Cp β :=
  match x with
  | .ok a w => f a w
  | .fail r => .fail r
  | .wait va w m z => .wait va w m z
  | .need pa => .need pa

/-- Parts in the order of a list. -/
def Cp.each {α β : Type} (f : α → Work → Cp β) : List α → Work → Cp (List β)
  | [], w => .ok [] w
  | a :: rest, w => (f a w).bind fun b w1 => (Cp.each f rest w1).bind fun bs w2 => .ok (b :: bs) w2

/-- The physical address of a GLOBAL or REMOTE byte (R54, R92, R102, R108). -/
def Side.place (x : Side) (g : Group) (va : Int) (w : Work) : Cp Nat :=
  if va < 0 || (2 ^ 51 : Nat) ≤ va then .fail 9
  else
    let a := va.toNat
    if x.dst && inArena (w.s.launchOf g) a then .fail 9
    else match w.s.translate (w.s.coreOf g) (w.s.asidOf g) a x.dst with
      | (.ok pa pte big, s1) =>
        if !(if x.dst then pteW pte && !pteK pte else pteR pte) then .fail 9
        else if s1.isLocal pa == (x.kind == 4) then .fail 11
        else if x.twin && !pteTW pte then .fail 11
        else .ok (if x.twin then leafTwinPA pte big a else pa) { w with s := s1 }
      | (.fault, _) => .wait a x.dst false false
      | (.malformed, _) => .wait a x.dst true false
      | (.frozen, _) => .wait a x.dst false true

/-- A byte of a reservation at an offset lies in it (R137, R232). -/
def resvOk (kind : Nat) (r : Resv) (a : Nat) : Bool :=
  if kind == 2 then decide (a < r.size * 4096) else decide (a / 16384 < 256) && decide (a % 16384 < r.size * 256)

/-- The reservation that a side names. -/
def Side.resv (x : Side) (g : Group) : Option Resv := if x.kind == 2 then g.obAt x.slot else g.bAt x.slot

/-- The group's registers and storage as they now stand. -/
def Work.group (w : Work) (n : Nat) (g : Group) : Group := (w.s.group n).getD g

/-- One byte of a side that is no tile, with its poison. -/
def Side.byte (x : Side) (n : Nat) (g : Group) (inbuf : List (Nat × Byte)) (a : Int) (w : Work) : Cp (Byte × Bool) :=
  match x.kind with
  | 1 =>
    (match w.s.team g.team with
    | some t =>
      if a < 0 || (t.localSize : Int) ≤ a then .fail 8
      else let r := t.readLocal a.toNat 1; .ok (BitVec.ofNat 8 r.1, r.2) w
    | none => .fail 8)
  | 2 | 3 =>
    (match x.resv (w.group n g) with
    | some r =>
      if a < 0 || !resvOk x.kind r a.toNat then .fail 8
      else .ok (Mem.get r.data a.toNat, poisonedIn r.poison a.toNat 1) w
    | none => .fail 2)
  | 4 => (x.place g a w).bind fun pa w1 =>
      match w1.out.reverse.find? fun e => e.1 == pa with
      | some e => .ok (e.2, false) w1
      | none =>
        match inbuf.find? fun e => e.1 == pa with
        | some e => .ok (e.2, false) w1
        | none => .need pa
  | _ => (x.place g a w).bind fun pa w1 => .ok (BitVec.ofNat 8 (w1.s.readPA pa 1), w1.s.poisonedPA pa 1) w1

/-- A clean byte completes a word of clean bytes, all written by the chunk (R142 rule 2). -/
def Work.covers (w : Work) (a : Nat) (bad : Bool) : Bool :=
  !bad && (List.range 8).all fun k => a / 8 * 8 + k == a || w.clean.contains (a / 8 * 8 + k)

/-- The poison marks after a byte is written. -/
def Work.marks (w : Work) (ps : List Nat) (a : Nat) (bad : Bool) : List Nat :=
  if w.covers a bad then delNat ps (a / 8) else poisonAfter ps a 1 bad

/-- The byte noted. -/
def Work.note (w : Work) (a : Nat) (bad : Bool) : Work :=
  { w with clean := if bad then w.clean.filter fun b => b != a else a :: w.clean }

/-- One byte written to a side that is no tile. -/
def Side.putByte (x : Side) (n : Nat) (g : Group) (a : Int) (v : Byte) (bad : Bool) (w : Work) : Cp Unit :=
  match x.kind with
  | 1 =>
    (match w.s.team g.team with
    | some t =>
      if a < 0 || (t.localSize : Int) ≤ a then .fail 8
      else
        let t1 : Team := { t with localMem := Mem.set t.localMem a.toNat v, localPoison := w.marks t.localPoison a.toNat bad }
        .ok () { w.note a.toNat bad with s := w.s.setTeam g.team t1 }
    | none => .fail 8)
  | 2 | 3 =>
    (match x.resv (w.group n g) with
    | some r =>
      if a < 0 || !resvOk x.kind r a.toNat then .fail 8
      else
        let r1 : Resv := { r with data := Mem.set r.data a.toNat v, poison := w.marks r.poison a.toNat bad }
        let g0 := w.group n g
        let g1 := if x.kind == 2 then { g0 with ob := Tbl.set none g0.ob x.slot (some r1) }
          else { g0 with b := Tbl.set none g0.b x.slot (some r1) }
        .ok () { w.note a.toNat bad with s := w.s.setGroup n g1 }
    | none => .fail 2)
  | 4 => if bad then .fail 12 else (x.place g a w).bind fun pa w1 => .ok () { w1 with out := w1.out ++ [(pa, v)] }
  | _ => (x.place g a w).bind fun pa w1 =>
      .ok () { w1.note (paLocal pa) bad with s := { w1.s with
        mem := Mem.set w1.s.mem (paLocal pa) v, memPoison := w1.marks w1.s.memPoison (paLocal pa) bad } }

/-- n bytes of a side as a number, with their poison. -/
def Side.bytes (x : Side) (n : Nat) (g : Group) (inbuf : List (Nat × Byte)) (a : Int) (len : Nat) (w : Work) : Cp (Nat × Bool) :=
  (Cp.each (fun (k : Nat) w => x.byte n g inbuf (a + k) w) (List.range len) w).bind fun bs w1 =>
    .ok (ofBytes (bs.map Prod.fst), bs.any Prod.snd) w1

/-- n bytes of a side written. -/
def Side.putBytes (x : Side) (n : Nat) (g : Group) (a : Int) (len v : Nat) (bad : Bool) (w : Work) : Cp Unit :=
  (Cp.each (fun (k : Nat) w => x.putByte n g (a + k) (BitVec.ofNat 8 (v / 256 ^ k)) bad w) (List.range len) w).bind fun _ w1 => .ok () w1

/-- The entry of a tile at a byte offset (R92). -/
def tilePlace (a : Int) : Option (Nat × Nat) :=
  if a < 0 || (2 ^ 18 : Nat) ≤ a || a % 8 != 0 then none else some (a.toNat / 8 / 256, a.toNat / 8 % 256)

/-- The byte and the bits within it at which element k of a row lies (R93, R109). -/
def Side.elemAt (x : Side) (row k : Int) : Int × Nat :=
  if x.etype == 4 then (row + k * x.width / 8, (k * x.width % 8).toNat) else (row + k * (x.width / 8 : Nat), 0)

/-- Element k of a row, as its encoding (R93, R138). -/
def Side.get (x : Side) (n : Nat) (g : Group) (inbuf : List (Nat × Byte)) (row k : Int) (w : Work) : Cp (Nat × Bool) :=
  let p := x.elemAt row k
  if x.kind == 5 then
    match tilePlace p.1, (w.group n g).tileAt x.slot with
    | none, _ => .fail 8
    | _, none => .fail 2
    | some rc, some t => .ok ((t.entry rc.1 rc.2).toNat, t.bad rc.1 rc.2) w
  else
    (x.bytes n g inbuf p.1 ((p.2 + x.width + 7) / 8) w).bind fun v w1 =>
      .ok (v.1 / 2 ^ p.2 % 2 ^ x.width, v.2) w1

/-- Element k of a row written; part of a byte is a read-modify-write (R140). -/
def Side.put (x : Side) (n : Nat) (g : Group) (inbuf : List (Nat × Byte)) (row k : Int) (v : Nat) (bad : Bool) (w : Work) : Cp Unit :=
  let p := x.elemAt row k
  if x.kind == 5 then
    match tilePlace p.1, (w.group n g).tileAt x.slot with
    | none, _ => .fail 8
    | _, none => .fail 2
    | some rc, some t =>
      .ok () { w with s := w.s.setGroup n ((w.group n g).setTile x.slot (some (t.put rc.1 rc.2 (BitVec.ofNat 56 v) bad))) }
  else
    let len := (p.2 + x.width + 7) / 8
    if p.2 == 0 && x.width % 8 == 0 then x.putBytes n g p.1 len v bad w
    else
      (x.bytes n g inbuf p.1 len w).bind fun old w1 =>
        let m := (2 ^ x.width - 1) * 2 ^ p.2
        x.putBytes n g p.1 len (old.1 - Nat.land old.1 m + v % 2 ^ x.width * 2 ^ p.2) (bad || old.2) w1

/-- The address of the scale byte of the block that holds element k (R97). -/
def Side.scaleAt (x : Side) (soff row k : Int) : Int := row + soff + k / (x.block : Int)

/-- The value of an encoding, under a scale byte where the side is scaled (R96 step 1). -/
def Side.value (x : Side) (code scale : Nat) : Val :=
  match x.etype with
  | 1 => fp32.decode code
  | 2 => fp16.decode code
  | 3 => bf16.decode code
  | 4 => if x.block == 0 then (NFmt.of x.fmt).decode code else scaleBy scale ((NFmt.of x.fmt).decode code)
  | _ => a56.decode code

/-- A value rounded to an encoding, with what happened (R96 steps 3 and 4). -/
def Side.encode (x : Side) (mode : Rnd) (rng : Word) (v : Val) : Nat × Flags :=
  match x.etype with
  | 1 => fp32.round mode rng false v
  | 2 => fp16.round mode rng false v
  | 3 => bf16.round mode rng false v
  | 4 => (NFmt.of x.fmt).round mode rng v
  | _ => (a56.rne v, Flags.none)

/-- The events of a conversion counted, but for poisoned values (R96, R142). -/
def Side.events (x : Side) (fl : Flags) (bad : Bool) : List Nat :=
  if bad || x.etype == 0 || x.etype == 5 then [] else countsOf (x.fmt.toNat / 128 % 64) fl

/-- One conversion: under stochastic rounding the generator advances once (R98). -/
def Work.convert (w : Work) (x : Side) (mode : Rnd) (v : Val) (bad : Bool) : Nat × Work :=
  let rng := if mode = .sr then rngNext w.rng else w.rng
  let r := x.encode mode rng v
  (r.1, { w with rng := rng, counts := w.counts ++ x.events r.2 bad })

/-- A source element read at its turn: its code, its scale byte (127 without one), the poison of either, and the source block it is of. -/
structure Elem where
  code : Nat
  scale : Nat
  bad : Bool
  sbad : Bool
  key : Int × Int
  pad : Bool
  deriving DecidableEq, Repr

/-- The element's value is poisoned. -/
def Elem.spoilt (e : Elem) : Bool := e.bad || e.sbad

/-- The request's fields that productions need. -/
structure Job where
  n : Nat
  g : Group
  blk : BitVec 512
  inbuf : List (Nat × Byte)
  deriving DecidableEq, Repr

/-- Reading a source element (R95, R96 step 1, R111). The rule is silent on a poisoned gather index: the model uses its value and drops its mark (DESIGN CHOICE,
log entry 65). -/
def Job.read (j : Job) (src : Source) (w : Work) : Cp Elem :=
  let x := srcSide j.blk
  let at_ := fun (row k : Int) (w : Work) =>
    (x.get j.n j.g j.inbuf row k w).bind fun v w1 =>
      if x.block == 0 then .ok (⟨v.1, 127, v.2, false, (row, k), false⟩ : Elem) w1
      else (x.bytes j.n j.g j.inbuf (x.scaleAt (blkSoff j.blk) row k) 1 w1).bind fun q w2 =>
        .ok ⟨v.1, q.1, v.2, q.2, (row, k / (x.block : Int)), false⟩ w2
  match src with
  | .pad v => .ok ⟨v, 127, false, false, (0, 0), true⟩ w
  | .at_ row k => at_ row k w
  | .gather row sc step la =>
    match w.s.team j.g.team with
    | none => .fail 14
    | some t =>
      if t.localSize < la + 4 then .fail 14
      else at_ row (sc + (BitVec.ofNat 32 (t.readLocal la 4).1).toInt * step) w

/-- An element of an unscaled destination produced (R96). -/
def Job.plain (j : Job) (p : Prod_) (w : Work) : Cp Unit :=
  let d := dstSide j.blk
  (j.read p.src w).bind fun e w1 =>
    if e.pad || blkSame j.blk then d.put j.n j.g j.inbuf p.drow p.dk (e.code % 2 ^ d.width) e.bad w1
    else
      let r := w1.convert d (blkMode j.blk) ((srcSide j.blk).value e.code e.scale) e.spoilt
      d.put j.n j.g j.inbuf p.drow p.dk r.1 e.spoilt r.2

/-- A scaled destination block still open: its key and the elements read for it, by destination position. -/
abbrev OpenBlock := (Int × Int) × List (Int × Elem)

/-- emax of a format (R200). -/
def NFmt.emax (f : NFmt) : Int := if (f.largest false).1 == 0 then Config.emaxUnstated else magLog (f.largest false).1 (f.largest false).2

/-- The scale byte of a block from its exact values (R97). A valid FN format with neither fraction bits nor a second exponent has no finite value but 0, so that R200's emax would be the
logarithm of 0: the spec gives no value there, and emax is a free value (DESIGN CHOICE, log entry 74). -/
def scaleByte (f : NFmt) (vs : List Val) : Nat :=
  if vs.any fun v => match v with | .nan | .inf _ => true | _ => false then 255
  else match maxLog vs with
    | none => 127
    | some l => (clampInt (-127) 127 (l - f.emax) + 127).toNat

/-- A block's elements in ascending position, written with its scale byte (R96 step 2, R97). A poisoned element sets the scale of all, so none of the block's
conversions is counted (R142, R210). -/
def Job.flush (j : Job) (b : OpenBlock) (w : Work) : Cp Unit :=
  let x := srcSide j.blk
  let d := dstSide j.blk
  let base := b.1.2 * (d.block : Int)
  let es := (List.range d.block).filterMap fun (k : Nat) => (b.2.find? fun e => e.1 == base + k).map fun e => (e.1, e.2)
  let real := es.filter fun e => !e.2.pad
  let bad := es.any fun e => e.2.spoilt
  let one := match real with
    | [] => false
    | e :: rest => rest.all fun f => f.2.key == e.2.key
  let keep := blkSame j.blk && real.length == es.length && one
  let vals := real.map fun e => x.value e.2.code e.2.scale
  let q := if keep then (real.head?.map fun e => e.2.scale).getD 127 else scaleByte (NFmt.of d.fmt) vals
  (Cp.each (fun (e : Int × Elem) (w : Work) =>
    if e.2.pad || keep then d.put j.n j.g j.inbuf b.1.1 e.1 (e.2.code % 2 ^ d.width) (if keep then e.2.bad else false) w
    else if q == 255 then
      let w1 : Work := { w with
        rng := if blkMode j.blk = .sr then rngNext w.rng else w.rng
        counts := w.counts ++ d.events ⟨false, false, true⟩ bad }
      d.put j.n j.g j.inbuf b.1.1 e.1 0 bad w1
    else
      let r := w.convert d (blkMode j.blk) ((x.value e.2.code e.2.scale).scale (127 - (q : Int))) bad
      d.put j.n j.g j.inbuf b.1.1 e.1 r.1 bad r.2) es w).bind fun _ w1 =>
  d.putBytes j.n j.g (d.scaleAt (blkSoff j.blk) b.1.1 base) 1 q (if keep then es.any fun e => e.2.sbad else bad) w1

/-- Productions into scaled blocks from the head of a list until no block is open: the productions left, and the blocks that the chunk has completed (R97, R111).
`before` are the blocks completed by earlier chunks. -/
def Job.blocks (j : Job) (before : Int × Int → Bool) : List OpenBlock → List (Int × Int) → List Prod_ → Work → Cp (List Prod_ × List (Int × Int))
  | _, _, [], _ => .fail 13
  | opn, closed, p :: rest, w =>
    let d := dstSide j.blk
    let key : Int × Int := (p.drow, p.dk / (d.block : Int))
    let cur := (opn.find? fun b => b.1 == key).map Prod.snd
    if before key || closed.contains key || ((cur.getD []).any fun e => e.1 == p.dk) then .fail 13
    else (j.read p.src w).bind fun e w1 =>
      let b : OpenBlock := (key, (p.dk, e) :: cur.getD [])
      let others := opn.filter fun b => b.1 != key
      if b.2.length == d.block then
        (j.flush b w1).bind fun _ w2 =>
          if others.isEmpty then .ok (rest, key :: closed) w2 else j.blocks before others (key :: closed) rest w2
      else j.blocks before (b :: others) closed rest w1

/-- One unit of a request: an element, eight elements whose bits make whole bytes, or scaled blocks until none is open. What is left of the
list and the blocks that the chunk has completed, with its effect, or why it cannot be produced now. -/
def Job.unit (j : Job) (before : Int × Int → Bool) (closed : List (Int × Int)) (ps : List Prod_) (w : Work) : Cp (List Prod_ × List (Int × Int)) :=
  let d := dstSide j.blk
  if d.block != 0 then j.blocks before [] closed ps w
  else
    let u := if d.width % 8 == 0 then 1 else 8
    (Cp.each (fun p w => j.plain p w) (ps.take u) w).bind fun _ w1 => .ok (ps.drop u, closed) w1

end Sys2Proof.Machine
end

