-- ==== Sys2Proof/Machine/MemInstr.lean ====
section
/-! DEFINITION. The meanings of the address-register and memory instructions (R68 to R90): ASET to ANARROW, loads and stores, LDK, local
memory, atomics, fences, prefetch and cache control. -/

namespace Sys2Proof.Machine

/-! ### Address registers (R71 to R74) -/

/-- ASET's effect (R71). -/
def effAset (g : Group) (act : Mask) (an : BitVec 4) (vq : BitVec 6) : Except Trap Eff :=
  let l := act.lowest.getD 0
  let base := g.rd2 vq l
  let len : BitVec 48 := ((g.rd (vq + 3) l).setWidth 16 : BitVec 16) ++ g.rd (vq + 2) l
  let perm : BitVec 16 := (g.rd (vq + 3) l).extractLsb' 16 16
  if g.badN vq 4 l then .error ⟨Cause.poison, l⟩
  else if 32 ≤ perm.toNat then .error ⟨Cause.addrPerm, perm.toNat⟩
  else if 2 ^ 51 ≤ base.toNat || 2 ^ 51 < base.toNat + len.toNat then .error ⟨Cause.addrLimit, base.toNat⟩
  else .ok ⟨[.a an ⟨base, base, len, perm⟩], []⟩

/-- AADV's effect with a delta (R72). -/
def effAadv (g : Group) (an : BitVec 4) (delta : Int) : Except Trap Eff :=
  let d := g.areg an
  let new := (d.pointer.toNat : Int) + delta
  if new < d.base.toNat || ((d.base.toNat + d.length.toNat : Nat) : Int) ≤ new then .error ⟨Cause.addrLimit, infoOf new⟩
  else .ok ⟨[.a an { d with pointer := BitVec.ofInt 64 new }], []⟩

/-- AADV with the delta in a pair (R72). -/
def effAadvPair (g : Group) (act : Mask) (an : BitVec 4) (vp : BitVec 6) : Except Trap Eff :=
  let l := act.lowest.getD 0
  if g.badN vp 2 l then .error ⟨Cause.poison, l⟩ else effAadv g an (g.rd2 vp l).toInt

/-- The field of a descriptor that AGET reads (R73). -/
def agetField (d : Desc) : AgetSel → DWord
  | .ptr => d.pointer
  | .base => d.base
  | .len => d.length.setWidth 64
  | .perm => d.perm.setWidth 64
  | .rem => d.base + d.length.setWidth 64 - d.pointer

/-- ANARROW's effect (R74). -/
def effAnarrow (g : Group) (act : Mask) (ad as : BitVec 4) (vp : BitVec 6) (clr : BitVec 8) : Except Trap Eff :=
  let l := act.lowest.getD 0
  let len := g.rd2 vp l
  let d := g.areg as
  if g.badN vp 2 l then .error ⟨Cause.poison, l⟩
  else if 2 ^ 48 ≤ len.toNat || d.base.toNat + d.length.toNat < d.pointer.toNat + len.toNat then
    .error ⟨Cause.addrLimit, len.toNat⟩
  else .ok ⟨[.a ad ⟨d.pointer, d.pointer, len.setWidth 48, d.perm &&& ~~~(clr.setWidth 16)⟩], []⟩

/-- ASET (R71). -/
def execAset (h : Hdr) (an : BitVec 4) (vq : BitVec 6) (s : State) : Host.Outcome State Fault Refusal :=
  issue (.aset h an vq) s fun c => c.runEff (.aset h an vq) fun g act => effAset g act an vq

/-- AADV with a pair (R72). -/
def execAadvPair (h : Hdr) (an : BitVec 4) (vp : BitVec 6) (s : State) : Host.Outcome State Fault Refusal :=
  issue (.aadvPair h an vp) s fun c => c.runEff (.aadvPair h an vp) fun g act => effAadvPair g act an vp

/-- AADV with an immediate (R72). -/
def execAadvImm (h : Hdr) (an : BitVec 4) (imm : BitVec 16) (s : State) : Host.Outcome State Fault Refusal :=
  issue (.aadvImm h an imm) s fun c => c.runEff (.aadvImm h an imm) fun g _ => effAadv g an imm.toInt

/-- AGET (R73): every active lane receives the field. -/
def execAget (h : Hdr) (vd : BitVec 6) (an : BitVec 4) (sel : AgetSel) (s : State) : Host.Outcome State Fault Refusal :=
  issue (.aget h vd an sel) s fun c => c.runEff (.aget h vd an sel) fun g act =>
    .ok (pairEff h g act vd fun _ => (agetField (g.areg an) sel, false))

/-- ANARROW (R74). -/
def execAnarrow (h : Hdr) (ad as : BitVec 4) (vp : BitVec 6) (clr : BitVec 8) (s : State) : Host.Outcome State Fault Refusal :=
  issue (.anarrow h ad as vp clr) s fun c => c.runEff (.anarrow h ad as vp clr) fun g act => effAnarrow g act ad as vp clr

/-! ### Global accesses (R75 to R87) -/

/-- Store data of n bytes from the registers at vt (R77), with the marks of each 8 bytes (R142). -/
def storeData (g : Group) (vt : BitVec 6) (n i : Nat) : BitVec 128 × Marks :=
  if n = 16 then (g.rd4 vt i, markOf (g.badN vt 2 i) ||| (if g.badN (vt + 2) 2 i then 2 else 0))
  else (if n = 8 then (g.rd2 vt i).setWidth 128 else (g.rd vt i).setWidth 128, markOf (g.badN vt ((n + 3) / 4) i))

/-- The operands of a CAS in one lane: the compare value below, the new value in bits [127:64] (R84). -/
def casData (g : Group) (vc vn : BitVec 6) (dw : Bool) (i : Nat) : BitVec 128 × Marks :=
  let n := if dw then 2 else 1
  let v := fun (r : BitVec 6) => if dw then g.rd2 r i else (g.rd r i).setWidth 64
  (v vn ++ v vc, markOf (g.badN vc n i || g.badN vn n i))

/-- The data of an instruction's lanes. -/
def memData (i : Instr) (g : Group) : Nat → BitVec 128 × Marks :=
  match i with
  | .stB _ vt _ => storeData g vt 1
  | .stH _ vt _ => storeData g vt 2
  | .stW _ vt _ => storeData g vt 4
  | .stD _ vt _ => storeData g vt 8
  | .stQ _ vt _ => storeData g vt 16
  | .atom _ _ _ _ dw vs | .red _ _ _ dw vs | .atoml _ _ _ _ _ _ dw vs => storeData g vs (if dw then 8 else 4)
  | .cas _ _ _ dw vc vn => casData g vc vn dw
  | _ => fun _ => (0, 0)

/-- The access ends the run's restart-safety (R349): an atomic, or any write outside the package. -/
def endsSafe (o : MemOp) (away : Bool) : Bool :=
  match o with
  | .atomic .. | .cas _ => true
  | .store _ => away
  | _ => false

/-- The writes that deliver an instruction's answers. -/
def deliver (i : Instr) (w : Nat) (got : List Got) : List Write :=
  match memDest i with
  | some (vt, n) => gotWrites i.hdr w vt n got
  | none => []

/-- Later accesses perform after an instruction's (R258, R261, R264): by its code, as a load inside a capsule, or because a page that it names has the SC
attribute. -/
def Ctx.acquiring (c : Ctx) (i : Instr) (accs : List LaneAcc) : Bool :=
  acquires i || ((c.g.capsule c.slot).isSome && !globalWrites i) || accs.any fun a => c.s.pageSC (c.s.coreOf c.g) (c.s.asidOf c.g) a.ea

/-- The destinations made ready (R158), the access performed, and its destinations written; where some of its accesses go to other
packages, the instruction's destinations stay pending (R126), and where one of those cannot be reached, the path waits for the trap (R124). -/
def Ctx.access (c : Ctx) (i : Instr) (s : State) (o : MemOp) (at_ : List (LaneAcc × Nat)) : Res :=
  if s.stalled at_ then .hold s
  else match s.prepareWrite c.g (writes i) c.act (i.hdr.u && c.full && c.g.exited == 0) with
  | .trap t s1 => .trap t s1
  | .wait s1 w r => c.waitRegen i s1 w r
  | .ok s1 g1 =>
    let away := at_.any fun a => !s1.isLocal a.2
    let r := (s1.setGroup c.n g1).perform c.n i c.pc c.act (c.acquiring i (at_.map Prod.fst)) c.s.ticks o at_
    let s2 := if endsSafe o away then r.1.endSafe g1 else r.1
    if away then (if r.2.2.isEmpty then .hold r.1 else .ok (c.advance i s2)) else c.commit i s2 ⟨deliver i g1.w r.2.1, []⟩

/-- The instruction enters the operand log and the path goes on (R60); the log has an entry for it. -/
def Ctx.enterLog (c : Ctx) (i : Instr) (s : State) (accs : List LaneAcc) (pages : List Nat) : State :=
  c.advance i (c.log i s accs pages .access (c.acquiring i accs))

/-- A uniform instruction with no active lane (R20): it has no effect and raises no trap. -/
def Ctx.unless (c : Ctx) (i : Instr) (k : Res) : Res := if i.hdr.u && c.act == 0 then c.done i c.s else k

/-- A global memory instruction (R75, R77, R85). One that would fault while the operand log has no entry for it has not issued: it
waits (R62). -/
def Ctx.global (c : Ctx) (i : Instr) (o : MemOp) (an : BitVec 4) (vo : BitVec 6) : Res :=
  c.unless i <| c.withForm i fun s view =>
    match s.checkGlobal view (partLanes i.hdr c.act) (view.areg an) vo o (memData i view) with
    | .error t => .trap t s
    | .ok accs =>
      match s.resolve (s.coreOf c.g) (s.asidOf c.g) o.need accs with
      | .refused ea s1 => .trap ⟨Cause.addrPerm, ea⟩ s1
      | .poison l s1 => .trap ⟨Cause.poison, l⟩ s1
      | .wait s1 pages => if c.logFull then .hold s else .ok (c.enterLog i s1 accs pages)
      | .ok s1 at_ => c.access i s1 o at_

/-- The word of a slice that is being recorded is its last, which gives vd its recipe (R153). -/
def SliceRun.last (r : SliceRun) (pc : DWord) (i : Instr) : Bool := pc.toNat + 4 * i.words == r.first.toNat + 4 * r.words.length

/-- LDK (R82). As the last word of a slice being recorded it gives vd the values that the recipe's conditions ask about (R153): there the path waits at it for a page, and
for the values of another package (log entry 13). -/
def Ctx.ldk (c : Ctx) (i : Instr) (o : MemOp) (an : BitVec 4) (vo : BitVec 6) : Res :=
  if !((c.path.slice.map fun r => r.last c.pc i).getD false) then c.global i o an vo
  else
    c.unless i <| c.withForm i fun s view =>
      match s.sliceEff i view c.act with
      | .trap t s1 => .trap t s1
      | .wait s1 (.remote n accs) => c.askRemote s1 c.n n accs true
      | .wait s1 w => c.pend i s1 w .again
      | .ok s1 e => c.commit i s1 e

/-- LD.B (R77). -/
def execLdB (h : Hdr) (vt : BitVec 6) (m : MOp) (s : State) : Host.Outcome State Fault Refusal :=
  issue (.ldB h vt m) s fun c => c.global (.ldB h vt m) (.load 1) m.an m.vo
/-- LD.H (R77). -/
def execLdH (h : Hdr) (vt : BitVec 6) (m : MOp) (s : State) : Host.Outcome State Fault Refusal :=
  issue (.ldH h vt m) s fun c => c.global (.ldH h vt m) (.load 2) m.an m.vo
/-- LD.W (R77). -/
def execLdW (h : Hdr) (vt : BitVec 6) (m : MOp) (s : State) : Host.Outcome State Fault Refusal :=
  issue (.ldW h vt m) s fun c => c.global (.ldW h vt m) (.load 4) m.an m.vo
/-- LD.D (R77). -/
def execLdD (h : Hdr) (vt : BitVec 6) (m : MOp) (s : State) : Host.Outcome State Fault Refusal :=
  issue (.ldD h vt m) s fun c => c.global (.ldD h vt m) (.load 8) m.an m.vo
/-- LD.Q (R77). -/
def execLdQ (h : Hdr) (vt : BitVec 6) (m : MOp) (s : State) : Host.Outcome State Fault Refusal :=
  issue (.ldQ h vt m) s fun c => c.global (.ldQ h vt m) (.load 16) m.an m.vo
/-- ST.B (R77). -/
def execStB (h : Hdr) (vt : BitVec 6) (m : MOp) (s : State) : Host.Outcome State Fault Refusal :=
  issue (.stB h vt m) s fun c => c.global (.stB h vt m) (.store 1) m.an m.vo
/-- ST.H (R77). -/
def execStH (h : Hdr) (vt : BitVec 6) (m : MOp) (s : State) : Host.Outcome State Fault Refusal :=
  issue (.stH h vt m) s fun c => c.global (.stH h vt m) (.store 2) m.an m.vo
/-- ST.W (R77). -/
def execStW (h : Hdr) (vt : BitVec 6) (m : MOp) (s : State) : Host.Outcome State Fault Refusal :=
  issue (.stW h vt m) s fun c => c.global (.stW h vt m) (.store 4) m.an m.vo
/-- ST.D (R77). -/
def execStD (h : Hdr) (vt : BitVec 6) (m : MOp) (s : State) : Host.Outcome State Fault Refusal :=
  issue (.stD h vt m) s fun c => c.global (.stD h vt m) (.store 8) m.an m.vo
/-- ST.Q (R77). -/
def execStQ (h : Hdr) (vt : BitVec 6) (m : MOp) (s : State) : Host.Outcome State Fault Refusal :=
  issue (.stQ h vt m) s fun c => c.global (.stQ h vt m) (.store 16) m.an m.vo
/-- LDK.W (R82). -/
def execLdkW (h : Hdr) (vt : BitVec 6) (an : BitVec 4) (vo : BitVec 6) (nt : Bool) (s : State) :
    Host.Outcome State Fault Refusal :=
  issue (.ldkW h vt an vo nt) s fun c => c.ldk (.ldkW h vt an vo nt) (.ldk 4) an vo
/-- LDK.D (R82). -/
def execLdkD (h : Hdr) (vt : BitVec 6) (an : BitVec 4) (vo : BitVec 6) (nt : Bool) (s : State) :
    Host.Outcome State Fault Refusal :=
  issue (.ldkD h vt an vo nt) s fun c => c.ldk (.ldkD h vt an vo nt) (.ldk 8) an vo
/-- ATOM (R84 to R87). -/
def execAtom (h : Hdr) (vt : BitVec 6) (m : MOp) (op : AtomOp) (dw : Bool) (vs : BitVec 6) (s : State) :
    Host.Outcome State Fault Refusal :=
  issue (.atom h vt m op dw vs) s fun c => c.global (.atom h vt m op dw vs) (.atomic op dw true) m.an m.vo
/-- RED (R84 to R87). -/
def execRed (h : Hdr) (m : MOp) (op : AtomOp) (dw : Bool) (vs : BitVec 6) (s : State) : Host.Outcome State Fault Refusal :=
  issue (.red h m op dw vs) s fun c => c.global (.red h m op dw vs) (.atomic op dw false) m.an m.vo
/-- CAS (R84 to R87). -/
def execCas (h : Hdr) (vt : BitVec 6) (m : MOp) (dw : Bool) (vc vn : BitVec 6) (s : State) : Host.Outcome State Fault Refusal :=
  issue (.cas h vt m dw vc vn) s fun c => c.global (.cas h vt m dw vc vn) (.cas dw) m.an m.vo

/-! ### Local memory (R83, R85) -/

/-- The local-memory size that bounds the group's accesses (R83). -/
def Ctx.localSize (c : Ctx) : Nat := (c.team.map Team.localSize).getD 0

/-- Bytes of an LDL or STL. -/
def lmBytes : LmSize → Nat
  | .w => 4
  | .d => 8
  | .q => 16

/-- LDL (R83). -/
def execLdl (h : Hdr) (vt vo : BitVec 6) (sz : LmSize) (imm : BitVec 8) (s : State) : Host.Outcome State Fault Refusal :=
  issue (.ldl h vt vo sz imm) s fun c => c.unless (.ldl h vt vo sz imm) <| c.withForm (.ldl h vt vo sz imm) fun s view =>
    let n := lmBytes sz
    let lanes := partLanes h c.act
    let k := imm.toNat * 4
    match checkLocal view c.localSize lanes vo k n with
    | some t => .trap t s
    | none =>
      match c.team with
      | none => c.done (.ldl h vt vo sz imm) s
      | some t =>
        c.commit (.ldl h vt vo sz imm) s ⟨gotWrites h view.w vt (n / 4) (lanes.map fun i =>
          let la := view.localAddr vo k i
          (i, BitVec.ofNat 128 (t.readLocal la n).1, t.localMarks la n)), []⟩

/-- STL (R83): lanes in ascending order, so that the higher-numbered lane's byte remains (R78). -/
def execStl (h : Hdr) (vt vo : BitVec 6) (sz : LmSize) (imm : BitVec 8) (s : State) : Host.Outcome State Fault Refusal :=
  issue (.stl h vt vo sz imm) s fun c => c.unless (.stl h vt vo sz imm) <| c.withForm (.stl h vt vo sz imm) fun s view =>
    let n := lmBytes sz
    let lanes := partLanes h c.act
    let k := imm.toNat * 4
    match checkLocal view c.localSize lanes vo k n with
    | some t => .trap t s
    | none =>
      match c.team with
      | none => c.done (.stl h vt vo sz imm) s
      | some t =>
        c.done (.stl h vt vo sz imm) (s.setTeam view.team (lanes.foldl (fun t i =>
          let d := storeData view vt n i
          t.writeMarked (view.localAddr vo k i) n d.1.toNat d.2) t))

/-- ATOML (R85, R86): the destinations are made ready before the atomic is performed. -/
def execAtoml (h : Hdr) (vt vo : BitVec 6) (order : Order) (nt : Bool) (op : AtomOp) (dw : Bool) (vs : BitVec 6) (s : State) :
    Host.Outcome State Fault Refusal :=
  issue (.atoml h vt vo order nt op dw vs) s fun c => c.unless (.atoml h vt vo order nt op dw vs) <| c.withForm (.atoml h vt vo order nt op dw vs) fun s view =>
    let i : Instr := .atoml h vt vo order nt op dw vs
    let n := if dw then 8 else 4
    let lanes := partLanes h c.act
    match checkLocal view c.localSize lanes vo 0 n with
    | some t => .trap t s
    | none =>
      match s.prepareWrite c.g (writes i) c.act (h.u && c.full && c.g.exited == 0) with
      | .trap t s1 => .trap t s1
      | .wait s1 w r => c.waitRegen i s1 w r
      | .ok s1 g1 =>
        let s2 := (s1.setGroup c.n g1).endSafe g1
        match s2.team g1.team with
        | none => c.done i s2
        | some t =>
          let r := t.atomicList op dw (lanes.map fun k => (⟨k, 0, (memData i view k).1, (memData i view k).2⟩, view.localAddr vo 0 k))
          c.commit i (s2.setTeam g1.team r.1) ⟨deliver i g1.w r.2, []⟩

/-! ### Fences, prefetch and cache control (R88 to R90) -/

/-- FENCE (R88): accesses are performed in issue order (log entry 7), and the fence issues once the group's outstanding accesses have
performed; FENCE.SC then waits for the next heartbeat. -/
def execFence (h : Hdr) (kind : FenceKind) (scope : Scope) (s : State) : Host.Outcome State Fault Refusal :=
  issue (.fence h kind scope) s fun c =>
    match kind with
    | .sc => .hold (c.setG c.s fun g => { g with asleep := some (.fenceSC c.slot) })
    | _ => c.done (.fence h kind scope) c.s

/-- A page's translation brought into a core's TLBs, where its entry permits one and the page is of this package (R89). -/
def State.warm (s : State) (core asid va : Nat) : State :=
  match s.translate core asid va false with
  | (.ok pa _ _, s1) => if s.isLocal pa then s1 else s
  | _ => s

/-- The line of an address brought into a core's L1, where its page is translated, readable and of this package (R89). -/
def State.prefetch (s : State) (core asid va : Nat) : State :=
  match s.tlbLookup (.l1 core) asid va false with
  | some t =>
    let pa := leafPA (t.leafFor va) t.big va
    if pagePermits (t.leafFor va) .load && s.isLocal pa then s.l1Fill core pa else s
  | none => s

/-- PREF (R89): no access, no register and no trap. A lane whose address fails a check, or lies in another package, is dropped; the pages of the others come into
the core's TLBs, where their entries permit a translation, and for PREF.L1 the lines of readable pages into its L1. -/
def execPref (h : Hdr) (target : PrefTarget) (an : BitVec 4) (vo : BitVec 6) (nt : Bool) (s : State) :
    Host.Outcome State Fault Refusal :=
  issue (.pref h target an vo nt) s fun c =>
    let i : Instr := .pref h target an vo nt
    match c.s.formAll c.g (vList (reads i).v) with
    | .ok s view =>
      let ea := fun l => effAddr (c.g.areg an) (c.s.wsOf c.g) l (view.offset vo l)
      let lanes := (partLanes h c.act).filter fun l => !view.offsetBad vo l && inBounds (c.g.areg an) (c.s.wsOf c.g) l 1 (ea l)
      let pages := (lanes.map fun l => (ea l).toNat / 65536).eraseDups
      let s1 := pages.foldl (fun s p => s.warm (c.s.coreOf c.g) (c.s.asidOf c.g) (p * 65536)) s
      c.done i (if target = .l1 && MemOp.permitted (.load 1) (c.g.areg an).perm then
        lanes.foldl (fun s l => s.prefetch (c.s.coreOf c.g) (c.s.asidOf c.g) (ea l).toNat) s1 else s1)
    | _ => c.done i c.s

/-- The words of a range of code put into a core's instruction cache, where their pages allow a fetch (R90 ICPF). -/
def State.fillCode (s : State) (core asid : Nat) : Nat → Nat → State
  | 0, _ => s
  | k + 1, va =>
    let s1 := match s.translate core asid va false with
      | (.ok pa pte _, s1) =>
        if pteX pte && s1.isLocal pa && (s1.cached core asid va).isNone then s1.cache core asid va (BitVec.ofNat 32 (s1.readPA pa 4)) else s1
      | _ => s
    s1.fillCode core asid k (va + 4)

/-- CCTL (R90): L1INV empties the core's L1; the L2 and the memory behind it are one store, in which write-backs and evictions change nothing; ICPF fills the instruction cache, at most its 64 KiB. -/
def execCctl (h : Hdr) (op : CctlOp) (an : BitVec 4) (s : State) : Host.Outcome State Fault Refusal :=
  issue (.cctl h op an) s fun c =>
    match op with
    | .icpf =>
      let d := c.g.areg an
      c.done (.cctl h op an) (c.s.fillCode (c.s.coreOf c.g) (c.s.asidOf c.g) (Nat.min d.length.toNat 65536 / 4) (d.base.toNat / 4 * 4))
    | .l1inv => c.done (.cctl h op an) (c.s.l1Empty (c.s.coreOf c.g))
    | .l2wb | .l2evict => c.done (.cctl h op an) c.s

end Sys2Proof.Machine
end

