-- ==== Sys2Proof/Machine/Engines.lean ====
section
/-! DEFINITION. The copy engine's completion (R99 to R102, R111 to R114), the engine instructions QSUB, CBINIT, CBWAIT, SLEEPUNTIL and PUBLISH
(R103 to R108), and the events in which the engine and sleeping groups go on. -/

namespace Sys2Proof.Machine

/-! ### Barriers (R99, R100) -/

/-- A barrier credited with bytes (R100). -/
def Team.credit (t : Team) (la n : Nat) : Team :=
  let c := t.readLocal la 8
  let t1 := t.writeLocal la 8 (c.1 - n) c.2
  if n ≤ c.1 then t1
  else
    let w := t1.readLocal (la + 8) 8
    t1.writeLocal (la + 8) 8 (Nat.lor w.1 2) w.2

/-- A barrier marked with a fault, unless it shows one already (R102). -/
def Team.barFail (t : Team) (la reason : Nat) : Team :=
  let w := t.readLocal (la + 8) 8
  if w.1 % 2 == 1 then t else t.writeLocal (la + 8) 8 (w.1 - w.1 / 256 % 256 * 256 + 1 + reason * 256) w.2

/-- A group's team replaced. -/
def State.onTeam (s : State) (n : Nat) (f : Team → Team) : State :=
  match s.team n with
  | some t => s.setTeam n (f t)
  | none => s

/-- The first of the outstanding requests that is a given one, taken out or replaced. -/
def replaceReq (old : CopyReq) (new : Option CopyReq) : List CopyReq → List CopyReq
  | [] => []
  | r :: rest => if r == old then (match new with | some x => x :: rest | none => rest) else r :: replaceReq old new rest

/-- A request replaced in the engine, or removed. -/
def State.setCopy (s : State) (old : CopyReq) (new : Option CopyReq) : State := { s with copies := replaceReq old new s.copies }

/-- A transfer failure (R102): the barrier shows it, and the request ends. -/
def State.copyFail (s : State) (r : CopyReq) (reason : Nat) : State :=
  let la := blkBar r.block
  let s1 := (s.setCopy r none).onTeam r.team fun t => t.barFail la reason
  match s1.group r.group with
  | some g => s1.setGroup r.group { g with copyFaults := addNat g.copyFaults la }
  | none => s1

/-- Destination bytes credited (R100); a request all of whose elements are covered has completed. -/
def State.copyCredit (s : State) (r : CopyReq) (n : Nat) : State :=
  let r1 : CopyReq := { r with done := r.done + n, tags := [], owed := 0, waitPage := none, sent := [], retried := [] }
  let s1 := s.onTeam r.team fun t => t.credit (blkBar r.block) n
  s1.setCopy r (if r1.count.1 ≤ r1.next then none else some r1)

/-! ### Chunks (R100, R129) -/

/-- Runs of consecutive addresses of bytes in the order they were written; a byte written again in its run is replaced. -/
def runsOf : List (Nat × List Byte) → List (Nat × Byte) → List (Nat × List Byte)
  | acc, [] => acc.reverse
  | [], (a, v) :: rest => runsOf [(a, [v])] rest
  | (b, l) :: acc, (a, v) :: rest =>
    if a == b + l.length && l.length < Config.chunkBytes then runsOf ((b, l ++ [v]) :: acc) rest
    else if b ≤ a && a < b + l.length then runsOf ((b, l.set (a - b) v) :: acc) rest
    else runsOf ((a, [v]) :: (b, l) :: acc) rest

/-- Why a chunk ends. -/
inductive Stop_
  | full
  | fail (reason : Nat)
  | wait (va : Nat) (write malformed frozen : Bool)
  | need (pa : Nat)
  deriving DecidableEq, Repr

/-- Destination bytes of a number of elements produced (R100). -/
def Job.bytesOf (j : Job) (n : Nat) : Nat :=
  let d := dstSide j.blk
  if d.block != 0 then n / d.block * blockBytes d else (n * d.width + 7) / 8

/-- Units produced until the chunk is full, its destination addresses break off, or a unit cannot be produced: the work, the elements it
covers, and why it ends. Scaled blocks whose elements a list interleaves are one unit, since the credited prefix never ends inside a block: the spec does not say how that
combines with the chunk's 2,048 bytes, and the model lets a chunk of one such unit exceed them (DESIGN CHOICE, log entry 75). -/
def Job.chunk (j : Job) (before : Int × Int → Bool) : Nat → List (Int × Int) → List Prod_ → Nat → Work → Work × Nat × Stop_
  | 0, _, _, n, w => (w, n, .full)
  | _ + 1, _, [], n, w => (w, n, .full)
  | k + 1, closed, ps, n, w =>
    match j.unit before closed ps w with
    | .fail r => (w, n, .fail r)
    | .wait va x m z => (w, n, .wait va x m z)
    | .need pa => (w, n, .need pa)
    | .ok (rest, closed1) w1 =>
      let n1 := n + (ps.length - rest.length)
      if n != 0 && (Config.chunkBytes < j.bytesOf n1 || ((dstSide j.blk).kind == 4 && 1 < (runsOf [] w1.out).length)) then (w, n, .full)
      else j.chunk before k closed1 rest n1 w1

/-- The physical addresses of the source bytes of a production (R129). -/
def Job.sourceBytes (j : Job) (s : State) (p : Prod_) : List Nat :=
  match p.src with
  | .at_ row k =>
    let x := srcSide j.blk
    let a := x.elemAt row k
    (List.range ((a.2 + x.width + 7) / 8)).filterMap fun (i : Nat) =>
      match s.walk (s.asidOf j.g) (a.1 + i).toNat with
      | .leaf _ e big => some (leafPA e big (a.1 + i).toNat)
      | _ => none
  | _ => []

/-- How many bytes from an address upward a list of addresses goes on with. -/
def runLength : Nat → List Nat → Nat
  | _, [] => 0
  | a, b :: rest => if a == b then 1 + runLength (a + 1) rest else if a == b + 1 then runLength a rest else 0

/-- A request for a chunk that must come raw, since its block has failed a check (R133), carries this beside the element type (log entry 15). -/
def rawMark : Nat := 16

/-- The bytes of another package asked for (R127, R129): a run of source bytes from an address, or the one byte. The request is a BULK flit with a
descriptor and no stream; its answer is the chunk (log entry 15). -/
def State.copyAsk (s : State) (r : CopyReq) (j : Job) (ps : List Prod_) (pa : Nat) : State :=
  let addrs := (ps.flatMap (j.sourceBytes s)).dropWhile fun a => a != pa
  let len := Nat.min Config.chunkBytes (Nat.max 1 (runLength pa addrs))
  let t := s.freshTag
  if s.routeStalled (paPkg pa) then s else
  match t.2.sendBulk t.1 pa len (blkCmp r.block) (blkField r.block 460 4 + (if r.retried.contains 65536 then rawMark else 0)) [] with
  | none => s.copyFail r 10
  | some s1 =>
    let part := ((s.launchOf j.g).map Launch.part).getD 0
    { s1.setCopy r (some { r with tags := [t.1], owed := 0, retried := if r.retried.contains 65536 then [t.1] else [] }) with
      remote := s1.remote ++ [⟨t.1, paPkg pa, part, false, .copy r.core false⟩] }

/-- Runs of destination bytes sent to another package (R130): their tags, or none where it is unreachable. -/
def State.sendRuns (s : State) (r : CopyReq) (part : Nat) : List (Nat × List Byte) → Option (List Nat × State)
  | [] => some ([], s)
  | (pa, l) :: rest =>
    let t := s.freshTag
    let stream := if blkCmp r.block then winnowEnc (blkField r.block 460 4) l else l
    (t.2.sendBulk t.1 pa l.length (blkCmp r.block) 0 stream).bind fun s1 =>
      (State.sendRuns { s1.noteWrite part (paPkg pa) true with remote := s1.remote ++ [⟨t.1, paPkg pa, part, true, .copy r.core true⟩] } r part rest).map fun x =>
        (t.1 :: x.1, x.2)

/-- The chunk of a request (R100); one for another package is a remote write, which ends restart-safety (R349). A transfer failure behind the chunk is set in the barrier with the chunk's credit (R102). -/
def State.copyStep (s : State) (r : CopyReq) : State :=
  match s.group r.group with
  | none => s.setCopy r none
  | some g =>
    let j : Job := ⟨r.group, g, r.block, r.inbuf⟩
    let e := r.next
    let d := dstSide r.block
    let before := fun (key : Int × Int) => (r.prodsFrom 0 e).any fun p => p.drow == key.1 && p.dk / (d.block : Int) == key.2
    let ps := r.prodsFrom e (if d.block != 0 && blkLcnt r.block != 0 then r.count.1 else 8 * Config.chunkBytes + 8)
    let c := j.chunk before ps.length [] ps 0 ⟨s, [], r.rng, [], []⟩
    let n := j.bytesOf c.2.1
    let part := ((s.launchOf g).map Launch.part).getD 0
    if c.2.1 != 0 then
      let s1 := c.1.s.count g c.1.counts
      let r1 : CopyReq := { r with rng := c.1.rng, inbuf := [], waitPage := none }
      let s2 := s1.setCopy r (some r1)
      if d.kind == 4 && (runsOf [] c.1.out).any (fun x => s.routeStalled (paPkg x.1)) then s
      else if d.kind == 4 then
        (match s2.sendRuns r1 part (runsOf [] c.1.out) with
        | none => s2.copyFail r1 10
        | some x => (x.2.endSafe g).setCopy r1 (some { r1 with
            tags := x.1, owed := n, sent := (x.1.zip (runsOf [] c.1.out)).map fun y => (y.1, y.2.1, y.2.2) }))
      else match c.2.2 with
        | .fail reason => (s2.onTeam r.team fun t => t.credit (blkBar r.block) n).copyFail r1 reason
        | _ => s2.copyCredit r1 n
    else
      match c.2.2 with
      | .full => s.setCopy r none
      | .fail reason => s.copyFail r reason
      | .need pa => s.copyAsk r j ps pa
      | .wait va write malformed frozen =>
        if frozen then s
        else
          let s1 := s.postFault (s.asidOf g) va (if write then .copyWrite else .copyRead) malformed
          s1.setCopy r (some { r with waitPage := some va })

/-- The storage whose order of writes R112 keeps: memory, or one team's or group's structure. -/
def CopyReq.lands (r : CopyReq) : Nat × Nat × Nat :=
  let d := dstSide r.block
  match d.kind with
  | 1 => (1, r.team, 0)
  | 2 | 3 | 5 => (d.kind, r.group, d.slot)
  | _ => (0, 0, 0)

/-- A request suspended by a page fault that is not yet resolved (R113). -/
def State.copySuspended (s : State) (r : CopyReq) : Bool :=
  match r.waitPage, s.group r.group with
  | some va, some g => s.faults.any fun f => f.asid == s.asidOf g && f.page == va / 65536
  | _, _ => false

/-- The request that a core's engine goes on with: the first in submission order that is not suspended, unless it would write where a suspended
one before it writes (R103, R112, R113). -/
def State.copyHead (s : State) (core : Nat) : List (Nat × Nat × Nat) → List CopyReq → Option CopyReq
  | _, [] => none
  | held, r :: rest =>
    if r.core != core then s.copyHead core held rest
    else if s.copySuspended r || held.contains r.lands then s.copyHead core (r.lands :: held) rest
    else if r.tags.isEmpty then some r
    else none

/-- COPY_CHUNK (R100). -/
def execCopyChunk (core : Nat) (s : State) : Host.Outcome State Fault Refusal :=
  .next (match s.copyHead core [] s.copies with
    | some r => s.copyStep r
    | none => s)

/-! ### Static checks (R102) -/

/-- The group holds what a side names. -/
def Side.held (x : Side) (g : Group) : Bool :=
  match x.kind with
  | 2 | 3 => (x.resv g).isSome
  | 5 => (g.tileAt x.slot).isSome
  | _ => true

/-- A side's type and format word are accepted (R93). -/
def Side.typeOk (x : Side) : Bool :=
  decide (x.etype ≤ 5) &&
    (if x.etype == 4 then fmtValid x.fmt
     else if x.etype == 0 || x.etype == 5 then x.fmt == 0
     else (x.fmt &&& 0xFFFFE07F) == 0)

/-- The rules of R94 on a side: multiples of the element size, whole bytes, whole blocks. -/
def Side.shapeOk (x : Side) (n0 : Nat) : Bool :=
  if x.etype == 4 then (n0 * x.width % 8 == 0) && (x.block == 0 || n0 % x.block == 0)
  else
    let z := x.width / 8
    x.origin % z == 0 && x.s1 % z == 0 && x.s2 % z == 0

/-- A byte offset lies in what a local side names. -/
def Side.inside (x : Side) (g : Group) (lim : Nat) (a : Int) : Bool :=
  match x.kind with
  | 1 => decide (0 ≤ a) && decide (a < lim)
  | 2 | 3 => (match x.resv g with | some r => decide (0 ≤ a) && resvOk x.kind r a.toNat | none => false)
  | 5 => decide (0 ≤ a) && decide (a < (2 ^ 18 : Nat))
  | _ => true

/-- Every byte of a side's rows, scale bytes included, lies in what it names (R102 BOUNDS). -/
def Side.boundsOk (x : Side) (g : Group) (lim : Nat) (blk : BitVec 512) : Bool :=
  if x.kind == 0 || x.kind == 4 then true
  else (List.range (blkN2 blk)).all fun k2 => (List.range (blkN1 blk)).all fun k1 =>
    let row : Int := x.origin + k2 * x.s2 + k1 * x.s1
    ((List.range (blkN0 blk * x.width / 8)).all fun k => x.inside g lim (row + k)) &&
      (x.block == 0 || (List.range (blkN0 blk / x.block)).all fun k => x.inside g lim (row + blkSoff blk + k))

/-- The static checks of R102, in the order of its table; 0 where all pass. The spec names no reason for an lcnt of 33 to 63: the model answers LIST (DESIGN CHOICE,
log entry 66). -/
def copyCheck (g : Group) (lim : Nat) (blk : BitVec 512) (l : List DWord) : Nat :=
  let s := srcSide blk
  let d := dstSide blk
  let z := fun (f : BitVec 512 → Nat) => f blk == 0
  if !(z (blkField · 510 2) && z (blkField · 474 4) && z (blkField · 184 8)) || (blkLcnt blk == 0 && blkList blk != 0) then 1
  else if [s, d].any fun x => decide (5 < x.kind) || (x.etype == 5) != (x.kind == 5) || !x.addrOk || !x.held g then 2
  else if !([s, d].all Side.typeOk) || (s.etype == 0) != (d.etype == 0) then 3
  else if (if blkLcnt blk != 0 then blkN0 blk + blkN1 blk + blkN2 blk != 0 || s.s1 != 0 || s.s2 != 0 || d.s1 != 0 || d.s2 != 0
      else blkN0 blk == 0 || blkN1 blk == 0 || blkN2 blk == 0) || !([s, d].all fun x => x.shapeOk (blkN0 blk)) then 4
  else if lim < blkBar blk + 16 then 5
  else if blkLcnt blk != 0 && (32 < blkLcnt blk || lim < blkList blk + 8 * blkLcnt blk || !listOk 33 0 l) then 6
  else if (blkCmp blk && s.kind != 4 && d.kind != 4) || (blkTwin blk && d.kind != 0) || blkRnd blk == 3 ||
      (blkRnd blk == 2 && blkSeed blk == 0) then 7
  else if blkLcnt blk == 0 && !([s, d].all fun x => x.boundsOk g lim blk) then 8
  else 0

/-! ### QSUB (R101, R103) -/

/-- The planning rate of a side (R101). -/
def State.planRate (s : State) (g : Group) (x : Side) : Nat :=
  match x.kind with
  | 4 => 24
  | 0 =>
    (match s.walk (s.asidOf g) x.addr with
    | .leaf _ e big => if Config.cxlBase ≤ paLocal (leafPA e big x.addr) then 16 else 128
    | _ => 128)
  | _ => 256

/-- The byte count of a side (R101). -/
def sideBytes (x : Side) (n : Nat) : Nat := n * x.width / 8 + (if x.block == 0 then 0 else n / x.block)

/-- The promised completion time (R101). -/
def State.promise (s : State) (g : Group) (r : CopyReq) : Nat :=
  let src := srcSide r.block
  let d := dstSide r.block
  let bytes := Nat.max (sideBytes src r.count.2) (sideBytes d r.count.1)
  let rate := Nat.min (s.planRate g src) (s.planRate g d) / (if blkLcnt r.block == 0 then 1 else 2)
  let prev := ((s.copies.filter fun q => q.core == r.core).getLast?.map CopyReq.promise).getD 0
  Nat.max s.cycle prev + 96 + (bytes + rate - 1) / rate

/-- The local address that an engine instruction names, from the lowest active lane (R103). -/
def Ctx.engineAddr (c : Ctx) (view : Group) (vo : BitVec 6) (imm : Nat) : Nat := view.localAddr vo imm c.low

/-- The checks of an engine instruction's local address (R83): poison of the offset, the limit, the alignment to n bytes. -/
def Ctx.engineCheck (c : Ctx) (view : Group) (vo : BitVec 6) (imm n : Nat) : Option Trap :=
  checkLocal view c.localSize [c.low] vo imm n

/-- Matrix work of the group names storage that a request names (R237 rule 1). -/
def Group.mxUses (g : Group) (blk : BitVec 512) : Bool := g.mx.any fun w => (mxNames w.instr).any (copyNames blk).contains

/-- QSUB (R103, R112). One that names storage of the group's outstanding matrix work is held before its static checks, which then see what that work has claimed
or freed (R237 rule 1). -/
def execQsub (h : Hdr) (vd vo : BitVec 6) (imm : BitVec 10) (s : State) : Host.Outcome State Fault Refusal :=
  issue (.qsub h vd vo imm) s fun c => c.withForm (.qsub h vd vo imm) fun s view =>
    let k := imm.toNat * 64
    let la := c.engineAddr view vo k
    match c.engineCheck view vo k 64, c.team with
    | some t, _ => .trap t s
    | none, none => .hold s
    | none, some t =>
      let b := t.readLocal la 64
      let blk : BitVec 512 := BitVec.ofNat 512 b.1
      let n := blkLcnt blk
      let fits := n != 0 && blkList blk + 8 * n ≤ t.localSize
      let l := if fits then (List.range n).map fun i => BitVec.ofNat 64 (t.readLocal (blkList blk + 8 * i) 8).1 else []
      if b.2 then .trap ⟨Cause.poison, la⟩ s
      else if fits && (t.readLocal (blkList blk) (8 * n)).2 then .trap ⟨Cause.poison, blkList blk⟩ s
      else if c.g.mxUses blk then .hold s
      else
        let reason := copyCheck c.g t.localSize blk l
        if reason != 0 then .trap ⟨Cause.engineFault, reason + la * 2 ^ 32⟩ s
        else if Config.copyRecords ≤ (s.copies.filter fun r => r.core == t.core).length || c.g.remoteWrites then .hold s
        else
          let r : CopyReq := ⟨t.core, c.g.team, c.n, blk, l, 0, blkSeed blk, 0, none, [], 0, [], [], []⟩
          let p := s.promise c.g r
          match s.writeRegs c.n c.act c.full (pairEff h view c.act vd fun _ => (BitVec.ofNat 64 p, false)).writes with
          | .ok s1 _ => c.done (.qsub h vd vo imm) { s1 with copies := s1.copies ++ [{ r with promise := p }] }
          | .trap t s1 => .trap t s1
          | .wait s1 w r => c.waitRegen (.qsub h vd vo imm) s1 w r

/-! ### CBINIT, CBWAIT, SLEEPUNTIL (R104 to R106) -/

/-- A pair operand of the lowest active lane; a poisoned one traps (R143). -/
def Ctx.pairOf (c : Ctx) (view : Group) (vp : BitVec 6) : Except Trap DWord :=
  if view.badN vp 2 c.low then .error ⟨Cause.poison, c.low⟩ else .ok (view.rd2 vp c.low)

/-- CBINIT (R104). -/
def execCbinit (h : Hdr) (vp vo : BitVec 6) (imm : BitVec 9) (s : State) : Host.Outcome State Fault Refusal :=
  issue (.cbinit h vp vo imm) s fun c => c.withForm (.cbinit h vp vo imm) fun s view =>
    match c.pairOf view vp, c.engineCheck view vo (imm.toNat * 16) 16 with
    | .error t, _ => .trap t s
    | .ok _, some t => .trap t s
    | .ok v, none =>
      c.done (.cbinit h vp vo imm) (s.onTeam c.g.team fun t => t.writeLocal (c.engineAddr view vo (imm.toNat * 16)) 16 v.toNat false)

/-- The group sleeps at the instruction (R24). -/
def Ctx.sleep (c : Ctx) (s : State) (z : Sleep) : Res := .hold (c.setG s fun g => { g with asleep := some z })

/-- A poisoned barrier decides nothing: what reads it traps POISON with its address (R143, R331). -/
def Team.barPoison (t : Team) (la : Nat) : Option Trap := if (t.readLocal la 16).2 then some ⟨Cause.poison, la⟩ else none

/-- What a CBWAIT finds: a trap, or whether the barrier is at zero (R105). -/
def Team.barState (t : Team) (la : Nat) : Except Trap Bool :=
  match t.barPoison la with
  | some x => .error x
  | none => if barFault (t.barrier la) then .error (barTrap la (t.barrier la)) else .ok (barCount (t.barrier la) == 0)

/-- CBWAIT (R105). -/
def execCbwait (h : Hdr) (vo : BitVec 6) (imm : BitVec 9) (s : State) : Host.Outcome State Fault Refusal :=
  issue (.cbwait h vo imm) s fun c => c.withForm (.cbwait h vo imm) fun s view =>
    let la := c.engineAddr view vo (imm.toNat * 16)
    match c.engineCheck view vo (imm.toNat * 16) 16, c.team with
    | some t, _ => .trap t s
    | none, none => .hold s
    | none, some t =>
      match t.barState la with
      | .error x => .trap x s
      | .ok true => c.done (.cbwait h vo imm) s
      | .ok false => c.sleep s (.cbwait c.slot la)

/-- What SLEEPUNTIL does once its cycle has come (R106). -/
def lateTrap (la b : Nat) : Trap := ⟨Cause.lateCopy, barCount b % 2 ^ 32 + la % 2 ^ 24 * 2 ^ 32⟩

/-- The end of a checked sleep: none completes it. -/
def Team.sleepEnd (t : Team) (la : Nat) : Option Trap :=
  match t.barState la with
  | .error x => some x
  | .ok true => none
  | .ok false => some (lateTrap la (t.barrier la))

/-- SLEEPUNTIL (R106). -/
def execSleepuntil (h : Hdr) (vp : BitVec 6) (s : State) : Host.Outcome State Fault Refusal :=
  issue (.sleepuntil h vp) s fun c => c.withForm (.sleepuntil h vp) fun s view =>
    match c.pairOf view vp with
    | .error t => .trap t s
    | .ok t => if s.cycle < t.toNat then c.sleep s (.sleepuntil c.slot t none) else c.done (.sleepuntil h vp) s

/-- SLEEPUNTIL.CHK (R106). -/
def execSleepuntilChk (h : Hdr) (vp vo : BitVec 6) (imm : BitVec 9) (s : State) : Host.Outcome State Fault Refusal :=
  issue (.sleepuntilChk h vp vo imm) s fun c => c.withForm (.sleepuntilChk h vp vo imm) fun s view =>
    let la := c.engineAddr view vo (imm.toNat * 16)
    match c.pairOf view vp, c.engineCheck view vo (imm.toNat * 16) 16, c.team with
    | .error t, _, _ => .trap t s
    | .ok _, some t, _ => .trap t s
    | .ok _, none, none => .hold s
    | .ok t, none, some tm =>
      if s.cycle < t.toNat then c.sleep s (.sleepuntil c.slot t (some la))
      else match tm.sleepEnd la with
        | some x => .trap x s
        | none => c.done (.sleepuntilChk h vp vo imm) s

/-- A sleeping group's instruction of n words completes: its path goes on. -/
def State.wake (s : State) (n : Nat) (slot : SlotId) (words : Nat) : State :=
  match s.group n with
  | none => s
  | some g =>
    s.setGroup n (Group.setSlot { g with asleep := none } slot ((g.slot slot).map fun p => { p with pc := p.pc + BitVec.ofNat 64 (4 * words) }))

/-- A sleeping group's instruction traps. -/
def State.wakeTrap (s : State) (n : Nat) (slot : SlotId) (t : Trap) : State :=
  match s.group n with
  | none => s
  | some g =>
    match g.slot slot with
    | none => s
    | some p => (s.setGroup n { g with asleep := none }).takeTrap n slot ⟨t.cause, BitVec.ofNat 64 t.info, p.pc, false⟩

/-- CBWAIT_WAKE (R105). -/
def execCbwaitWake (n : Nat) (s : State) : Host.Outcome State Fault Refusal :=
  .next (match (s.group n).bind fun g => (s.teamOf g).bind fun t => g.asleep.map fun z => (t, z) with
    | some (t, .cbwait slot la) =>
      (match t.barState la with
      | .error x => s.wakeTrap n slot x
      | .ok true => s.wake n slot 1
      | .ok false => s)
    | _ => s)

/-- SLEEPUNTIL_WAKE (R106). -/
def execSleepuntilWake (n : Nat) (s : State) : Host.Outcome State Fault Refusal :=
  .next (match (s.group n).bind fun g => (s.teamOf g).bind fun t => g.asleep.map fun z => (t, z) with
    | some (t, .sleepuntil slot until_ chk) =>
      if s.cycle < until_.toNat then s
      else
        (match chk.bind t.sleepEnd with
        | some x => s.wakeTrap n slot x
        | none => s.wake n slot 1)
    | _ => s)

/-! ### PUBLISH (R107, R108) -/

/-- The pages of a region, as addresses. -/
def regionPages (base len : Nat) : List Nat := (List.range (len / 65536)).map fun k => base + 65536 * k

/-- A page of a twin region: its entry's address and value; or it is frozen, or no twin leaf. -/
inductive TwinPage
  | twin (entryPA : Nat) (pte : DWord)
  | frozen
  | bad
  deriving DecidableEq, Repr

/-- What the tables hold for a page of a twin region. -/
def State.twinPage (s : State) (asid va : Nat) : TwinPage :=
  match s.walk asid va with
  | .leaf pe e _ => if !pteTW e then .bad else if pteFZ e then .frozen else .twin pe e
  | _ => .bad

/-- The checks of PUBLISH (R107). The rule gives TRAPINFO for the page check alone: for the others the model takes the region's base, or the length where that is what is
refused (DESIGN CHOICE, log entry 76). -/
def Ctx.publishCheck (c : Ctx) (d : Desc) : Option Trap :=
  let base := d.base.toNat
  let len := d.length.toNat
  if !d.perm.getLsbD 7 then some ⟨Cause.addrPerm, base⟩
  else if base % 65536 != 0 then some ⟨Cause.misalign, base⟩
  else if len % 65536 != 0 then some ⟨Cause.misalign, len⟩
  else if Config.publishPages < len / 65536 then some ⟨Cause.addrLimit, len⟩
  else ((regionPages base len).find? fun a => c.s.twinPage (c.s.asidOf c.g) a == .bad).map fun a => ⟨Cause.addrPerm, a⟩

/-- PUBLISH (R107): its checks, then the wait for the twin requests of its region. -/
def execPublish (h : Hdr) (an : BitVec 4) (s : State) : Host.Outcome State Fault Refusal :=
  issue (.publish h an) s fun c =>
    let d := c.g.areg an
    match c.publishCheck d with
    | some t => .trap t c.s
    | none =>
      if c.g.remoteWrites || (regionPages d.base.toNat d.length.toNat).any fun a => c.s.twinPage (c.s.asidOf c.g) a == .frozen then .hold c.s
      else if d.length.toNat == 0 then c.done (.publish h an) c.s
      else c.sleep c.s (.publish c.slot d.base.toNat d.length.toNat)

/-- Some destination byte of a request lies in a range of addresses. -/
def CopyReq.touches (r : CopyReq) (lo hi : Nat) : Bool :=
  let d := dstSide r.block
  (r.prodsFrom 0 r.count.1).any fun p =>
    let a := d.elemAt p.drow p.dk
    (decide ((lo : Int) ≤ a.1 + ((a.2 + d.width - 1) / 8 : Nat)) && decide (a.1 < (hi : Int))) ||
      (d.block != 0 && decide ((lo : Int) ≤ d.scaleAt (blkSoff r.block) p.drow p.dk) &&
        decide (d.scaleAt (blkSoff r.block) p.drow p.dk < (hi : Int)))

/-- Twin-flag requests of an address space, outstanding or saved with a team, that name a destination page of a region (R107 step 2, R113). -/
def State.twinBusy (s : State) (asid base len : Nat) : Bool :=
  let names := fun (r : CopyReq) => blkTwin r.block && r.touches base (base + len)
  (s.copies.any fun r => names r && ((s.group r.group).map fun g => s.asidOf g == asid).getD false) ||
    s.saved.any fun x => match x with
      | some v => ((s.launch v.team.launch).map fun l => l.live && l.asid == asid).getD false && v.copies.any names
      | none => false

/-- The leaves of a twin region, each once: the address of its entry, and the entry. -/
def State.twinLeaves (s : State) (asid : Nat) (pages : List Nat) : List (Nat × DWord) :=
  (pages.filterMap fun a => match s.twinPage asid a with | .twin pe e => some (pe, e) | _ => none).eraseDups

/-- TA toggles in every leaf of a region, and the translations of its pages are invalidated (R107 step 3); a 512 MiB leaf toggles for all of its pages. -/
def State.flipRegion (s : State) (asid : Nat) (pages : List Nat) : State :=
  pages.foldl (fun s a => s.invalidate asid (a / 65536) 1) ((s.twinLeaves asid pages).foldl (fun s x => s.writePA x.1 8 (x.2 ^^^ 0x8000).toNat false) s)

/-- An access of an address space through a translation already made is under way (R53): to another package, by a lane, an engine or the hub, or the data of a commit that its
husk unit holds (R360). -/
def State.accessesOpen (s : State) (asid : Nat) : Bool :=
  (s.remote.any fun r => match r.for_ with
    | .lanes g _ | .reads g _ _ _ => ((s.group g).map fun x => s.asidOf x == asid).getD false
    | .copy core _ => s.copies.any fun c => c.core == core && c.tags.contains r.tag && ((s.group c.group).map fun x => s.asidOf x == asid).getD false
    | .signal a _ | .hub a _ => a == asid
    | .pod team _ _ => (((s.team team).bind fun t => s.launch t.launch).map fun l => l.asid == asid).getD false
    | .packetWait a _ _ => a == asid
    | .drain _ => false) ||
  s.resident.any fun e => s.asidOf e.2 == asid && ((e.2.husk.bind Husk.commit).bind Commit.pa).isSome

/-- PUBLISH_FLIP (R107): every access through the old translations has been performed before the flip (R53). -/
def execPublishFlip (n : Nat) (s : State) : Host.Outcome State Fault Refusal :=
  .next (match s.group n with
    | none => s
    | some g =>
      match g.asleep with
      | some (.publish slot base len) =>
        let asid := s.asidOf g
        let pages := regionPages base len
        if s.twinBusy asid base len || s.accessesOpen asid || pages.any fun a => s.twinPage asid a == .frozen then s
        else ((s.flipRegion asid pages).endSafe g).wake n slot 1
      | _ => s)

end Sys2Proof.Machine
end

