-- ==== Sys2Proof/Machine/HuskUnit.lean ====
section
/-! DEFINITION. Husks (R352 to R373): the lock block as its husk unit reads and writes it, the four instructions, the commit, orphans,
adoption, delivery and the purge. Requests to a unit are steps, so the unit serialises them (R360, R373). -/

namespace Sys2Proof.Machine

/-! ### The lock block (R352, R353) -/

/-- HELD, ORPH and ADOPTING of word 0, its step and its epoch. -/
def lkHeld (w : Nat) : Bool := w % 2 == 1
def lkOrph (w : Nat) : Bool := w / 2 % 2 == 1
def lkAdopting (w : Nat) : Bool := w / 4 % 2 == 1
def lkStep (w : Nat) : Nat := w / 256 % 32
def lkEpoch (w : Nat) : Nat := w / 2 ^ 32 % 2 ^ 32
/-- Word 0 from its fields. -/
def lkHead (epoch step : Nat) (held orph adopting : Bool) : Nat :=
  epoch % 2 ^ 32 * 2 ^ 32 + step * 256 + (if held then 1 else 0) + (if orph then 2 else 0) + (if adopting then 4 else 0)

/-- Registers that a mask names, in ascending order. -/
def maskRegs (m : Word) : List Nat := (List.range 32).filter fun k => m.getLsbD k
/-- Fields of word 3: mask, nres, preds, icount, asid. -/
def lkMask (w : Nat) : Word := BitVec.ofNat 32 w
def lkNres (w : Nat) : Nat := w / 2 ^ 32 % 8
def lkPreds (w : Nat) : Nat := w / 2 ^ 36 % 16
def lkIcount (w : Nat) : Nat := w / 2 ^ 40 % 512
def lkAsid (w : Nat) : Nat := w / 2 ^ 52 % 4096
/-- Word 3 from its fields. -/
def lkInfo (mask : Word) (nres preds icount asid : Nat) : Nat :=
  mask.toNat + nres * 2 ^ 32 + preds * 2 ^ 36 + icount * 2 ^ 40 + asid * 2 ^ 52

/-- Key and status of result slot j, by word. -/
def State.slotKey (s : State) (pa j : Nat) : Nat := s.lockWord pa (16 + 4 * j)
def State.slotStatus (s : State) (pa j : Nat) : Nat := s.lockWord pa (19 + 4 * j)
/-- The lowest slot with a key. -/
def State.slotWith (s : State) (pa key : Nat) : Option Nat := (List.range 4).find? fun j => s.slotKey pa j == key

/-- The second and third words of a descriptor have a reserved bit set: base [63:51], perm [15:8] (R68). -/
def descBad (w1 w2 : Nat) : Bool := w1 / 2 ^ 51 != 0 || w2 / 2 ^ 56 != 0

/-- A lock block is malformed (R353). -/
def State.lockBad (s : State) (pa : Nat) : Bool :=
  let w0 := s.lockWord pa 0
  let w3 := s.lockWord pa 3
  let pop := (maskRegs (lkMask w3)).length
  w0 / 8 % 32 != 0 || w0 / 2 ^ 13 % 2 ^ 19 != 0 || s.lockWord pa 2 / 2 ^ 51 != 0 || w3 / 2 ^ 49 % 8 != 0 || w3 / 2 ^ 35 % 2 != 0 ||
    descBad (s.lockWord pa 9) (s.lockWord pa 10) || descBad (s.lockWord pa 12) (s.lockWord pa 13) || s.lockWord pa 15 != 0 || 16 < lkStep w0 || 4 < lkNres w3 || pop < lkNres w3 || (lkHeld w0 && 8 < pop) ||
    (List.range 4).any fun j =>
      s.slotStatus pa j / 2 ^ 51 % 2 ^ 11 != 0 || (s.slotStatus pa j / 2 ^ 63 == 1 && s.slotKey pa j == 0)

/-- A descriptor as the three words of R68. -/
def descWords (d : Desc) : List Nat := [d.pointer.toNat, d.base.toNat, d.length.toNat + d.perm.toNat * 2 ^ 48]
/-- A descriptor from three words. -/
def descOf (w0 w1 w2 : Nat) : Desc := ⟨BitVec.ofNat 64 w0, BitVec.ofNat 64 w1, BitVec.ofNat 48 w2, BitVec.ofNat 16 (w2 / 2 ^ 48)⟩

/-- Words of a lock block written from word k on. -/
def State.setLockWords (s : State) (pa : Nat) : Nat → List Nat → State
  | _, [] => s
  | k, v :: rest => (s.setLockWord pa k v).setLockWords pa (k + 1) rest

/-- Register values written as 4-byte entries from a byte offset on, with their poison (R142). -/
def State.putRegs (s : State) (at_ : Nat) : List (Word × Bool) → State
  | [] => s
  | v :: rest => (s.writePA at_ 4 v.1.toNat v.2).putRegs (at_ + 4) rest

/-- The checkpoint values of a lock block: 8 entries, zero past the values given. -/
def State.putCregs (s : State) (pa : Nat) (vals : List (Word × Bool)) : State :=
  (s.writePA (pa + 0x20) 32 0 false).putRegs (pa + 0x20) vals

/-- n checkpoint values. -/
def State.getCregs (s : State) (pa n : Nat) : List (Word × Bool) :=
  (List.range n).map fun k => (BitVec.ofNat 32 (s.readPA (pa + 0x20 + 4 * k) 4), s.poisonedPA (pa + 0x20 + 4 * k) 4)

/-- The lock freed (R361): HELD, ORPH, ADOPTING, step, hkey and akey are cleared. -/
def State.freeLock (s : State) (pa : Nat) : State :=
  ((s.setLockWord pa 0 (lkHead (lkEpoch (s.lockWord pa 0)) 0 false false false)).setLockWord pa 1 0).setLockWord pa 14 0

/-- A group key belongs to a group that is resident or saved. One that does not may still live in the image of a stopped launch. -/
def State.keyLive (s : State) (key : Nat) : Bool :=
  (s.resident.any fun e => e.2.key.toNat == key) ||
    s.saved.any fun x => match x with | some v => v.groups.any fun g => g.key.toNat == key | none => false

/-! ### The capsule lane -/

/-- A lane's values of the registers of a mask. -/
def Group.maskVals (g : Group) (m : Word) (lane : Nat) : List (Word × Bool) := (maskRegs m).map fun r => g.rdp r lane
/-- p0 to p3 of a lane. -/
def Group.lanePreds (g : Group) (lane : Nat) : Nat :=
  (List.range 4).foldl (fun acc k => if (Tbl.get 0 g.p k).getLsbD lane then acc + 2 ^ k else acc) 0

/-- Some of p0 to p3 is poisoned in a lane: a husk instruction takes them as operands (R143). -/
def Group.predsBad (g : Group) (lane : Nat) : Bool := (List.range 4).any fun k => (Tbl.get 0 g.pPoison k).getLsbD lane

/-- Writes of one lane's registers, in order. -/
def laneWrites (lane : Nat) (regs : List Nat) (vals : List (Word × Bool)) : List Write :=
  (regs.zip vals).map fun x => .lanes x.1 ((List.range 64).map fun i => if i == lane then x.2 else (0, false))
/-- Writes of one lane's p0 to p3 (the mask of a write keeps the others). -/
def predWrites (preds : Nat) : List Write :=
  (List.range 4).map fun k => .pred (BitVec.ofNat 3 k) (if preds / 2 ^ k % 2 == 1 then BitVec.allOnes 64 else 0) 0
/-- Writes of a lane's capsule state: registers, p0 to p3, a0 and a1 (R363). -/
def capsuleWrites (lane : Nat) (m : Word) (vals : List (Word × Bool)) (preds : Nat) (a0 a1 : Desc) : List Write :=
  laneWrites lane (maskRegs m) vals ++ predWrites preds ++ [.a 0 a0, .a 1 a1]
/-- Writes of results and of 0 to the other capsule registers (R361, R365). -/
def resultWrites (lane : Nat) (m : Word) (nres : Nat) (vals : List (Word × Bool)) : List Write :=
  laneWrites lane ((maskRegs m).take nres) vals ++
    laneWrites lane ((maskRegs m).drop nres) (List.replicate 32 (0, false))

/-- The physical address of a group's lock block, where it translates to this package; a look that changes nothing. -/
def State.huskPA (s : State) (g : Group) (va : Nat) : Option Nat :=
  match s.walk (s.asidOf g) va with
  | .leaf _ e big => if s.isLocal (leafPA e big va) then some (leafPA e big va) else none
  | _ => none

/-- The physical address of a group's lock block for a request that writes it: the walk sets AC and DT (R52), and a page that is absent is posted to the Sheaf. -/
def State.huskReach (s : State) (g : Group) (va : Nat) : Option Nat × State :=
  match s.translateHub (s.asidOf g) va true with
  | (.ok pa _ _, s1) => (if s1.isLocal pa then some pa else none, s1)
  | (.fault, s1) => (none, s1.postFault (s.asidOf g) va .atomic false)
  | (.malformed, s1) => (none, s1.postFault (s.asidOf g) va .atomic true)
  | (.frozen, s1) => (none, s1)

/-- The PC of the path or entry that holds a lane, at program level, replaced (R363, R365); a LOOP of the capsule is left. -/
def Group.setLanePc (g : Group) (lane : Nat) (pc : DWord) : Group :=
  let on := fun (p : Option Path) => p.map fun q => if q.mask.getLsbD lane then { q with pc := pc, loop := none, slice := none, wait := none } else q
  let g1 : Group :=
    if g.trap.level then
      let at_ := fun (k : SlotId) (p : Option Path) => g.trap.slot == k && (p.map fun q => q.mask.getLsbD lane).getD false
      { g with trap := { g.trap with
          savedA := on g.trap.savedA
          savedB := on g.trap.savedB
          pc := if at_ .a g.trap.savedA || at_ .b g.trap.savedB then pc else g.trap.pc } }
    else { g with slotA := on g.slotA, slotB := on g.slotB }
  { g1 with stack := g1.stack.map fun e => if e.kind != .join && e.mask.getLsbD lane then { e with pc := pc } else e }

/-- A group at trap level whose adoption has been aborted: its lane and TRAPPC are at the adopter's HENTER (R368). -/
def Group.leaveFor (g : Group) (lane : Nat) (henter : DWord) : Group :=
  let g1 := g.setLanePc lane henter
  { g1 with trap := { g1.trap with pc := henter } }

/-- The group runs a husk, its own or an adoption (R356 check 2). -/
def Group.inHusk (g : Group) : Bool := (g.husk.map fun h => h.inside || h.adopt).getD false
/-- The capsule slot issues nothing until the unit has answered or the orphan is resolved (R359, R360, R362). -/
def Husk.stalled (h : Husk) : Bool := h.desched || h.orphd || h.waitd || h.commit.isSome
/-- A husk instruction waits for accesses under way and for an orphan to be resolved (R61, R355, R362). -/
def Ctx.huskHolds (c : Ctx) : Bool :=
  !c.g.log.isEmpty || !c.g.remote.isEmpty || (c.g.husk.map Husk.stalled).getD false
/-- Registers of a mask with a source lock (R148). -/
def Group.maskLocked (g : Group) (m : Word) : Bool := (maskRegs m).any fun r => (g.vreg r).locks != 0

/-! ### HENTER (R355, R356, R363) -/

/-- What a HENTER's request finds (R356). -/
inductive LockFate
  | bad
  | free
  | adopt (slot : Nat)
  | sleep
  deriving DecidableEq, Repr

/-- The answer of the unit (R356, R373). A lock whose holder is dead is adopted as any other (R367). -/
def State.lockFate (s : State) (pa asid : Nat) : LockFate :=
  let w0 := s.lockWord pa 0
  let hkey := s.lockWord pa 1
  if s.lockBad pa then .bad
  else if !lkHeld w0 then .free
  else if lkOrph w0 && !lkAdopting w0 && lkAsid (s.lockWord pa 3) == asid then
    match s.slotWith pa hkey, s.slotWith pa 0 with
    | some j, _ => .adopt j
    | none, some j => .adopt j
    | none, none => .sleep
  else .sleep

/-- The lock acquired (R356): the block, and the group inside its capsule at the word after the extension word. -/
def Ctx.acquire (c : Ctx) (i : Instr) (vd : BitVec 6) (nres : Nat) (mask : Word) (va pa lane : Nat) (s : State) (g : Group) : Res :=
  let epoch := lkEpoch (s.lockWord pa 0) + 1
  let cpc := c.pc + 8
  match s.writeRegs c.n (Mask.bit lane) false (laneWrites lane [vd.toNat] [(BitVec.ofNat 32 g.adopted, false)]) with
  | .trap t s1 => .trap t s1
  | .wait s1 w r => c.waitRegen i s1 w r
  | .ok s1 g1 =>
    let s2 := (((s1.setLockWord pa 0 (lkHead epoch 0 true false false)).setLockWord pa 1 g.key.toNat).setLockWord pa 14 0).setLockWords pa 2
      [cpc.toNat, lkInfo mask nres (g.lanePreds lane) 0 (s.asidOf g)]
    let s3 := (s2.putCregs pa (g.maskVals mask lane)).setLockWords pa 8 (descWords (g.areg 0) ++ descWords (g.areg 1))
    let h : Husk := ⟨va, true, false, false, false, lane, BitVec.ofNat 32 epoch, mask, nres, 0, 0, c.pc, 4, 0, [], 0,
      Desc.null, Desc.null, false, none⟩
    .ok (c.advance i ({ s3 with huskLocks := addNat s3.huskLocks pa }.setGroup c.n
      { g1 with husk := some h, deliv := false, abort := false, adopted := 0 }))

/-- The orphan adopted (R363): a slot is reserved, the lane's state stashed and the checkpoint loaded. -/
def Ctx.adopt (c : Ctx) (i : Instr) (va pa lane slot : Nat) (s : State) (g : Group) : Res :=
  let w0 := s.lockWord pa 0
  let w3 := s.lockWord pa 3
  let mask := lkMask w3
  let regs := maskRegs mask
  let cpc := BitVec.ofNat 64 (s.lockWord pa 2)
  let wd := s.lockWord pa
  if g.maskLocked mask then .hold s
  else match s.materializeAll g regs with
    | .trap t s1 => .trap t s1
    | .wait s1 w r => c.waitRegen i s1 w r
    | .ok s0 g0 =>
      let writes := capsuleWrites lane mask (s.getCregs pa regs.length) (lkPreds w3) (descOf (wd 8) (wd 9) (wd 10)) (descOf (wd 11) (wd 12) (wd 13))
      match (s0.setGroup c.n g0).writeRegs c.n (Mask.bit lane) false writes with
      | .trap t s1 => .trap t s1
      | .wait s1 w r => c.waitRegen i s1 w r
      | .ok s1 g1 =>
        let s2 := if s1.slotKey pa slot == 0 then (s1.setLockWord pa (16 + 4 * slot) (s1.lockWord pa 1)).setLockWord pa (19 + 4 * slot) 0 else s1
        let s3 := (s2.setLockWord pa 0 (lkHead (lkEpoch w0 + 1) (lkStep w0) true false true)).setLockWord pa 14 g.key.toNat
        let h : Husk := ⟨va, false, true, false, false, lane, BitVec.ofNat 32 (lkEpoch w0 + 1), mask, lkNres w3, lkIcount w3, lkStep w0,
          c.pc, slot, mask, g0.maskVals mask lane, BitVec.ofNat 4 (g0.lanePreds lane), g0.areg 0, g0.areg 1, false, none⟩
        .ok (c.goto ({ s3 with huskLocks := addNat s3.huskLocks pa }.setGroup c.n
          { g1 with husk := some h, deliv := false, abort := false }) cpc)

/-- What a HENTER gives, its count of completed adoptions dropped where it traps: the count belongs to one HENTER alone (R356). -/
def Ctx.henterOver (c : Ctx) : Res → Res
  | .trap t s => .trap t (c.setG s fun g => { g with adopted := 0 })
  | x => x

/-- HENTER (R356). A poisoned register of its mask or a poisoned p0 to p3 traps (R143); a page fault of the lock block's page enters the operand log (R60). -/
def execHenter (h : Hdr) (vd : BitVec 6) (an : BitVec 4) (nres : BitVec 3) (mask : Word) (s : State) :
    Host.Outcome State Fault Refusal :=
  issue (.henter h vd an nres mask) s fun c => c.henterOver <|
    let i : Instr := .henter h vd an nres mask
    let d := c.g.areg an
    let lane := c.low
    let ws := c.s.wsOf c.g
    let ea := effAddr d ws lane 0
    let perm := d.perm
    if c.g.trap.level then .trap ⟨Cause.badForm, wordInfo i⟩ c.s
    else if c.huskHolds then .hold c.s
    else if c.g.inHusk then .trap ⟨Cause.huskForbidden, wordInfo i⟩ c.s
    else if c.act.count != 1 then .trap ⟨Cause.huskMask, c.act.toNat⟩ c.s
    else if !(perm.getLsbD 0 && perm.getLsbD 1 && perm.getLsbD 3 && !perm.getLsbD 6) then .trap ⟨Cause.addrPerm, infoOf ea⟩ c.s
    else if d.pointer.toNat % 256 != 0 then .trap ⟨Cause.misalign, infoOf ea⟩ c.s
    else if !inBounds d ws lane 256 ea then .trap ⟨Cause.addrLimit, infoOf ea⟩ c.s
    else
      let va := ea.toNat
      match c.s.translate (c.s.coreOf c.g) (c.s.asidOf c.g) va true with
      | (.ok pa pte _, s1) =>
        if !s1.isLocal pa then .trap ⟨Cause.huskRemote, va⟩ s1
        else if !pagePermits pte .atomic then .trap ⟨Cause.addrPerm, va⟩ s1
        else
          (match s1.materializeAll c.g (maskRegs mask) with
          | .trap t s2 => .trap t s2
          | .wait s2 w r => c.waitRegen i s2 w r
          | .ok s2 g2 =>
            if (g2.maskVals mask lane).any Prod.snd || g2.predsBad lane then .trap ⟨Cause.poison, lane⟩ c.s
            else
              let s3 := s2.setGroup c.n g2
              match s3.lockFate pa (s3.asidOf g2) with
              | .bad => .trap ⟨Cause.huskForbidden, va⟩ s3
              | .free => c.acquire i vd nres.toNat mask va pa lane s3 g2
              | .adopt slot => c.adopt i va pa lane slot s3 g2
              | .sleep => .hold (c.setG s3 fun g => { g with asleep := some (.henter c.slot) }))
      | (.fault, s1) => c.logHold i (s1.postFault (s1.asidOf c.g) va .atomic false) va .again true
      | (.malformed, s1) => c.logHold i (s1.postFault (s1.asidOf c.g) va .atomic true) va .again true
      | (.frozen, s1) => c.logHold i s1 va .again true

/-- A sleeping HENTER's address register and lane, from the word at its PC. -/
def State.henterLock (s : State) (g : Group) (slot : SlotId) : Option Nat :=
  (g.slot slot).bind fun p =>
    match s.walk (s.asidOf g) p.pc.toNat with
    | .leaf _ e big =>
      let w := BitVec.ofNat 32 (s.readPA (leafPA e big p.pc.toNat) 4)
      let d := g.areg (w.extractLsb' 8 4)
      s.huskPA g (effAddr d (s.wsOf g) ((g.active p).lowest.getD 0) 0).toNat
    | _ => none

/-- HENTER_WAKE (R356): a release, an orphan or a freed slot lets a sleeping HENTER make its request again. -/
def execHenterWake (n : Nat) (s : State) : Host.Outcome State Fault Refusal :=
  .next (match s.group n with
    | none => s
    | some g =>
      match g.asleep with
      | some (.henter slot) =>
        (match s.henterLock g slot with
        | some pa => if s.lockFate pa (s.asidOf g) == .sleep then s else s.setGroup n { g with asleep := none }
        | none => s.setGroup n { g with asleep := none })
      | _ => s)

/-! ### HSTORE and the commit (R359, R360) -/

/-- A commit request as the lane captures it. -/
def Husk.request (h : Husk) (g : Group) (bytes data : Nat) (cpc : DWord) (pa : Option Nat) : Commit :=
  ⟨pa, bytes, data, cpc, h.epoch, h.step + 1, h.icount + 1, g.lanePreds h.lane, g.maskVals h.mask h.lane⟩

/-- The husk of the group replaced. -/
def Group.setHusk (g : Group) (f : Husk → Husk) : Group := { g with husk := g.husk.map f }

/-- HSTORE (R359). -/
def execHstore (hd : Hdr) (sz : HSize) (vs : BitVec 6) (an : BitVec 4) (vo : BitVec 6) (s : State) :
    Host.Outcome State Fault Refusal :=
  issue (.hstore hd sz vs an vo) s fun c =>
    let i : Instr := .hstore hd sz vs an vo
    let n := ((memOpOf i).map MemOp.bytes).getD 1
    if c.g.trap.level then .trap ⟨Cause.badForm, wordInfo i⟩ c.s
    else match c.g.capsule c.slot with
      | none => .trap ⟨Cause.huskForbidden, wordInfo i⟩ c.s
      | some h =>
        if c.huskHolds then .hold c.s
        else c.withForm i fun s view =>
          match s.checkGlobal view [h.lane] (view.areg an) vo (.store n) (storeData view vs n) with
          | .error t => .trap t s
          | .ok accs =>
            if (accs.any fun a => a.poison != 0) || view.predsBad h.lane then .trap ⟨Cause.poison, h.lane⟩ s
            else
              let data := ((accs.head?).map fun a => a.data.toNat).getD 0
              match s.resolve (s.coreOf c.g) (s.asidOf c.g) .store accs with
              | .refused ea s1 => .trap ⟨Cause.addrPerm, ea⟩ s1
              | .poison _ s1 => .trap ⟨Cause.huskRemote, ((accs.head?).map LaneAcc.ea).getD 0⟩ s1
              | .wait s1 pages =>
                if c.logFull then .hold s
                else .ok (c.setG (c.enterLog i s1 accs pages) fun g =>
                  g.setHusk fun h => { h with commit := some (h.request view n data (c.pc + 4) none) })
              | .ok s1 at_ =>
                (match at_ with
                | (a, pa) :: _ =>
                  if !s1.isLocal pa then .trap ⟨Cause.huskRemote, a.ea⟩ s1
                  else .ok (c.advance i (c.setG (s1.endSafe c.g) fun g =>
                    g.setHusk fun h => { h with commit := some (h.request view n data (c.pc + 4) (some pa)) }))
                | [] => c.done i s1)

/-- The commit answered (R360). -/
def State.huskCommit (s : State) (n : Nat) : State :=
  match s.group n with
  | none => s
  | some g =>
    match g.husk with
    | none => s
    | some h =>
      match h.commit, h.commit.bind Commit.pa with
      | some c, some pa =>
        (match s.huskReach g h.lock with
        | (none, s) => s
        | (some lock, s) =>
          let w0 := s.lockWord lock 0
          let same := lkEpoch w0 == c.epoch.toNat
          if same && c.step == lkStep w0 + 1 then
            let w3 := s.lockWord lock 3
            let s1 := (s.setLockWord lock 2 c.cpc.toNat).setLockWord lock 3
              (lkInfo (lkMask w3) (lkNres w3) c.preds c.icount (lkAsid w3))
            let s2 := ((s1.putCregs lock c.vals).writePA pa c.bytes c.data false).setLockWord lock 0
              (lkHead (lkEpoch w0) c.step (lkHeld w0) (lkOrph w0) (lkAdopting w0))
            s2.setGroup n (g.setHusk fun h => { h with commit := none, step := c.step })
          else if same && c.step == lkStep w0 then s.setGroup n (g.setHusk fun h => { h with commit := none, step := c.step })
          else s.setGroup n (g.setHusk fun h => { h with commit := none, waitd := true }))
      | _, _ => s

/-- HUSK_COMMIT (R360). -/
def execHuskCommit (n : Nat) (s : State) : Host.Outcome State Fault Refusal := .next (s.huskCommit n)

/-! ### HEXIT and HABORT (R361, R363, R368) -/

/-- The results of an adoption go to the holder's slot, where it is still the holder's (R363 step 5, R368); those for a holder that a purge has named are discarded, and the
slot is free again (R367). -/
def State.fillSlot (s : State) (pa slot : Nat) (vals : List (Word × Bool)) (rpc : Nat) (abort : Bool) : State :=
  if slot < 4 && s.slotKey pa slot == s.lockWord pa 1 then
    if s.purged.contains (s.lockWord pa 1) then (s.setLockWord pa (16 + 4 * slot) 0).setLockWord pa (19 + 4 * slot) 0 else
    let at_ := pa + 0x80 + 32 * slot
    let s1 := (s.writePA (at_ + 8) 16 0 false).putRegs (at_ + 8) vals
    s1.setLockWord pa (19 + 4 * slot) (rpc % 2 ^ 51 + (if abort then 2 ^ 62 else 0) + 2 ^ 63)
  else s

/-- HEXIT (R361). -/
def execHexit (hd : Hdr) (s : State) : Host.Outcome State Fault Refusal :=
  issue (.hexit hd) s fun c =>
    let i : Instr := .hexit hd
    if c.g.trap.level then .trap ⟨Cause.badForm, wordInfo i⟩ c.s
    else match c.g.capsule c.slot with
      | none => .trap ⟨Cause.huskForbidden, wordInfo i⟩ c.s
      | some h =>
        if c.huskHolds || c.g.maskLocked h.mask then .hold c.s
        else match c.s.huskReach c.g h.lock with
          | (none, s) => c.logHold i s h.lock .again true
          | (some pa, s) =>
            if lkEpoch (s.lockWord pa 0) != h.epoch.toNat then
              .hold (c.setG s fun g => g.setHusk fun h => { h with waitd := true })
            else
              let vals := c.g.maskVals h.mask h.lane
              let ws := if h.inside then laneWrites h.lane ((maskRegs h.mask).drop h.nres) (List.replicate 32 (0, false))
                else capsuleWrites h.lane h.smask h.sregs h.spreds.toNat h.sa0 h.sa1
              match s.writeRegs c.n (Mask.bit h.lane) false ws with
              | .trap t s1 => .trap t s1
              | .wait s1 w r => c.waitRegen i s1 w r
              | .ok s1 g1 =>
                if h.inside then .ok (c.advance i ((s1.freeLock pa).setGroup c.n { g1 with husk := none }))
                else
                  let s2 := (s1.fillSlot pa h.dispos (vals.take h.nres) (c.pc + 4).toNat false).freeLock pa
                  .ok (c.goto (s2.setGroup c.n { g1 with husk := none, adopted := g1.adopted + 1 }) h.henter)

/-- HABORT (R368). -/
def execHabort (hd : Hdr) (s : State) : Host.Outcome State Fault Refusal :=
  issue (.habort hd) s fun c =>
    let i : Instr := .habort hd
    if !c.g.trap.level then .trap ⟨Cause.huskForbidden, wordInfo i⟩ c.s
    else match c.g.husk with
      | none => c.done i c.s
      | some h =>
        if c.huskHolds || (h.adopt && c.g.maskLocked h.smask) then .hold c.s
        else match c.s.huskReach c.g h.lock with
          | (none, s) => c.logHold i s h.lock .again true
          | (some pa, s) =>
            if lkEpoch (s.lockWord pa 0) != h.epoch.toNat then
              .hold (c.setG s fun g => g.setHusk fun h => { h with waitd := true })
            else if h.inside then c.done i (c.setG (s.freeLock pa) fun g => { g with husk := none })
            else
              match s.writeRegs c.n (Mask.bit h.lane) false
                (capsuleWrites h.lane h.smask h.sregs h.spreds.toNat h.sa0 h.sa1) with
              | .trap t s1 => .trap t s1
              | .wait s1 w r => c.waitRegen i s1 w r
              | .ok s1 g1 =>
                c.done i (((s1.fillSlot pa h.dispos [] 0 true).freeLock pa).setGroup c.n
                  (Group.leaveFor { g1 with husk := none, adopted := 0 } h.lane h.henter))

/-! ### Orphans, return and purge (R362, R365 to R367) -/

/-- The unit takes a group's orphan request (R362). -/
def State.orphanLock (s : State) (pa key : Nat) : State :=
  let w := s.lockWord pa 0
  if lkHeld w && s.lockWord pa 1 == key then s.setLockWord pa 0 (lkHead (lkEpoch w) (lkStep w) true true (lkAdopting w))
  else if lkAdopting w && s.lockWord pa 14 == key then
    (s.setLockWord pa 0 (lkHead (lkEpoch w) (lkStep w) (lkHeld w) true false)).setLockWord pa 14 0
  else s

/-- A group's orphan request is sent and taken (R362). -/
def State.sendOrphan (s : State) (g : Group) : State × Group :=
  match g.husk with
  | none => (s, g)
  | some h =>
    if h.orphd || h.waitd then (s, g)
    else
      match s.huskReach g h.lock with
      | (none, s1) => (s1, g)
      | (some pa, s1) => (s1.orphanLock pa g.key.toNat, g.setHusk fun h => { h with orphd := true, desched := false })

/-- HUSK_ORPHAN_REQUEST (R362). -/
def execHuskOrphanRequest (n : Nat) (s : State) : Host.Outcome State Fault Refusal :=
  .next (match s.group n with
    | none => s
    | some g =>
      if (g.husk.map Husk.desched).getD false then
        let r := s.sendOrphan g
        r.1.setGroup n r.2
      else s)

/-- The oldest operand-log entry has waited longer than the orphan threshold (R65). -/
def State.logOverdue (s : State) (g : Group) : Bool := (g.log.head?.map fun e => decide (e.due < s.cycle)).getD false

/-- ORPHAN_THRESHOLD (R65): a group inside a husk then counts as descheduled. -/
def execOrphanThreshold (n : Nat) (s : State) : Host.Outcome State Fault Refusal :=
  .next (match s.group n with
    | none => s
    | some g =>
      if s.logOverdue g then s.setGroup n (g.setHusk fun h => if h.orphd || h.waitd then h else { h with desched := true }) else s)

/-- Operand-log entries and pending answers of the capsule lane dropped (R365 step 3). -/
def Group.dropLane (g : Group) (lane : Nat) : Group :=
  { g with
    log := g.log.filter fun e => !e.mask.getLsbD lane
    remote := g.remote.filter fun r => !r.mask.getLsbD lane }

/-- Delivery to a displaced holder (R365); it waits while a register that it writes is locked (R148). -/
def State.deliver (s : State) (n : Nat) (g : Group) (h : Husk) (pa slot : Nat) : State :=
  let st := s.slotStatus pa slot
  let abort := st / 2 ^ 62 % 2 == 1
  let at_ := pa + 0x80 + 32 * slot + 8
  let vals := (List.range h.nres).map fun k =>
    if abort then (0, false) else (BitVec.ofNat 32 (s.readPA (at_ + 4 * k) 4), s.poisonedPA (at_ + 4 * k) 4)
  if g.maskLocked h.mask then s
  else match s.writeRegs n (Mask.bit h.lane) false (resultWrites h.lane h.mask h.nres vals) with
  | .trap _ s1 => s1
  | .wait s1 w _ => s1.pendFor n w
  | .ok s1 g1 =>
    let cpc := BitVec.ofNat 64 (s1.lockWord pa 2)
    let g2 := ({ g1.dropLane h.lane with husk := none, deliv := true, abort := abort, l1Since := s.ticks }).setLanePc h.lane
      (if abort then cpc else BitVec.ofNat 64 (st % 2 ^ 51))
    let g3 : Group := if abort then { g2 with deferred := some ⟨Cause.huskForbidden, BitVec.ofNat 64 h.lock, cpc, false⟩ } else g2
    (((s1.setLockWord pa (16 + 4 * slot) 0).setLockWord pa (19 + 4 * slot) 0).setGroup n g3).fitRows n g.inRows

/-- An adoption abandoned (R363): the stash is restored, once no register that it writes is locked (R148), and the HENTER issues again. -/
def State.abandon (s : State) (n : Nat) (g : Group) (h : Husk) : State :=
  if g.maskLocked h.smask then s
  else match s.writeRegs n (Mask.bit h.lane) false
    (capsuleWrites h.lane h.smask h.sregs h.spreds.toNat h.sa0 h.sa1) with
  | .trap _ s1 => s1
  | .wait s1 w _ => s1.pendFor n w
  | .ok s1 g1 => (s1.setGroup n (({ g1.dropLane h.lane with husk := none }).setLanePc h.lane h.henter)).fitRows n g.inRows

/-- The unit's answer to a group that asks before it issues again (R363, R365, R366). -/
def State.holderAsks (s : State) (n : Nat) (g : Group) (h : Husk) (pa : Nat) : State :=
  let w := s.lockWord pa 0
  let same := lkEpoch w == h.epoch.toNat
  let goOn := g.setHusk fun h => { h with orphd := false, waitd := false, desched := false }
  if h.adopt then
    if !same then s.abandon n g h
    else if !lkAdopting w then
      ((s.setLockWord pa 0 (lkHead (lkEpoch w) (lkStep w) (lkHeld w) false true)).setLockWord pa 14 g.key.toNat).setGroup n goOn
    else s
  else if s.lockWord pa 1 == g.key.toNat && same && lkOrph w then
    (s.setLockWord pa 0 (lkHead (lkEpoch w) (lkStep w) (lkHeld w) false (lkAdopting w))).setGroup n goOn
  else match s.slotWith pa g.key.toNat with
    | some j =>
      if s.slotStatus pa j / 2 ^ 63 == 1 then s.deliver n g h pa j
      else s.setGroup n (g.setHusk fun h => { h with waitd := true })
    | none => s

/-- HOLDER_RETURN (R363, R365): once the stall of R362 has ended. -/
def execHolderReturn (n : Nat) (s : State) : Host.Outcome State Fault Refusal :=
  .next (match s.group n with
    | none => s
    | some g =>
      match g.husk with
      | none => s
      | some h =>
        if (h.orphd || h.waitd) && !s.logOverdue g && h.commit.isNone && g.deferred.isNone then
          (match s.huskReach g h.lock with
          | (some pa, s1) => s1.holderAsks n g h pa
          | (none, s1) => s1)
        else s)

/-- HUSK_PURGE (R367): a dead context's key is purged from every lock block. -/
def execHuskPurge (key : DWord) (s : State) : Host.Outcome State Fault Refusal :=
  .next (if s.keyLive key.toNat then s else s.purge key)

end Sys2Proof.Machine
end

