-- ==== Sys2Proof/Machine/RecipeInstr.lean ====
section
/-! DEFINITION. The meanings of MKRCP, RMAT, RSTAT, SCOPE, MFS and MTS (R149 to R190). -/

namespace Sys2Proof.Machine

/-! ### MKRCP (R150, R183) -/

/-- The lowest vector register that an instruction writes. -/
def vectorDest (i : Instr) : Option Nat := (vList (writes i).v).head?

/-- The instruction that ends at the last of a list of words, found from majors alone (R150): its place and its words. -/
def lastInstr : Nat → Nat → List Word → Option (Nat × Word × Word)
  | 0, _, _ => none
  | _ + 1, _, [] => none
  | k + 1, at_, w :: rest =>
    if rest.length + 1 == wordsOf w then some (at_, w, rest.headD 0)
    else lastInstr k (at_ + wordsOf w) (rest.drop (wordsOf w - 1))

/-- The second check of R150: word len ends a legal instruction whose vector destination is vd. -/
def sliceEnds (sects : List (Nat × Nat)) (first : Nat) (ws : List Word) (vd : BitVec 6) : Bool :=
  match lastInstr 9 0 ws with
  | none => false
  | some (k, w, e) =>
    match decode w e with
    | .error _ => false
    | .ok i =>
      let slot := match sectOf sects first with | some sc => (first + 4 * k - sc.1) / 4 % 3 | none => 0
      !(i.words == 2 && slot == 2) && vectorDest i == some vd.toNat

/-- The slice lies within one code section (R150). -/
def sliceInSection (sects : List (Nat × Nat)) (first n : Nat) : Bool :=
  match sectOf sects first with
  | some sc => first + 4 * n ≤ sc.1 + sc.2
  | none => false

/-- The slice reaches past the last word of the loop body that holds its MKRCP (R303). -/
def slicePastLoop (l : Option LoopRec) (first n : Nat) : Bool :=
  match l with
  | some l => decide (l.stop.toNat < first + 4 * n)
  | none => false

/-- MKRCP (R150, R183, R303): the slice's checks; then its first execution is recorded. -/
def execMkrcp (h : Hdr) (vd : BitVec 6) (n : BitVec 3) (s : State) : Host.Outcome State Fault Refusal :=
  issue (.mkrcp h vd n) s fun c =>
    let len := n.toNat + 1
    let first := c.pc.toNat + 4
    let bad : Trap := ⟨Cause.recipeBody, c.pc.toNat⟩
    let sects := c.s.sectsOf c.g
    if !sliceInSection sects first len || slicePastLoop c.path.loop first len then .trapAt bad (c.pc + 4) c.s
    else match c.fetchWords len first c.s with
      | .noExec s1 => .trapAt bad (c.pc + 4) s1
      | .wait w s1 => c.pend (.mkrcp h vd n) s1 w .again
      | .ok ws s1 =>
        if !sliceEnds sects first ws vd then .trapAt bad (c.pc + 4) s1
        else .ok (c.setPath (c.advance (.mkrcp h vd n) s1) fun p =>
          { p with slice := some ⟨c.pc, c.pc + 4, ws, vd, c.act, Pins.none, Pins.none, true⟩ })

/-! ### RMAT, RSTAT, SCOPE (R149, R184 to R187) -/

/-- A register that carries a recipe without being folded loses it (R184). -/
def Group.loseRecipe (g : Group) (r : Nat) : Group :=
  if (g.vreg r).hold == .folded then g else g.setVreg r { g.vreg r with recipe := none }

/-- RMAT (R184): the registers named are materialized in ascending order. -/
def Ctx.rmat (c : Ctx) (i : Instr) (rs : List Nat) (lose : Bool) : Res :=
  match c.s.materializeAll c.g rs with
  | .trap t s1 => .trap t s1
  | .wait s1 w r => c.waitRegen i s1 w r
  | .ok s1 g1 => c.done i (s1.setGroup c.n (if lose then rs.foldl Group.loseRecipe g1 else g1))

/-- RMAT vd (R184). -/
def execRmat (h : Hdr) (vd : BitVec 6) (s : State) : Host.Outcome State Fault Refusal :=
  issue (.rmat h vd) s fun c => c.rmat (.rmat h vd) [vd.toNat] ((c.g.vreg vd.toNat).hold != .folded)

/-- RMAT.ALL (R184). -/
def execRmatAll (h : Hdr) (s : State) : Host.Outcome State Fault Refusal :=
  issue (.rmatAll h) s fun c => c.rmat (.rmatAll h) (List.range 64) false

/-- The word that RSTAT gives (R185). -/
def rstatWord (r : VReg) : Word :=
  BitVec.ofNat 32 ((match r.hold with | .empty => 0 | .rows _ _ => 1 | .uniform _ _ => 2 | .folded => 3 | .spilled _ _ => 4)
    + (if r.recipe.isSome then 8 else 0) + (if r.locks != 0 then 16 else 0))

/-- RSTAT (R185): it reads how va is held, not va's values. -/
def execRstat (h : Hdr) (vd va : BitVec 6) (s : State) : Host.Outcome State Fault Refusal :=
  issue (.rstat h vd va) s fun c =>
    c.commit (.rstat h vd va) c.s (lanesEff h c.g c.act vd fun _ => (rstatWord (c.g.vreg va.toNat), false))

/-- Scopes that the stack holds (R149). -/
def scopeDepth : Nat := 8

/-- SCOPE.OPEN (R149, R187). -/
def execScopeOpen (h : Hdr) (vlo vhi : BitVec 6) (s : State) : Host.Outcome State Fault Refusal :=
  issue (.scopeOpen h vlo vhi) s fun c =>
    if scopeDepth ≤ c.g.scopes.length then .trap ⟨Cause.badForm, c.g.scopes.length⟩ c.s
    else c.done (.scopeOpen h vlo vhi) (c.setG c.s fun g => { g with scopes := (vlo, vhi) :: g.scopes })

/-- The registers of a range, as a set. -/
def rangeFoot (lo hi : BitVec 6) : Foot := Foot.vs lo (hi.toNat + 1 - lo.toNat)

/-- SCOPE.CLOSE (R149, R158, R187): folded registers that pin the range are materialized; then the range is EMPTY. It waits while a register of the
range is owed to an earlier instruction or locked (R36, R148). -/
def execScopeClose (h : Hdr) (s : State) : Host.Outcome State Fault Refusal :=
  issue (.scopeClose h) s fun c =>
    match c.g.scopes with
    | [] => .trap ⟨Cause.badForm, 0⟩ c.s
    | (lo, hi) :: rest =>
      if ((rangeFoot lo hi).v &&& c.g.busyV) != 0 then .hold c.s
      else match c.s.prepareWrite c.g (rangeFoot lo hi) c.g.all true with
      | .trap t s1 => .trap t s1
      | .wait s1 w r => c.waitRegen (.scopeClose h) s1 w r
      | .ok s1 g1 =>
        let g2 := (vList (rangeFoot lo hi).v).foldl (fun g r => g.setVreg r VReg.empty) { g1 with scopes := rest }
        c.done (.scopeClose h) (s1.setGroup c.n g2)

/-! ### MFS and MTS (R188 to R190) -/

/-- The husk status word (R370). -/
def Group.huskStat (g : Group) : Word :=
  let bit := fun (b : Bool) k => if b then 2 ^ k else 0
  let run := match g.husk with
    | some h => if h.inside || h.adopt then h.icount * 65536 + h.step * 256 + bit h.adopt 1 + bit h.inside 0 else 0
    | none => 0
  BitVec.ofNat 32 (run + bit g.deliv 2 + bit g.abort 3)

/-- The value of a special register in a lane (R189). -/
def State.special (s : State) (g : Group) (r : SReg) (lane : Nat) : DWord :=
  let team := (s.teamOf g)
  match r with
  | .laneid => BitVec.ofNat 64 lane
  | .groupid => BitVec.ofNat 64 g.gid
  | .teamid => ((team.map Team.teamId).getD 0).setWidth 64
  | .nodeid => BitVec.ofNat 64 ((team.map Team.node).getD 0)
  | .core => BitVec.ofNat 64 (s.coreOf g)
  | .quad => BitVec.ofNat 64 (levelInstance 1 (s.coreOf g))
  | .die => BitVec.ofNat 64 (levelInstance 2 (s.coreOf g))
  | .pkg => s.pkgId.setWidth 64
  | .nlanes => BitVec.ofNat 64 g.alive.count
  | .cycle => BitVec.ofNat 64 s.cycle
  | .heartbeat => BitVec.ofNat 64 s.heartbeats
  | .foldpol => g.foldpol.setWidth 64
  | .matcnt => g.matcnt.setWidth 64
  | .rngs => (g.rng lane).setWidth 64
  | .x0 => (g.xreg 0).setWidth 64
  | .x1 => (g.xreg 1).setWidth 64
  | .x2 => (g.xreg 2).setWidth 64
  | .trapcause => if g.trap.level then g.trap.cause.setWidth 64 else 0
  | .trappc => if g.trap.level then g.trap.pc else 0
  | .trapinfo => if g.trap.level then g.trap.info else 0
  | .huskstat => g.huskStat.setWidth 64

/-- MFS (R188). -/
def execMfs (h : Hdr) (vd : BitVec 6) (sr : SReg) (s : State) : Host.Outcome State Fault Refusal :=
  issue (.mfs h vd sr) s fun c =>
    let v := fun l => (c.s.special c.g sr l, false)
    c.commit (.mfs h vd sr) c.s
      (if sr.wide then pairEff h c.g c.act vd v else lanesEff h c.g c.act vd fun l => ((v l).1.setWidth 32, false))

/-- A write of a uniform special register from one value (R189). -/
def mtsWrite (tl : Bool) (sr : SReg) (x : DWord) : Except Trap (List Write) :=
  match sr with
  | .foldpol => if 3 ≤ x.toNat then .error ⟨Cause.badForm, x.toNat⟩ else .ok [.foldpol (x.setWidth 32)]
  | .matcnt => .ok [.matcnt (x.setWidth 32)]
  | .x0 => .ok [.x 0 (x.setWidth 16)]
  | .x1 => .ok [.x 1 (x.setWidth 16)]
  | .x2 => .ok [.x 2 (x.setWidth 16)]
  | .trappc => .ok (if tl then [.trappc x] else [])
  | .trapinfo => .ok (if tl then [.trapinfo x] else [])
  | _ => .ok []

/-- MTS's effect (R188, R189): RNGS lane by lane, every other register from the lowest active lane. -/
def effMts (g : Group) (act : Mask) (h : Hdr) (vd : BitVec 6) (sr : SReg) : Except Trap Eff :=
  match act.lowest with
  | none => .ok ⟨[], []⟩
  | some l =>
    let discarded := (sr == .trappc || sr == .trapinfo) && !g.trap.level
    let n := if sr.wide then 2 else 1
    let lanes := if sr == .rngs then partLanes h act else [l]
    match lanes.find? fun i => g.badN vd n i with
    | some i => if discarded then .ok ⟨[], []⟩ else .error ⟨Cause.poison, i⟩
    | none =>
      if sr == .rngs then .ok ⟨[.rngs (act.lanes.map fun i => (i, g.rd vd (if h.u then l else i)))], []⟩
      else (mtsWrite g.trap.level sr (if sr.wide then g.rd2 vd l else (g.rd vd l).setWidth 64)).map fun ws => ⟨ws, []⟩

/-- MTS (R188 to R190). -/
def execMts (h : Hdr) (vd : BitVec 6) (sr : SReg) (s : State) : Host.Outcome State Fault Refusal :=
  issue (.mts h vd sr) s fun c => c.runEff (.mts h vd sr) fun g act => effMts g act h vd sr

end Sys2Proof.Machine
end

