-- ==== Sys2Proof/Machine/Sys.lean ====
section
/-! DEFINITION. The meanings of TRAP, BKPT, TRET and ICINV (R337 to R339), the delivery of a decode fault and a fetch fault (R16, R32), and
what the group does when a fault of R64 ends it. -/

namespace Sys2Proof.Machine

/-- TRAP (R337): USER, with TRAPPC at the next word; without an active lane it has no effect. -/
def execTrap (h : Hdr) (imm : BitVec 12) (s : State) : Host.Outcome State Fault Refusal :=
  issue (.trap h imm) s fun c => if c.act == 0 then c.done (.trap h imm) c.s else .trapAt ⟨Cause.user, imm.toNat⟩ (c.pc + 4) c.s

/-- BKPT (R337): its own PC is TRAPPC; without an active lane it has no effect. -/
def execBkpt (h : Hdr) (imm : BitVec 12) (s : State) : Host.Outcome State Fault Refusal :=
  issue (.bkpt h imm) s fun c => if c.act == 0 then c.done (.bkpt h imm) c.s else .trap ⟨Cause.bkpt, imm.toNat⟩ c.s

/-- A saved path back in its slot: exited lanes leave its mask, and an empty path its slot (R338). -/
def Path.restored (alive : Mask) (p : Option Path) : Option Path :=
  p.bind fun q => if (q.mask &&& alive) == (0 : Mask) then none else some { q with mask := q.mask &&& alive }

/-- The loop record stays where a PC lies in [start, stop) (R304, R338). -/
def Path.loopAt (p : Path) (pc : DWord) : Option LoopRec :=
  p.loop.bind fun l => if l.start.toNat ≤ pc.toNat && pc.toNat < l.stop.toNat then some l else none

/-- The trapping path resumed at TRAPPC (R338). -/
def Path.resumed (p : Path) (pc : DWord) : Path := { p with pc := pc, loop := p.loopAt pc }

/-- The group after its handler returns (R338): the slots, the trapping one at TRAPPC, and level 0; the matrix work thaws (R249). -/
def Group.tret (g : Group) : Group :=
  let a := Path.restored g.alive g.trap.savedA
  let b := Path.restored g.alive g.trap.savedB
  let at_ := fun (k : SlotId) (p : Option Path) => if k = g.trap.slot then p.map fun q => q.resumed g.trap.pc else p
  { g with
    slotA := at_ .a a
    slotB := at_ .b b
    tstack := []
    trap := { g.trap with level := false, df := false, savedA := none, savedB := none }
    frozen := false }

/-- TRET (R338): outside trap level it is BAD_FORM; after a fault of R64 every lane ends (R64). -/
def execTret (h : Hdr) (s : State) : Host.Outcome State Fault Refusal :=
  issue (.tret h) s fun c =>
    if !c.g.trap.level then .trap ⟨Cause.badForm, wordInfo (.tret h)⟩ c.s
    else if c.g.trap.df then .ok (c.s.endGroup c.n c.g.trap.cause.toNat)
    else .ok (c.setG c.s Group.tret)

/-- A recipe's slice overlaps a range of addresses (R165). -/
def Recipe.overlaps (rc : Recipe) (lo hi : Nat) : Bool :=
  decide (rc.pc.toNat < hi) && decide (lo < rc.pc.toNat + 4 * rc.words.length)

/-- The registers of a group whose recipes overlap a range. -/
def Group.recipesIn (g : Group) (lo hi : Nat) : List Nat :=
  (List.range 64).filter fun r => ((g.vreg r).recipe.map fun rc => rc.overlaps lo hi).getD false

/-- Every group of an address space loses the recipes over a range, folded registers by materialization (R165); with a wait goes the group whose
register it is. -/
def State.dropCode (s : State) (asid lo hi : Nat) : List Nat → Nat × Regen
  | [] => (0, .ok s State.writeRegs.default0)
  | n :: rest =>
    match s.group n with
    | none => s.dropCode asid lo hi rest
    | some g =>
      let rs := g.recipesIn lo hi
      if s.asidOf g != asid || rs.isEmpty then s.dropCode asid lo hi rest
      else
        match s.materializeAll g rs with
        | .ok s1 g1 => State.dropCode ((s1.setGroup n (rs.foldl Group.loseRecipe g1)).fitRows n g.inRows) asid lo hi rest
        | x => (n, x)

/-- The instruction caches of the package without the words of a range of an address space (R339). -/
def State.dropCached (s : State) (asid lo hi : Nat) : State :=
  { s with icache := s.icache.filter fun x => !(x.2.1 == asid && lo < x.2.2.1 + 4 && x.2.2.1 < hi) }

/-- Two ranges of addresses meet. -/
def rangesMeet (lo hi lo' hi' : Nat) : Bool := decide (lo < hi') && decide (lo' < hi)

/-- What a path has taken of a range of code before it was invalidated (R165, R268, R305): a loop buffer over it finishes the iteration in progress and is
then filled anew, and a slice over it that is in its first execution yields no recipe. -/
def Path.staleCode (lo hi : Nat) (p : Path) : Path :=
  { p with
    loop := p.loop.map fun (l : LoopRec) => { l with old := l.old || rangesMeet lo hi l.start.toNat l.stop.toNat }
    slice := p.slice.map fun (r : SliceRun) =>
      { r with ok := r.ok && !rangesMeet lo hi r.first.toNat (r.first.toNat + 4 * r.words.length) } }

/-- A range of code of an address space invalidated for the paths of the groups on some cores. -/
def State.staleCode (s : State) (on : Nat → Bool) (asid lo hi : Nat) : State :=
  s.resident.foldl (fun s e =>
    if s.asidOf e.2 == asid && on (s.coreOf e.2) then
      s.setGroup e.1 { e.2 with slotA := e.2.slotA.map (Path.staleCode lo hi), slotB := e.2.slotB.map (Path.staleCode lo hi) }
    else s) s

/-- Every store that the group has issued has performed: none is logged, under way to another package, or to be made by an ACCST (R247). -/
def Group.storesDone (g : Group) : Bool :=
  (g.log.all fun e => e.kind != .access || !globalWrites e.instr) && !g.remoteWrites &&
    g.mx.all fun w => match w.instr with | .accst .. => false | _ => true

/-- ICINV over a range (R165, R268, R339): it completes once the group's stores have performed. -/
def Ctx.icinv (c : Ctx) (i : Instr) (lo hi : Nat) : Res :=
  let asid := c.s.asidOf c.g
  if !c.g.storesDone then .hold c.s
  else match c.s.dropCode asid lo hi (List.range c.s.groups.length) with
    | (_, .ok s1 _) => c.done i ((s1.dropCached asid lo hi).staleCode (fun _ => true) asid lo hi)
    | (_, .trap t s1) => .trap t s1
    | (n, .wait s1 (.remote k accs) _) => c.askRemote s1 n k accs true
    | (_, .wait s1 w _) => c.pend i s1 w .again

/-- ICINV [an] (R339). -/
def execIcinv (h : Hdr) (an : BitVec 4) (s : State) : Host.Outcome State Fault Refusal :=
  issue (.icinv h an) s fun c =>
    let d := c.g.areg an
    c.icinv (.icinv h an) d.base.toNat (d.base.toNat + d.length.toNat)

/-- ICINV.ALL (R339). -/
def execIcinvAll (h : Hdr) (s : State) : Host.Outcome State Fault Refusal :=
  issue (.icinvAll h) s fun c => c.icinv (.icinvAll h) 0 (2 ^ 64)

/-! ### Words that are no instruction, and PCs that cannot be fetched (R16, R32) -/

/-- A trap raised at decode or fetch by the path that `cur` names: a deferred trap of R64 goes first. -/
def decodeTrap (s : State) (t : Trap) : Host.Outcome State Fault Refusal :=
  match s.group s.cur.1 with
  | none => .fault .noIssuingGroup
  | some g =>
    match g.slot s.cur.2 with
    | none => .fault .noIssuingGroup
    | some p =>
      .next (s.takeTrap s.cur.1 s.cur.2 (match g.deferredAt p with
        | some d => d
        | none => ⟨t.cause, BitVec.ofNat 64 t.info, p.pc, false⟩))

/-- A word of a reserved major (R17, R32 order 1): ILLEGAL_OP with the word. -/
def execReservedMajor (w : Word) (s : State) : Host.Outcome State Fault Refusal := decodeTrap s ⟨Cause.illegalOp, w.toNat⟩

/-- The path waits for a page or a word that a fetch needs (R16). -/
def Ctx.await (c : Ctx) (s : State) (w : Pending) : State :=
  match c.pend (.nop false) s w .again with
  | .hold s1 => s1
  | _ => s

/-- The PC of the path that `cur` names. -/
def State.curPc (s : State) : Nat :=
  (((s.group s.cur.1).bind fun g => g.slot s.cur.2).map fun p => p.pc.toNat).getD 0

/-- A PC that cannot be fetched (R16): outside every section or on a page without X it is ADDR_PERM with the PC; at the second word of a
two-word instruction it is BAD_FORM with the word there (R32 order 2). -/
def execFetchFault (cause : FetchCause) (s : State) : Host.Outcome State Fault Refusal :=
  match cause with
  | .outside | .noExec => decodeTrap s ⟨Cause.addrPerm, s.curPc⟩
  | .secondWord =>
    match s.group s.cur.1, (s.group s.cur.1).bind fun g => g.slot s.cur.2 with
    | some g, some p =>
      (match (⟨s, s.cur.1, s.cur.2, g, p⟩ : Ctx).fetchWord s s.curPc with
      | .ok w s1 => decodeTrap s1 ⟨Cause.badForm, w.toNat⟩
      | .noExec s1 => decodeTrap s1 ⟨Cause.addrPerm, s1.curPc⟩
      | .wait w s1 => .next ((⟨s, s.cur.1, s.cur.2, g, p⟩ : Ctx).await s1 w))
    | _, _ => .fault .noIssuingGroup

end Sys2Proof.Machine
end

