-- ==== Sys2Proof/Machine/Holds.lean ====
section
/-! DEFINITION. What may issue at a path's PC: the chain there (R16 to R19), from the loop buffer where one holds it (R305), with the checks of decode (R32), and
what holds an instruction at issue (R36, R61, R62, R79, R80, R127, R148, R247, R255 to R261). A hold changes when an instruction issues, never what it
does (log entry 20). -/

namespace Sys2Proof.Machine

/-! ### The chain at a PC (R18, R29) -/

/-- One instruction of a chain: its slot in the packet, its first word, and its second where it has one. -/
structure Member where
  k : Nat
  w : Word
  e : Word
  deriving DecidableEq, Repr

/-- What fetching a chain gives. -/
inductive Members
  | ok (ms : List Member) (s : State)
  | noExec (s : State)
  | wait (w : Pending) (s : State)
  deriving DecidableEq, Repr

/-- The chain goes on after a first word that has C set and does not end the packet. -/
def chainGoesOn (k : Nat) (w : Word) : Bool := w.getLsbD 31 && decide (k + wordsOf w < 3)

/-- The instructions of a chain from slot k of a packet on. -/
def Ctx.fetchChain (c : Ctx) (base : Nat) : Nat → Nat → State → Members
  | 0, _, s => .ok [] s
  | n + 1, k, s =>
    match c.fetchWord s (base + 4 * k) with
    | .noExec s1 => .noExec s1
    | .wait w s1 => .wait w s1
    | .ok w s1 =>
      match (if wordsOf w == 2 && k < 2 then c.fetchWord s1 (base + 4 * k + 4) else .ok 0 s1) with
      | .noExec s2 => .noExec s2
      | .wait w s2 => .wait w s2
      | .ok e s2 =>
        if !chainGoesOn k w then .ok [⟨k, w, e⟩] s2
        else match c.fetchChain base n (k + wordsOf w) s2 with
          | .ok ms s3 => .ok (⟨k, w, e⟩ :: ms) s3
          | x => x

/-- What the words before a slot say of it: its word is the second of an instruction or not; or what is to be waited for to know. -/
inductive Second
  | is (b : Bool) (s : State)
  | wait (w : Pending) (s : State)
  deriving DecidableEq, Repr

/-- Whether a slot holds the second word of the instruction before it (R16, R29), by the words before it as the path would issue them, be their pages without X or not. -/
def Ctx.secondWord (c : Ctx) (base k : Nat) (s : State) : Second :=
  match k with
  | 0 => .is false s
  | k =>
    match c.anyWord s base with
    | .noExec s1 => .is false s1
    | .wait w s1 => .wait w s1
    | .ok w s1 =>
      if wordsOf w == 2 then .is (k == 1) s1
      else if k == 1 then .is false s1
      else match c.anyWord s1 (base + 4) with
        | .noExec s2 => .is false s2
        | .wait w s2 => .wait w s2
        | .ok w s2 => .is (wordsOf w == 2) s2

/-! ### Decode of a chain (R18, R32) -/

/-- Orders 1 to 4 of R32 for one member; a two-word instruction in slot 2 is malformed (order 2). -/
def Member.decoded (m : Member) : Except DecodeError Instr :=
  if m.k == 2 && wordsOf m.w == 2 then .error .badForm else decode m.w m.e

/-- What the HEXIT of a husk writes: the capsule registers other than the results (R361); for an adopter its stash, into the capsule's registers, p0 to p3, a0 and a1 (R363). -/
def Husk.exitWrites (h : Husk) : Foot :=
  if h.adopt then Foot.all [Foot.vmask h.mask, Foot.a1 0, Foot.a1 1, { Foot.none with p := 0x0F }]
  else Foot.all (((maskRegs h.mask).drop h.nres).map fun r => Foot.v1 (BitVec.ofNat 6 r))

/-- What an instruction writes when the group issues it: SCOPE.CLOSE writes every register of the range that it closes (R187), HEXIT what its capsule ends with. -/
def Group.writesNow (g : Group) (i : Instr) : Foot :=
  match i, g.scopes, g.husk with
  | .scopeClose _, (lo, hi) :: _, _ => rangeFoot lo hi
  | .hexit _, _, some h => if (h.inside || h.adopt) && !g.trap.level then h.exitWrites else Foot.none
  | _, _, _ => writes i

/-- A member obeys the rules of R18, after the members before it; `last` where the chain ends with it, `wr` what each writes. -/
def chainOk (wr : Instr → Foot) (before : List Instr) (i : Instr) (last : Bool) : Bool :=
  !(i.hdr.c && (last || endsChain i)) &&
  (before.isEmpty || match i with | .nop _ => false | _ => true) &&
  before.all fun j =>
    pipeOf (majorNum j) != pipeOf (majorNum i) && ((reads i).inter (wr j)).isEmpty && ((wr i).inter (reads j)).isEmpty &&
      ((wr i).inter (wr j)).isEmpty

/-- What the checks of a chain give: its instructions, a word that is no instruction, or a trap. -/
inductive Decoded
  | ok (is : List Instr)
  | illegal (w : Word)
  | bad (t : Trap)
  deriving DecidableEq, Repr

/-- Every instruction of a chain checked, in slot order (R32). Where two members together break a rule of R18, the spec does not say which of their words
TRAPINFO receives: the model gives the later member's (DESIGN CHOICE, log entry 57). A later member that no recipe slice may hold stands alone: the members before it
keep their effects, and it traps at its own PC (R151). -/
def Ctx.decodeChain (c : Ctx) (base : Nat) : List Instr → List Member → Decoded
  | is, [] => .ok is
  | is, m :: rest =>
    match m.decoded with
    | .error .illegalOp => .illegal m.w
    | .error _ => .bad ⟨Cause.badForm, m.w.toNat⟩
    | .ok i =>
      if !chainOk c.g.writesNow is i rest.isEmpty then .bad ⟨Cause.badForm, m.w.toNat⟩
      else
        let c1 : Ctx := { c with path := { c.path with pc := BitVec.ofNat 64 (base + 4 * m.k) } }
        match c1.gate i with
        | some t => if t.cause == Cause.recipeBody && !is.isEmpty then .ok is else .bad t
        | none => c.decodeChain base (is ++ [i]) rest

/-! ### What an instruction accesses -/

/-- Control-flow and tiller instructions that read or write the stack or the arena (R286, R378 to R390). -/
def stackInstr : Instr → Bool
  | .call .. | .calli .. | .ret .. | .mark .. | .unmark .. | .cut .. | .graft .. | .tdrop .. | .tinfo .. => true
  | _ => false

/-- Those that write there. -/
def stackWrites : Instr → Bool
  | .call .. | .calli .. | .mark .. | .cut .. | .graft .. | .tdrop .. => true
  | _ => false

/-- The instruction stores, to global or local memory, in the group's store order (R61, R79, R83, R104). -/
def storeLike (i : Instr) : Bool :=
  globalWrites i || stackWrites i || match i with | .stl .. | .atoml .. | .cbinit .. => true | _ => false

/-- An instruction of the M pipe that accesses memory (R31), or one that accesses the stack or the arena. -/
def accesses : Instr → Bool
  | .aset .. | .aadvPair .. | .aadvImm .. | .aget .. | .anarrow .. => false
  | i => stackInstr i || (i.isWord && pipeOf (majorNum i) == .m)

/-- Instructions that R61 holds until every logged access has performed, and that as releases wait for every other access too (R127, R258). -/
def drainsLog : Instr → Bool
  | .fence .. | .qsub .. | .publish .. | .launch .. | .henter .. | .hstore .. => true
  | _ => false

/-- The address and offset registers of an access. -/
def addrForm : Instr → Option (BitVec 4 × BitVec 6)
  | .ldB _ _ m | .ldH _ _ m | .ldW _ _ m | .ldD _ _ m | .ldQ _ _ m | .stB _ _ m | .stH _ _ m | .stW _ _ m | .stD _ _ m | .stQ _ _ m
  | .atom _ _ m .. | .red _ m .. | .cas _ _ m .. => some (m.an, m.vo)
  | .ldkW _ _ an vo _ | .ldkD _ _ an vo _ | .hstore _ _ _ an vo => some (an, vo)
  | _ => none

/-- Every 64 KiB of a lane's stack below an offset, and the offset. -/
def State.stackSpan (s : State) (g : Group) (lane top : Nat) : List LaneAcc :=
  ((List.range (Nat.min top (g.areg 15).length.toNat / 65536 + 1)).map fun k => s.stackEA g lane (65536 * k)) ++ [s.stackEA g lane top] |>.map fun ea => ⟨lane, ea, 0, 0⟩

/-- Addresses on the pages that a control-flow or tiller instruction accesses for its lanes: the header that it pushes or pops, the frames below it, the arena. -/
def Ctx.stackReach (c : Ctx) (i : Instr) (view : Group) : List LaneAcc :=
  let fp := fun l => (view.rd 62 l).toNat
  let sp := fun l => (view.rd 63 l).toNat
  let arena := match c.s.launchOf c.g with | some l => if l.hdr.alen == 0 then [] else [(⟨c.low, l.hdr.arena, 0, 0⟩ : LaneAcc)] | none => []
  match i with
  | .call .. | .calli .. | .mark .. => c.act.lanes.map fun l => ⟨l, c.s.stackEA view l (sp l), 0, 0⟩
  | .ret .. | .unmark .. => c.act.lanes.flatMap fun l => c.s.stackSpan view l (fp l)
  | .cut .. | .graft .. => arena ++ c.act.lanes.flatMap fun l => c.s.stackSpan view l (sp l)
  | .tdrop .. | .tinfo .. => arena
  | _ => []

/-- The accesses of the lanes of an instruction that is to issue, its offsets formed if need be; none where it would trap or wait. -/
def Ctx.reachOf (c : Ctx) (i : Instr) : List LaneAcc :=
  if stackInstr i then (match c.s.formAll c.g (vList (reads i).v) with | .ok _ view => c.stackReach i view | _ => [])
  else match addrForm i, memOpOf i with
  | some (an, vo), some o =>
    (match c.s.formAll c.g (vList (reads i).v) with
    | .ok _ view =>
      (match c.s.checkGlobal view (partLanes i.hdr c.act) (view.areg an) vo o fun _ => (0, 0) with
      | .ok accs => accs
      | .error _ => [])
    | _ => [])
  | _, _ => []

/-- The physical address of an address of the group, where a translation is known. -/
def Ctx.paKnown (c : Ctx) (ea : Nat) : Option Nat :=
  match (c.s.translate (c.s.coreOf c.g) (c.s.asidOf c.g) ea false).1 with
  | .ok pa _ _ => some pa
  | _ => none

/-- n bytes at an address and k bytes at another touch a common location, by their addresses or where their pages lie. -/
def Ctx.meets (c : Ctx) (a n b k : Nat) : Bool :=
  rangesMeet a (a + n) b (b + k) ||
    match c.paKnown a, c.paKnown b with
    | some x, some y => rangesMeet x (x + n) y (y + k)
    | _, _ => false

/-- The bytes of the stack windows and of the arena of the launch of the issuing group, and those that its a15 names, wherever an ASET has put it. -/
def Ctx.stackAreas (c : Ctx) : List (Nat × Nat) :=
  let d := c.g.areg 15
  (d.base.toNat, d.length.toNat + winOff d (c.s.wsOf c.g) 63) ::
    match c.s.launchOf c.g with
    | some l => [(l.hdr.stack, l.hdr.gmax * 32 * l.hdr.ws), (l.hdr.arena, l.hdr.alen)]
    | none => []

/-- An address lies on a page of the stack windows or of the arena. -/
def Ctx.nearStack (c : Ctx) (ea : Nat) : Bool := c.stackAreas.any fun r => r.2 != 0 && rangesMeet (ea / 65536 * 65536) (ea / 65536 * 65536 + 65536) r.1 (r.1 + r.2)

/-! ### Accesses that have issued and not performed -/

/-- An access of the group in the operand log or under way to other packages: its instruction, its lanes' accesses with their size, the pages not yet translated, whether it
stores, and whether later accesses perform after it. -/
structure Open where
  instr : Instr
  accs : List LaneAcc
  bytes : Nat
  pages : List Nat
  stores : Bool
  acq : Bool
  deriving DecidableEq, Repr

/-- What a log entry stands for (R61): an access, or an instruction that stores to the stack or the arena; or, where a regeneration waits, a load by the LDK of its slice (R161). -/
def LogEntry.open_ (e : LogEntry) : Open :=
  let own := match e.kind with | .access | .again => true | .regen _ | .perform _ => false
  ⟨e.instr, e.lanes, ((memOpOf e.instr).map MemOp.bytes).getD 16, e.pages, own && (globalWrites e.instr || stackWrites e.instr), e.acq⟩

/-- The group's accesses that have not performed. -/
def Group.opens (g : Group) : List Open :=
  (g.log.map LogEntry.open_) ++
    g.remote.map fun r => ⟨r.instr, r.accs, ((memOpOf r.instr).map MemOp.bytes).getD 16, [], globalWrites r.instr, r.acq⟩

/-- An instruction and an open access touch a common location. -/
def Ctx.overlaps (c : Ctx) (i : Instr) (accs : List LaneAcc) (x : Open) : Bool :=
  let n := ((memOpOf i).map MemOp.bytes).getD 16
  (accs.any fun a => x.accs.any fun b => c.meets a.ea n b.ea x.bytes) || (stackInstr i && x.accs.any fun b => c.nearStack b.ea)

/-- The instruction accesses a page with the SC attribute (R261). -/
def Ctx.onSC (c : Ctx) (accs : List LaneAcc) : Bool := accs.any fun a => c.s.pageSC (c.s.coreOf c.g) (c.s.asidOf c.g) a.ea

/-- An access that has not performed holds an instruction: as an acquire or sc access, as a store before a store, as any access before a release or sc store or what R61
names; a store before a load of its bytes or of a page that it has not translated; a load before a store to its bytes; and a load that is not plain before another of its
location (R61, R79, R80, R127, R255, R257, R258, R261). -/
def Ctx.openHolds (c : Ctx) (i : Instr) (accs : List LaneAcc) (x : Open) : Bool :=
  let fStores := x.stores
  (accesses i && x.acq) || drainsLog i || (storeLike i && (fStores || releases i || c.onSC accs || c.overlaps i accs x)) ||
    (fStores && (c.overlaps i accs x || (accs.any fun a => x.pages.contains (a.ea / 65536)) || (stackInstr i && x.pages.any fun p => c.nearStack (p * 65536)))) ||
    (orderOf i != .plain && orderOf x.instr != .plain && c.overlaps i accs x)

/-- A register whose regeneration waits in the operand log holds what reads or writes it, or writes a pinned input (R161). -/
def Ctx.regenHolds (c : Ctx) (i : Instr) (r : BitVec 6) : Bool :=
  let pins := match (c.g.vreg r.toNat).recipe with | some rc => rc.pins.foot | none => Foot.none
  let w := c.g.writesNow i
  (reads i).v.getLsbD r.toNat || w.v.getLsbD r.toNat || !(w.inter pins).isEmpty

/-- A core issues its accesses to SC pages one at a time: one of any of its groups has not performed (R261). -/
def Ctx.scBusy (c : Ctx) : Bool :=
  let core := c.s.coreOf c.g
  c.s.resident.any fun e => c.s.coreOf e.2 == core && e.2.opens.any fun x => x.accs.any fun a => c.s.pageSC core (c.s.asidOf e.2) a.ea

/-! ### Matrix work (R247, R249) -/

/-- Work of the array that has not begun or goes on: what is frozen lies still (R249). -/
def Group.mxRunning (g : Group) : List MxWork := if g.frozen then g.mx.filter MxWork.ahead else g.mx

/-- The ranges of addresses that an ACCST or ACCLD has still to access. -/
def Group.drainRanges (g : Group) (w : MxWork) : List (Nat × Nat) :=
  let rows := fun (ty : AccTy) (va : BitVec 6) =>
    let w0 := match w.ops with | some ops => Tbl.get 0 ops 0 | none => g.mxReg w va
    let w1 := match w.ops with | some ops => Tbl.get 0 ops 1 | none => g.mxReg w (va + 1)
    match rowRange w0 w1 with
    | some (_, rows, pitch) => (List.range (rows - w.k)).map fun j => ((rowAddr w.desc pitch (w.k + j)).toNat, 256 * accSize ty)
    | none => []
  match w.instr with
  | .accst _ _ _ ty _ va => rows ty va
  | .accld _ _ _ ty va => rows ty va
  | _ => []

/-- A queued ACCST holds later stores, loads of its bytes and whatever waits for stores; a queued ACCLD what must follow a load; either, until it begins, a write of
its address register (R234, R247, R257, R258). -/
def Ctx.mxHolds (c : Ctx) (i : Instr) (accs : List LaneAcc) (w : MxWork) : Bool :=
  let n := ((memOpOf i).map MemOp.bytes).getD 16
  let touch := (accs.any fun a => (c.g.drainRanges w).any fun r => c.meets a.ea n r.1 r.2) || (stackInstr i && (c.g.drainRanges w).any fun r => c.nearStack r.1)
  match w.instr with
  | .accst _ an .. => drainsLog i || storeLike i || touch || (w.ops.isNone && (writes i).a.getLsbD an.toNat)
  | .accld _ an .. => drainsLog i || (storeLike i && (releases i || touch)) || (w.ops.isNone && (writes i).a.getLsbD an.toNat)
  | _ => false

/-- An instruction is held at issue: a register that it needs is owed or locked (R36, R148), or is one that a logged instruction has yet to read; MATCNT is written only when no logged
instruction can still materialize a register (R190); or an access before it must perform first. -/
def Ctx.heldBack (c : Ctx) (i : Instr) : Bool :=
  let w := c.g.writesNow i
  let accs := c.reachOf i
  !((reads i).inter c.g.owed).isEmpty || !(w.inter c.g.owed).isEmpty || (w.v &&& c.g.busyV) != 0 ||
  !(w.inter c.g.unread).isEmpty || (w.sp.getLsbD 1 && !c.g.log.isEmpty) ||
  (c.g.log.any fun e => match e.kind with | .regen r | .perform r => c.regenHolds i r | _ => false) ||
  c.g.opens.any (c.openHolds i accs) || c.g.mxRunning.any (c.mxHolds i accs) || (c.onSC accs && c.scBusy)

/-! ### The materializations of a chain (R159) -/

/-- The materializations that the writes of a chain require, before any member reads (R159). Those that a member after an MTS to MATCNT requires come after the
MTS (R190). -/
def State.prepareChain (s : State) (n : Nat) (act : Mask) (full : Bool) : List Instr → State
  | [] => s
  | i :: rest =>
    match s.group n with
    | none => s
    | some g =>
      let closes := match i with | .scopeClose _ => true | _ => false
      match s.prepareWrite g (g.writesNow i) (if closes then g.all else act) (closes || (i.hdr.u && full && g.exited == 0)) with
      | .ok s1 g1 => if (writes i).sp.getLsbD 1 then s1.setGroup n g1 else (s1.setGroup n g1).prepareChain n act full rest
      | _ => s

end Sys2Proof.Machine
end

