-- ==== Sys2Proof/Machine/Image.lean ====
section
/-! DEFINITION. Launch images as the hub reads them (R310, R311, R314): words and ranges of an address space, the header, node records, and the
tests of pages that a validation makes. -/

namespace Sys2Proof.Machine

/-! ### Reading and writing an address space (R47, R54) -/

/-- A refusal of a launch with a reason of R314. -/
def refusal (reason : Nat) : Trap := ⟨Cause.launchFault, reason⟩

/-- The physical address and the entry that the hub reaches for a virtual address: an absent page is reported and waited for (R60, R314); an address outside the address
space is reason ACCESS. -/
def State.hubEntry (s : State) (asid va : Nat) (write : Bool) : Chk (Nat × DWord) :=
  if 2 ^ 51 ≤ va then .trap (refusal 10) s
  else match s.translateHub asid va write with
    | (.ok pa pte _, s1) => .ok (pa, pte) s1
    | (.fault, s1) => .wait (.pageAt va) (s1.postFault asid va (if write then .store else .load) false)
    | (.malformed, s1) => .wait (.pageAt va) (s1.postFault asid va (if write then .store else .load) true)
    | (.frozen, s1) => .wait (.pageAt va) s1

/-- The physical address that the hub reaches for a virtual address; a page that refuses the access is reason ACCESS. -/
def State.hubPage (s : State) (asid va : Nat) (write : Bool) : Chk Nat :=
  (s.hubEntry asid va write).bind fun x s1 =>
    if pteR x.2 && (!write || (pteW x.2 && !pteK x.2)) then .ok x.1 s1 else .trap (refusal 10) s1

/-- n bytes of another package as the hub has heard them (R43); none for one that is still to be asked for. -/
def State.hubBytesHeard (s : State) (pa n : Nat) : List (Option (Option Byte)) :=
  (List.range n).map fun k => (s.hubHeard.find? fun x => x.1 == pa + k).map Prod.snd

/-- n bytes at a physical address read by the hub: those of another package are asked for and waited for (R43), and what cannot be read there is reason ACCESS (R314). -/
def State.hubAt (s : State) (va pa n : Nat) : Chk (List Byte) :=
  if s.isLocal pa then .ok (Mem.readBytes s.mem (paLocal pa) n) s
  else
    let got := s.hubBytesHeard pa n
    if got.any (fun x => x == some none) || (s.routePort (paPkg pa)).isNone then .trap (refusal 10) s
    else
      let missing := (List.range n).filter fun k => got[k]? == some none
      if missing.isEmpty then .ok (got.map fun x => (x.bind id).getD 0) s
      else .wait (.remote 1 (missing.map fun k => (⟨0, va + k, 0, 0⟩, pa + k))) s

/-- n bytes (at most 64 KiB) read by the hub; a range that crosses a page is read in two parts. -/
def State.hubLoad (s : State) (asid va n : Nat) : Chk Nat :=
  let k := Nat.min n (65536 - va % 65536)
  (s.hubPage asid va false).bind fun pa s1 => (s1.hubAt va pa k).bind fun l s2 =>
    if k == n then .ok (ofBytes l) s2
    else (s2.hubPage asid (va + k) false).bind fun pb s3 => (s3.hubAt (va + k) pb (n - k)).bind fun m s4 =>
      .ok (ofBytes (l ++ m)) s4

/-- What a read of the hub waits for in another package is asked for, once (R43, R126). -/
def State.hubAsk (s : State) (part asid : Nat) (w : Pending) : State :=
  match w with
  | .remote _ accs =>
    if s.stalled accs || s.remote.any (fun r => match r.for_ with | .hub a _ => a == asid | _ => false) then s
    else (readLists accs).foldl (fun s pas => (s.sendRead part 1 (pas.map Prod.snd) (.hub asid (pas.map Prod.snd))).2) s
  | _ => s

/-- The hub keeps nothing of other packages beyond the image or packet at hand. -/
def State.hubDone (s : State) : State := { s with hubHeard := [] }

/-- n doublewords read by the hub. -/
def State.hubWords (s : State) (asid va n : Nat) : Chk (List Nat) :=
  Chk.each (fun k s => s.hubLoad asid (va + 8 * k) 8) (List.range n) s

/-- A test of every page of a range of page numbers. -/
def pagesAll (t : Nat → Bool) : Nat → Nat → Bool
  | 0, _ => true
  | n + 1, p => t p && pagesAll t n (p + 1)

/-- A test of the page of every byte of a range; a range that leaves the address space fails. -/
def rangeAll (t : Nat → Bool) (va n : Nat) : Bool :=
  n == 0 || (decide (va + n ≤ 2 ^ 51) && pagesAll t ((va + n - 1) / 65536 - va / 65536 + 1) (va / 65536))

/-- The page is a valid leaf whose entry passes a test. -/
def State.leafTest (s : State) (asid : Nat) (t : DWord → Bool) (page : Nat) : Bool :=
  match s.walk asid (page * 65536) with
  | .leaf _ e _ => t e
  | _ => false

/-- As leafTest, or a demand entry that passes it (R410, R425). -/
def State.codeTest (s : State) (asid : Nat) (t : DWord → Bool) (page : Nat) : Bool :=
  match s.walk asid (page * 65536) with
  | .leaf _ e _ => t e
  | .fault _ e 3 => pteLeaf e && t e
  | _ => false

/-- An entry with R and W. -/
def pteRW (e : DWord) : Bool := pteR e && pteW e
/-- The entry's frame lies in this package. -/
def State.pteHere (s : State) (e : DWord) : Bool := s.isLocal (pteFrame e * 65536)

/-! ### Ranges of bytes -/

/-- Bytes with the 8-byte words among them that carry poison, both by offset from a start. -/
structure Blob where
  mem : Mem
  poison : List Nat
  deriving DecidableEq, Repr

/-- Fields written into bytes: offset, size, value. -/
def Mem.puts (m : Mem) (l : List (Nat × Nat × Nat)) : Mem := l.foldl (fun m e => Mem.writeN m e.1 e.2.1 e.2.2) m

/-- Two ranges of bytes joined, the second at an offset of whole words. -/
def Blob.put (b : Blob) (at_ : Nat) (c : Blob) : Blob :=
  ⟨c.mem.foldl (fun m e => Mem.set m (at_ + e.1) e.2) b.mem, b.poison ++ c.poison.map fun w => w + at_ / 8⟩

/-- A part of a range. -/
def Blob.part (b : Blob) (at_ n : Nat) : Blob :=
  ⟨(b.mem.filter fun c => at_ ≤ c.1 && c.1 < at_ + n).map fun c => (c.1 - at_, c.2),
    (b.poison.filter fun w => at_ ≤ 8 * w && 8 * w < at_ + n).map fun w => w - at_ / 8⟩

/-- Every byte of a range is 0. -/
def Blob.zeroAt (b : Blob) (at_ n : Nat) : Bool := !b.mem.any fun c => at_ ≤ c.1 && c.1 < at_ + n

/-- A field of a range. -/
def Blob.get (b : Blob) (at_ n : Nat) : Nat := Mem.readN b.mem at_ n

/-- n bytes of physical memory, by offset from their address. -/
def State.blobAt (s : State) (pa n : Nat) : Blob := (⟨s.mem, s.memPoison⟩ : Blob).part (paLocal pa) n

/-- n bytes of physical memory replaced. -/
def State.putBlob (s : State) (pa n : Nat) (b : Blob) : State :=
  let la := paLocal pa
  { s with
    mem := b.mem.foldl (fun m c => Mem.set m (la + c.1) c.2) (s.mem.clear la n)
    memPoison := (s.memPoison.filter fun w => 8 * w < la || la + n ≤ 8 * w) ++ b.poison.map fun w => w + la / 8 }

/-- n bytes at a physical address as a range, with the poison that memory of this package has there. -/
def State.hubBlob (s : State) (va pa n : Nat) : Chk Blob :=
  if s.isLocal pa then .ok (s.blobAt pa n) s
  else (s.hubAt va pa n).bind fun l s1 => .ok ⟨Mem.writeBytes [] 0 l, []⟩ s1

/-- Bytes of an address space read page by page (n pages), each part at its offset. -/
def State.hubBytes (s : State) (asid : Nat) : Nat → Nat → Nat → Nat → Blob → Chk Blob
  | 0, _, _, _, b => .ok b s
  | k + 1, va, n, off, b =>
    if n == 0 then .ok b s
    else
      let m := Nat.min n (65536 - va % 65536)
      (s.hubPage asid va false).bind fun pa s1 => (s1.hubBlob va pa m).bind fun c s2 =>
        s2.hubBytes asid k (va + m) (n - m) (off + m) (b.put off c)

/-- n bytes of an address space. -/
def State.hubRange (s : State) (asid va n : Nat) : Chk Blob := s.hubBytes asid (n / 65536 + 2) va n 0 ⟨[], []⟩

/-- Bytes of a range as words for another package: by eights where the address allows it (R119). -/
def Blob.words (b : Blob) (asid pa off n : Nat) : List (Nat × Nat × Nat × Nat) :=
  let k := if pa % 8 == 0 && n % 8 == 0 then 8 else 1
  (List.range (n / k)).map fun i => (asid, pa + k * i, k, b.get (off + k * i) k)

/-- A range of bytes can be written at a physical address: to another package no poison travels (R142). -/
def State.takesBlob (s : State) (pa : Nat) (b : Blob) : Bool := s.isLocal pa || b.poison.isEmpty

/-- Bytes of an address space written page by page; those of another package are to be sent there (R43). -/
def State.hubPut (s : State) (asid : Nat) : Nat → Nat → Nat → Nat → Blob → Chk Unit
  | 0, _, _, _, _ => .ok () s
  | k + 1, va, n, off, b =>
    if n == 0 then .ok () s
    else
      let m := Nat.min n (65536 - va % 65536)
      (s.hubPage asid va true).bind fun pa s1 =>
        (if s1.isLocal pa then s1.putBlob pa m (b.part off m) else { s1 with outgoing := s1.outgoing ++ b.words asid pa off m }).hubPut asid k
          (va + m) (n - m) (off + m) b

/-- n bytes written at a virtual address (R211, R340), once every page of them admits it. -/
def State.hubStore (s : State) (asid va n : Nat) (b : Blob) : Chk Unit :=
  (Chk.each (fun p s => (s.hubPage asid (Nat.max va (p * 65536)) true).bind fun pa s1 => Chk.test (s1.takesBlob pa b) (refusal 10) s1)
    ((List.range (if n == 0 then 0 else (va + n - 1) / 65536 - va / 65536 + 1)).map fun k => va / 65536 + k) s).bind fun _ s1 =>
  s1.hubPut asid (n / 65536 + 2) va n 0 b

/-! ### Header and node records (R310, R311) -/

/-- Bits of a number. -/
def bitsOf (w lo n : Nat) : Nat := w / 2 ^ lo % 2 ^ n

/-- Bits of a word of a list. -/
def wordBits (w : List Nat) (k lo n : Nat) : Nat := bitsOf (Tbl.get 0 w k) lo n

/-- The header that 32 words hold. -/
def Header.of (w : List Nat) : Header :=
  let f := wordBits w
  { nsect := f 0 40 8, hostVisible := f 0 48 1 == 1, nodes := f 1 0 64, nnodes := f 2 0 16, gmax := f 2 16 16
    seed := BitVec.ofNat 32 (f 2 32 32), sects := f 3 0 64, edges := f 4 0 64, backing := f 5 0 64, spill := f 6 0 64
    d := f 7 0 16, ws := f 7 16 32, stack := f 8 0 64, arena := f 9 0 64, alen := f 10 0 48, record := f 11 0 64
    status := f 12 0 64, signal := f 13 0 64, addend := BitVec.ofNat 64 (f 14 0 64), podbar := f 15 0 64, context := f 16 0 64 }

/-- The header passes check HEADER (R314). -/
def headerOk (img : Nat) (w : List Nat) : Bool :=
  let f := wordBits w
  let h := Header.of w
  img % 256 == 0 && f 0 0 32 == 0x31495A4F && f 0 32 8 == 1 && f 0 49 15 == 0 && f 7 48 16 == 0 && f 10 48 16 == 0 &&
    (w.drop 17).all (fun x => x == 0) && decide (1 ≤ h.nsect) && decide (h.nsect ≤ 16) && h.nodes % 32 == 0 && h.nnodes != 0 &&
    decide (1 ≤ h.gmax) && decide (h.gmax ≤ 16384) && h.status % 8 == 0 && h.signal % 8 == 0 && h.record % 64 == 0

/-- Tile operand k of a record (R311). -/
def tileOf (w : List Nat) (k : Nat) : TileOp :=
  ⟨wordBits w (3 + 2 * k) 0 64, wordBits w (4 + 2 * k) 0 48, wordBits w (4 + 2 * k) 48 4, wordBits w (4 + 2 * k) 52 8⟩

/-- A node record, from its 12 words. -/
def NodeRec.of (w : List Nat) : NodeRec :=
  let f := wordBits w 1
  { entry := wordBits w 0 0 64, groups := f 0 6, width := if f 6 2 = 1 then 64 else if f 6 2 = 2 then 16 else 32, floor := f 8 7
    rs := f 15 1 == 1, localUnits := f 16 12, delta := if f 32 8 < 128 then f 32 8 else (f 32 8 : Int) - 256, gang := f 40 2
    gid := f 48 8, npred := wordBits w 2 0 16, nsucc := wordBits w 2 16 16, first := wordBits w 2 32 32
    tiles := (List.range 4).map (tileOf w) }

/-- Hardware groups of a node's team (R270). -/
def NodeRec.hw (r : NodeRec) : Nat := r.groups * (if r.width = 64 then 2 else 1)

/-- A record passes check NODE (R271, R273, R311, R314). -/
def nodeOk (gmax : Nat) (w : List Nat) : Bool :=
  let r := NodeRec.of w
  let f := wordBits w 1
  f 28 4 == 0 && f 42 6 == 0 && f 56 8 == 0 && Tbl.get 0 w 11 == 0 && f 6 2 != 3 && decide (1 ≤ r.groups) &&
    decide (r.groups ≤ (if r.width = 64 then 16 else 32)) && decide (1 ≤ r.floor) && decide (r.floor ≤ 64) &&
    decide (r.localUnits ≤ 1536) && decide (r.hw ≤ gmax) && decide (r.hw ≤ Config.groupSlots) &&
    decide (r.floor * r.hw ≤ Config.rowsPerCore) &&
    decide (r.localUnits * 256 + Config.divAreaBytes * r.hw ≤ Config.localBytes) &&
    (List.range 4).all fun k => wordBits w (4 + 2 * k) 60 4 == 0 && (Tbl.get 0 w (3 + 2 * k) / 2 ^ 51 == 0) &&
      ((tileOf w k).length == 0 || (tileOf w k).perm / 4 % 2 == 0)

end Sys2Proof.Machine
end

