-- ==== Sys2Proof/Machine/Tiller.lean ====
section
/-! DEFINITION. Tillers (R376 to R391): the arena and its slots, and MARK, CUT, GRAFT, UNMARK, TDROP and TINFO. Each is one step at the
arena's unit, which so serialises them (R380), but for GRAFT, which pins its slots in one step and copies and unpins them in the next (R386, R391). -/

namespace Sys2Proof.Machine

/-! ### The arena (R379 to R381) -/

/-- The end of the free list (R379). -/
def noSlot : Nat := 0xFFFFFF

/-- The arena header's fields (R379). -/
structure Arena where
  base : Nat
  nslots : Nat
  ssize : Nat
  head : Nat
  nfree : Nat
  deriving DecidableEq, Repr

/-- 8-byte words of an address space read for a lane, each with its poison. -/
def State.load8 (s : State) (g : Group) (lane : Nat) (eas : List Nat) : Chk (List (Nat × Bool)) :=
  (s.peeks g 8 (eas.map fun ea => ⟨lane, ea, 0, 0⟩)).bind fun vs s1 => .ok (vs.map fun v => (v.1, v.2 != 0)) s1

/-- n consecutive addresses of 8-byte words. -/
def words8 (ea n : Nat) : List Nat := (List.range n).map fun k => ea + 8 * k

/-- A word of a list. -/
def at8 (l : List (Nat × Bool)) (k : Nat) : Nat := (l[k]?.map Prod.fst).getD 0
/-- Its poison. -/
def bad8 (l : List (Nat × Bool)) (k : Nat) : Bool := (l[k]?.map Prod.snd).getD false

/-- An 8-byte word that a lane is to write: its address, its value, and whether it is poisoned. -/
structure Word8 where
  lane : Nat
  ea : Nat
  val : Nat
  bad : Bool
  deriving DecidableEq, Repr

/-- 8-byte words to be written: their pages resolved (R383). -/
def State.store8 (s : State) (g : Group) (ws : List Word8) : Chk (List (LaneAcc × Nat)) :=
  s.reach g .store (ws.map fun w => ⟨w.lane, w.ea, BitVec.ofNat 128 w.val, markOf w.bad⟩)

/-- The launch's arena, if it has one (R379), and whether its header is poisoned. -/
def State.arenaRead (s : State) (g : Group) (lane : Nat) : Chk (Option Arena × Bool) :=
  match s.launchOf g with
  | none => .ok (none, false) s
  | some l =>
    if l.hdr.alen == 0 then .ok (none, false) s
    else (s.load8 g lane (words8 (l.hdr.arena + 8) 4)).bind fun w s1 =>
      .ok (some ⟨l.hdr.arena, at8 w 0 % 2 ^ 24, at8 w 1 % 2 ^ 32, at8 w 2 % 2 ^ 24, at8 w 3 % 2 ^ 24⟩, w.any Prod.snd) s1

/-- The launch's arena, if it has one; a poisoned header traps, since it forms addresses (R143). -/
def State.arena (s : State) (g : Group) (lane : Nat) : Chk (Option Arena) :=
  (s.arenaRead g lane).bind fun a s1 => if a.2 then .trap ⟨Cause.poison, lane⟩ s1 else .ok a.1 s1

/-- The address of a slot (R379). -/
def Arena.slot (a : Arena) (k : Nat) : Nat := a.base + 256 + k * a.ssize
/-- The arena header's words that a change of the free list writes. -/
def Arena.headWords (a : Arena) (lane head nfree : Nat) : List Word8 :=
  [⟨lane, a.base + 0x18, head, false⟩, ⟨lane, a.base + 0x20, nfree, false⟩]

/-- LIVE, gen and next of a slot's word 0 (R380). -/
def slotLive (w : Nat) : Bool := w / 256 % 2 == 1
def slotGen (w : Nat) : Nat := w % 256
def slotNext (w : Nat) : Nat := w / 2 ^ 16 % 2 ^ 24

/-- The slot that a handle names, if the handle is valid (R381), and whether the arena's header or the slot's word 0, which decide that, are poisoned. -/
def State.handleRead (s : State) (g : Group) (lane h : Nat) : Chk (Option (Arena × Nat) × Bool) :=
  (s.arenaRead g lane).bind fun a s1 =>
    match a.1 with
    | none => .ok (none, a.2) s1
    | some x =>
      let k := h % 2 ^ 24
      if x.nslots ≤ k then .ok (none, a.2) s1
      else (s1.load8 g lane [x.slot k]).bind fun w s2 =>
        .ok (if slotLive (at8 w 0) && slotGen (at8 w 0) == h / 2 ^ 24 then some (x, k) else none, a.2 || bad8 w 0) s2

/-- The slot that a handle names, if the handle is valid; where poison decides that, it traps (R143). -/
def State.handle (s : State) (g : Group) (lane h : Nat) : Chk (Option (Arena × Nat)) :=
  (s.handleRead g lane h).bind fun v s1 => if v.2 then .trap ⟨Cause.poison, lane⟩ s1 else .ok v.1 s1

/-! ### MARK and UNMARK (R384, R387) -/

/-- MARK (R384). -/
def execMark (h : Hdr) (tag : BitVec 8) (off : Word) (s : State) : Host.Outcome State Fault Refusal :=
  issue (.mark h tag off) s fun c =>
    let i : Instr := .mark h tag off
    if c.act == 0 then c.done i c.s
    else c.withForm i fun s view => c.clean view [63] s <|
      let lanes := c.act.lanes
      let label := packetPlus c.packet off.toInt
      ((Chk.test (isPacket (s.sectsOf c.g) label.toNat) ⟨Cause.addrPerm, label.toNat⟩ s).bind fun _ s1 =>
        (Chk.each (fun i s => s.callCheck view 16 i) lanes s1).bind fun _ s2 =>
        s2.writeFrames view (lanes.map (pushedFrame view label tag.toNat 1))).res c i fun at_ s3 =>
      c.mayStore s3 at_ <| c.writeThen i (c.stores s3 16 at_) c.act (fpSpWrites (pushedOffsets view 16 lanes)) fun s4 => c.done i s4

/-- The header at fp of one lane is a marker that UNMARK may pop (R387). -/
def State.unmarkCheck (s : State) (g : Group) (tag lane : Nat) : Chk (Nat × Nat × Nat) :=
  let fp := (g.rd 62 lane).toNat
  (Chk.test (s.inWindow g lane fp 16) ⟨Cause.stackLimit, fp⟩ s).bind fun _ s1 =>
  (Chk.test g.stackR ⟨Cause.addrPerm, fp⟩ s1).bind fun _ s1 =>
  (s1.stackAligned g lane fp).bind fun _ s2 =>
  (s2.peek g lane (s2.stackEA g lane fp) 16).bind fun v s3 =>
    let f := Frame.of v.1 (v.2 != 0)
    if f.bad then .trap ⟨Cause.poison, lane⟩ s3
    else if f.marker && (tag == 0 || f.tag == tag) then .ok (lane, (fp + 2 ^ 32 - f.dist) % 2 ^ 32, fp) s3
    else .trap ⟨Cause.tillerNomark, f.tag⟩ s3

/-- UNMARK (R387). -/
def execUnmark (h : Hdr) (tag : BitVec 8) (s : State) : Host.Outcome State Fault Refusal :=
  issue (.unmark h tag) s fun c =>
    if c.act == 0 then c.done (.unmark h tag) c.s
    else c.withForm (.unmark h tag) fun s view => c.clean view [62] s <|
      (Chk.each (fun i s => s.unmarkCheck view tag.toNat i) c.act.lanes s).res c (.unmark h tag) fun offs s1 =>
      c.writeThen (.unmark h tag) s1 c.act (fpSpWrites offs) fun s2 => c.done (.unmark h tag) s2

/-! ### CUT (R385) -/

/-- What CUT lifts from one lane: the marker's offset, distance and label, the bottom frame's offset, the size, the offsets of
the masked words, and the bytes. -/
structure Cut where
  lane : Nat
  m : Nat
  dist : Nat
  label : DWord
  b : Nat
  fp : Nat
  size : Nat
  masked : List Nat
  data : List (Nat × Bool)
  deriving DecidableEq, Repr

/-- The offsets of a frame's masked words. -/
def Frame.maskedAt (f : Frame) (at_ : Nat) : List Nat := f.masked.map fun k => at_ + k

/-- The walk from the frame at an offset, which ends at another, down to the marker with a tag: the marker, its offset, the frame
above it with its offset, and the masked words passed, lowest first. -/
def State.cutWalk (g : Group) (lane tag : Nat) : Nat → Nat → Nat → Option (Nat × Frame) → List Nat → State →
    Chk (Nat × Frame × Nat × Frame × List Nat)
  | 0, at_, _, _, _, s => .trap ⟨Cause.stackLimit, at_⟩ s
  | k + 1, at_, end_, below, masked, s =>
    (s.readFrame g lane at_ end_).bind fun f s1 =>
      if f.bad then .trap ⟨Cause.poison, lane⟩ s1
      else if f.marker && f.tag == tag then
        match below with
        | none => .trap ⟨Cause.tillerNomark, tag⟩ s1
        | some b => .ok (at_, f, b.1, b.2, masked) s1
      else if f.retpc == 0 then .trap ⟨Cause.tillerNomark, tag⟩ s1
      else if !f.distOk at_ then .trap ⟨Cause.stackLimit, at_⟩ s1
      else State.cutWalk g lane tag k (at_ - f.dist) at_ (some (at_, f)) (f.maskedAt at_ ++ masked) s1

/-- The 32-bit word at an offset of a list of 8-byte words. -/
def wordIn (data : List (Nat × Bool)) (o : Nat) : Nat := at8 data (o / 8) / 2 ^ (8 * (o % 8)) % 2 ^ 32

/-- The checks of CUT for one lane, and what it lifts. -/
def State.cutLane (s : State) (g : Group) (a : Option Arena) (tag lane : Nat) : Chk Cut :=
  let fp := (g.rd 62 lane).toNat
  let sp := (g.rd 63 lane).toNat
  (Chk.test (fp % 16 == 0) ⟨Cause.misalign, fp⟩ s).bind fun _ s1 =>
  (Chk.test (sp % 16 == 0) ⟨Cause.misalign, sp⟩ s1).bind fun _ s1 =>
  (Chk.test (decide (fp + 16 ≤ sp)) ⟨Cause.stackLimit, fp⟩ s1).bind fun _ s1 =>
  (State.cutWalk g lane tag g.frameBound fp sp none [] s1).bind fun w s2 =>
    let m := w.1
    let mf := w.2.1
    let b := w.2.2.1
    let bf := w.2.2.2.1
    let masked := w.2.2.2.2
    let size := sp - b
    (Chk.test (!bf.marker) ⟨Cause.stackLimit, b⟩ s2).bind fun _ s3 =>
    (Chk.test ((a.map fun a => decide (192 + size ≤ a.ssize)).getD false) ⟨Cause.tillerSpace, size⟩ s3).bind fun _ s3 =>
    (Chk.test (s3.inWindow g lane b size) ⟨Cause.stackLimit, b⟩ s3).bind fun _ s3 =>
    (s3.load8 g lane (words8 (s3.stackEA g lane b) (size / 8))).bind fun data s4 =>
      match masked.find? fun o => wordIn data (o - b) < b || sp < wordIn data (o - b) with
      | some o => .trap ⟨Cause.stackLimit, o⟩ s4
      | none => .ok ⟨lane, m, mf.dist, mf.retpc, b, fp, size, masked.map fun o => o - b, data⟩ s4

/-- The 32-bit words that a list of offsets names changed in a list of 8-byte words. -/
def reloc (masked : List Nat) (delta : Int) (data : List (Nat × Bool)) : List (Nat × Bool) :=
  let word := fun o (v : Nat) => if masked.contains o then ((v + delta) % 2 ^ 32).toNat else v
  data.mapIdx fun k d => (word (8 * k) (d.1 % 2 ^ 32) + 2 ^ 32 * word (8 * k + 4) (d.1 / 2 ^ 32), d.2)

/-- The frames of a tiller: masked words reduced, the bottom header with retpc and dist 0 and flags G. -/
def Cut.frames (c : Cut) : List (Nat × Bool) :=
  (reloc c.masked (-(c.b : Int)) c.data).mapIdx fun k d =>
    if k == 0 then (0, d.2)
    else if k == 1 then (d.1 / 2 ^ 32 % 2 ^ 24 * 2 ^ 32 + 2 * 2 ^ 56, d.2)
    else d

/-- Slots popped from the free list in order: each with its generation, and the list's new head (R380); a poisoned link, which forms an address, traps (R143). -/
def State.popSlots (g : Group) (lane : Nat) (a : Arena) : Nat → Nat → State → Chk (List (Nat × Nat) × Nat)
  | 0, head, s => .ok ([], head) s
  | n + 1, head, s =>
    (s.load8 g lane [a.slot head]).bind fun w s1 =>
      if bad8 w 0 then .trap ⟨Cause.poison, lane⟩ s1
      else (State.popSlots g lane a n (slotNext (at8 w 0)) s1).bind fun r s2 => .ok ((head, slotGen (at8 w 0)) :: r.1, r.2) s2

/-- The words of a slot that CUT writes (R380, R385): registers outside the mask are zero. -/
def Cut.slotWords (c : Cut) (g : Group) (a : Arena) (k gen : Nat) (tag vd : Nat) (regmask : Word) (rpc : DWord) : List Word8 :=
  let at_ := a.slot k
  let reg := fun j => if regmask.getLsbD j then g.rdp j c.lane else (0, false)
  ([(0, gen + 256), (0x10, c.size + tag * 2 ^ 32 + vd * 2 ^ 40), (0x18, regmask.toNat), (0x20, rpc.toNat), (0x28, c.b + (c.fp - c.b) * 2 ^ 32),
    (0x30, 0), (0x38, 0)].map fun w => ⟨c.lane, at_ + w.1, w.2, false⟩) ++
  ((List.range 16).map fun j =>
    ⟨c.lane, at_ + 0x40 + 8 * j, (reg (2 * j)).1.toNat + (reg (2 * j + 1)).1.toNat * 2 ^ 32, (reg (2 * j)).2 || (reg (2 * j + 1)).2⟩) ++
  c.frames.mapIdx fun n d => ⟨c.lane, at_ + 0xC0 + 8 * n, d.1, d.2⟩

/-- CUT (R385): every check first; then, in ascending lanes, a slot each, the handle, the unwound offsets, and the transfer. -/
def execCut (h : Hdr) (tag : BitVec 8) (vd : BitVec 6) (regmask : Word) (s : State) : Host.Outcome State Fault Refusal :=
  issue (.cut h tag vd regmask) s fun c =>
    let i : Instr := .cut h tag vd regmask
    if c.act == 0 then c.done i c.s
    else c.withForm i fun s view => c.clean view [62, 63] s <|
      let lanes := c.act.lanes
      let rpc := packetPlus c.packet 1
      ((s.arena view c.low).bind fun a s1 =>
        (Chk.each (fun i s => s.cutLane view a tag.toNat i) lanes s1).bind fun cuts s2 =>
        let arena := a.getD ⟨0, 0, 0, 0, 0⟩
        (Chk.test (decide (lanes.length ≤ arena.nfree)) ⟨Cause.tillerSpace, 0⟩ s2).bind fun _ s3 =>
        let sets := groupTargets 64 (cuts.map fun x => (x.lane, x.label))
        (Chk.test (s3.stackRoom c.g (pushCount sets false)) c.g.stackTrap s3).bind fun _ s4 =>
        (State.popSlots view c.low arena lanes.length arena.head s4).bind fun pops s5 =>
        (s5.store8 view (((cuts.zip pops.1).flatMap fun x =>
            x.1.slotWords view arena x.2.1 x.2.2 tag.toNat vd.toNat regmask rpc) ++
          arena.headWords c.low pops.2 (arena.nfree - lanes.length))).bind fun at_ s6 => .ok (cuts, pops.1, sets, at_) s6).res c i
        fun r s7 =>
      let handles := (r.1.zip r.2.1).map fun x => (x.1.lane, BitVec.ofNat 32 (x.2.2 * 2 ^ 24 + x.2.1))
      c.mayStore s7 r.2.2.2 <| c.writeThen i s7 c.act (.lanes vd.toNat (laneList handles) ::
          fpSpWrites (r.1.map fun x => (x.lane, (x.m + 2 ^ 32 - x.dist) % 2 ^ 32, x.m))) fun s8 =>
        .ok ((c.setG (c.stores s8 8 r.2.2.2) fun g => g.spread c.slot c.path r.2.2.1 none).endSafe c.g)

/-! ### GRAFT (R386) -/

/-- A tiller as GRAFT reads it for a lane: its slot, its slot's fields, registers and frames. -/
structure Tiller where
  lane : Nat
  slot : Nat
  size : Nat
  vd : Nat
  regmask : Word
  rpc : DWord
  fpr : Nat
  regs : List (Nat × Bool)
  data : List (Nat × Bool)
  deriving DecidableEq, Repr

/-- The walk of a tiller's frames, from the top frame down its chain of distances (R284, R385), as they land at offset d: the offsets of their masked words. A malformed header
traps STACK_LIMIT with the offset at which it lands (R376), a poisoned one, whose fields form addresses, POISON (R143). -/
def Tiller.walk (t : Tiller) (d : Nat) : Nat → Nat → Except Trap (List Nat)
  | 0, _ => .ok []
  | k + 1, at_ =>
    let f := Frame.of (at8 t.data (at_ / 8) + 2 ^ 64 * at8 t.data (at_ / 8 + 1)) (bad8 t.data (at_ / 8 + 1))
    if f.bad then .error ⟨Cause.poison, t.lane⟩
    else if !f.wellFormed then .error ⟨Cause.stackLimit, d + at_⟩
    else if f.dist == 0 || at_ < f.dist then .ok (f.maskedAt at_)
    else (t.walk d k (at_ - f.dist)).map fun rest => f.maskedAt at_ ++ rest

/-- The frames of a tiller, whose masked words are given, as they land at offset d below a frame at fp. -/
def Tiller.landed (t : Tiller) (masked : List Nat) (d fp : Nat) (ret : DWord) : List (Nat × Bool) :=
  (reloc masked d t.data).mapIdx fun k w =>
    if k == 0 then (ret.toNat, false)
    else if k == 1 then (w.1 / 2 ^ 32 * 2 ^ 32 + (d + 2 ^ 32 - fp) % 2 ^ 32, w.2)
    else w

/-- Register j of a tiller with its poison. -/
def Tiller.reg (t : Tiller) (j : Nat) : Word × Bool := (BitVec.ofNat 32 (wordIn t.regs (4 * j)), bad8 t.regs (j / 2))

/-- The slot that a lane's handle names for a GRAFT: a valid handle's; where the GRAFT has pinned its slots, the handle's index, for the slot is then kept whatever has become
of its generation (R391). -/
def State.graftSlot (s : State) (g : Group) (lane h : Nat) (pinned : Bool) : Chk (Option (Arena × Nat)) :=
  if pinned then (s.arena g lane).bind fun a s1 => .ok (a.map fun a => (a, h % 2 ^ 24)) s1 else s.handle g lane h

/-- The checks of GRAFT for one lane, and the tiller that its handle names. -/
def State.graftLane (s : State) (g : Group) (vh : BitVec 6) (pinned : Bool) (lane : Nat) : Chk Tiller :=
  let h := (g.rd vh lane).toNat
  let fp := (g.rd 62 lane).toNat
  let sp := (g.rd 63 lane).toNat
  (s.graftSlot g lane h pinned).bind fun v s1 =>
    match v with
    | none => .trap ⟨Cause.tillerStale, h⟩ s1
    | some (a, k) =>
      (Chk.test (fp % 16 == 0) ⟨Cause.misalign, fp⟩ s1).bind fun _ s2 =>
      (Chk.test (sp % 16 == 0) ⟨Cause.misalign, sp⟩ s2).bind fun _ s2 =>
      (s2.load8 g lane (words8 (a.slot k + 0x10) 4)).bind fun w s3 =>
        let size := at8 w 0 % 2 ^ 32
        (Chk.test (!w.any fun x => x.2) ⟨Cause.poison, lane⟩ s3).bind fun _ s3 =>
        (Chk.test (s3.inWindow g lane sp size) ⟨Cause.stackLimit, sp⟩ s3).bind fun _ s3 =>
        (Chk.test g.stackW ⟨Cause.addrPerm, sp⟩ s3).bind fun _ s3 =>
        (s3.stackAligned g lane sp).bind fun _ s3 =>
        (s3.load8 g lane (words8 (a.slot k + 0x40) 16)).bind fun regs s4 =>
        (s4.load8 g lane (words8 (a.slot k + 0xC0) (size / 8))).bind fun data s5 =>
          .ok ⟨lane, k, size, at8 w 0 / 2 ^ 40 % 64, BitVec.ofNat 32 (at8 w 1), BitVec.ofNat 64 (at8 w 2 % 2 ^ 51),
            at8 w 3 / 2 ^ 32, regs, data⟩ s5

/-- The value that a tiller gives a register of its lane, if it gives one: its saved registers, then 0 in the CUT's vd, then
the offsets. -/
def Tiller.gives (t : Tiller) (d r : Nat) : Option (Word × Bool) :=
  if r == 62 then some (BitVec.ofNat 32 (d + t.fpr), false)
  else if r == 63 then some (BitVec.ofNat 32 (d + t.size), false)
  else if r == t.vd then some (0, false)
  else if r < 32 && t.regmask.getLsbD r then some (t.reg r)
  else none

/-- One register's part of a GRAFT: the register, its lanes and their values. -/
structure Given where
  r : Nat
  lanes : Mask
  vals : List (Word × Bool)
  deriving DecidableEq, Repr

/-- Every register that a GRAFT writes. -/
def given (view : Group) (ts : List Tiller) : List Given :=
  (List.range 64).filterMap fun r =>
    let gs := ts.filterMap fun t => (t.gives (view.rd 63 t.lane).toNat r).map fun v => (t.lane, v)
    if gs.isEmpty then none
    else some ⟨r, gs.foldl (fun m x => m ||| Mask.bit x.1) 0,
      (List.range 64).map fun i => ((gs.find? fun x => x.1 == i).map Prod.snd).getD (0, false)⟩

/-- The registers of a GRAFT written, each in its own lanes, after the materializations that they require (R158). -/
def State.writeGiven (s : State) (n : Nat) (gs : List Given) : Regen :=
  match s.group n with
  | none => .ok s State.writeRegs.default0
  | some g =>
    let foot := fun (x : Given) => Foot.v1 (BitVec.ofNat 6 x.r)
    match s.materializeAll g ((List.range 64).filter fun r => gs.any fun x => g.mustMaterialize (foot x) x.lanes false r) with
    | .ok s1 g1 =>
      let g2 := gs.foldl (fun g x => g.writeLanes x.lanes x.r x.vals) (g1.dropRecipes (Foot.all (gs.map foot)))
      .ok (s1.setGroup n g2) g2
    | x => x

/-- The words that a lane's frames are written to. -/
def State.graftWords (s : State) (view : Group) (ret : DWord) (t : Tiller) : Except Trap (List Word8) :=
  let d := (view.rd 63 t.lane).toNat
  (t.walk d (t.size / 16 + 1) t.fpr).map fun masked =>
    (t.landed masked d (view.rd 62 t.lane).toNat ret).mapIdx fun k w => ⟨t.lane, s.stackEA view t.lane d + 8 * k, w.1, w.2⟩

/-- The words of every lane's frames; one in the arena is refused (R382). -/
def State.graftAll (s : State) (view : Group) (ret : DWord) (ts : List Tiller) : Except Trap (List Word8) :=
  (ts.mapM (s.graftWords view ret)).bind fun ws =>
    match ws.flatten.find? fun w => inArena (s.launchOf view) w.ea with
    | some w => .error ⟨Cause.addrPerm, w.ea⟩
    | none => .ok ws.flatten

/-- The slots that lanes name, each once, with the number of those lanes. -/
def slotCounts (ks : List Nat) : List (Nat × Nat) := ks.eraseDups.map fun k => (k, (ks.filter fun x => x == k).length)

/-- The words that pin slots once for each lane (R386); word 1 of each is given. -/
def pinWords (a : Arena) (lane : Nat) (slots : List (Nat × Nat)) (ws : List (List (Nat × Bool))) : List Word8 :=
  (slots.zip ws).map fun x => ⟨lane, a.slot x.1.1 + 8, at8 x.2 1 / 2 ^ 16 * 2 ^ 16 + (at8 x.2 1 + x.1.2) % 2 ^ 16, false⟩

/-- The words that unpin slots once for each lane: a slot that was dropped meanwhile goes to the head of the free list when its pins come to 0 (R388); words 0 and 1 of each are given. -/
def unpinWords (a : Arena) (lane : Nat) : Nat → Nat → List ((Nat × Nat) × List (Nat × Bool)) → List Word8
  | _, _, [] => []
  | head, nfree, (x, w) :: rest =>
    let pins := at8 w 1 % 2 ^ 16 - x.2
    let word1 : Word8 := ⟨lane, a.slot x.1 + 8, at8 w 1 / 2 ^ 16 * 2 ^ 16 + pins, false⟩
    if pins == 0 && !slotLive (at8 w 0) then
      word1 :: ⟨lane, a.slot x.1, slotGen (at8 w 0) + head * 2 ^ 16, false⟩ :: (a.headWords lane x.1 (nfree + 1) ++ unpinWords a lane x.1 (nfree + 1) rest)
    else word1 :: unpinWords a lane head nfree rest

/-- Words 0 and 1 of slots, read for a lane. -/
def State.slotWords (s : State) (g : Group) (lane : Nat) (a : Arena) (ks : List Nat) : Chk (List (List (Nat × Bool))) :=
  Chk.each (fun k s => s.load8 g lane (words8 (a.slot k) 2)) ks s

/-- What a GRAFT that has passed its checks does: its tillers, the targets of their lanes, the words that it writes to the stacks, and those that it writes to the arena. -/
structure Graft where
  ts : List Tiller
  sets : List (DWord × Mask)
  stack : List (LaneAcc × Nat)
  unit : List (LaneAcc × Nat)
  deriving DecidableEq, Repr

/-- The checks of GRAFT for every lane, all before anything changes (R383), and what it then writes: the pins; or, where its slots are pinned, the frames and the unpins. -/
def Ctx.graftCheck (c : Ctx) (view : Group) (vh : BitVec 6) (s : State) : Chk Graft :=
  (Chk.each (fun i s => s.graftLane view vh c.path.pinned i) c.act.lanes s).bind fun ts s1 =>
    let sets := groupTargets 64 (ts.map fun t => (t.lane, t.rpc))
    (Chk.test (s1.stackRoom c.g (pushCount sets true)) c.g.stackTrap s1).bind fun _ s2 =>
      match s2.graftAll view (packetPlus c.packet 1) ts with
      | .error t => .trap t s2
      | .ok ws =>
        (s2.store8 view ws).bind fun at_ s3 =>
        (s3.arena view c.low).bind fun a s4 =>
          let arena := a.getD ⟨0, 0, 0, 0, 0⟩
          let slots := slotCounts (ts.map Tiller.slot)
          (s4.slotWords view c.low arena (slots.map Prod.fst)).bind fun ps s5 =>
          (s5.store8 view (if c.path.pinned then unpinWords arena c.low arena.head arena.nfree (slots.zip ps) else pinWords arena c.low slots ps)).bind
            fun unit s6 => .ok ⟨ts, sets, at_, unit⟩ s6

/-- GRAFT (R386): every check first, and the pins; in its next step the copy, the registers, the unpins and the transfer. It waits while a register that a tiller gives is owed to
an earlier instruction (R36, R148). -/
def execGraft (h : Hdr) (vh : BitVec 6) (s : State) : Host.Outcome State Fault Refusal :=
  issue (.graft h vh) s fun c =>
    let i : Instr := .graft h vh
    if c.act == 0 then c.done i c.s
    else c.withForm i fun s view => c.clean view [vh, 62, 63] s <|
      (c.graftCheck view vh s).res c i fun r s4 =>
      let gs := given view r.ts
      if gs.any fun x => c.g.busyV.getLsbD x.r then .hold s4
      else c.mayStore s4 (r.stack ++ r.unit) <|
        if !c.path.pinned then .hold (c.setPath (c.stores s4 8 r.unit) fun p => { p with pinned := true })
        else match s4.writeGiven c.n gs with
          | .ok s5 _ => .ok (c.setG (c.stores s5 8 (r.stack ++ r.unit)) fun g =>
              g.spread c.slot { c.path with pinned := false } r.sets (some (packetPlus c.packet 1)))
          | .trap t s5 => .trap t s5
          | .wait s5 w r => c.waitRegen i s5 w r

/-! ### TDROP and TINFO (R388, R389) -/

/-- Handles checked one after another: none names a slot that is not LIVE or that an earlier lane drops. -/
def State.dropCheck (g : Group) (vh : BitVec 6) : List Nat → List Nat → State → Chk (List (Arena × Nat))
  | [], _, s => .ok [] s
  | i :: rest, seen, s =>
    let h := (g.rd vh i).toNat
    (s.handle g i h).bind fun v s1 =>
      match v with
      | none => .trap ⟨Cause.tillerStale, h⟩ s1
      | some (a, k) =>
        if seen.contains k then .trap ⟨Cause.tillerStale, h⟩ s1
        else (State.dropCheck g vh rest (k :: seen) s1).bind fun r s2 => .ok ((a, k) :: r) s2

/-- The words that a TDROP writes, slot by slot: a generation advances, and a slot goes to the head of the free list unless it is pinned. Words 0 and 1
of each slot are given. -/
def dropWords (lane : Nat) : Nat → Nat → List ((Arena × Nat) × List (Nat × Bool)) → List Word8
  | _, _, [] => []
  | head, nfree, (x, w) :: rest =>
    let gen := if slotGen (at8 w 0) == 255 then 1 else slotGen (at8 w 0) + 1
    if at8 w 1 % 2 ^ 16 != 0 then ⟨lane, x.1.slot x.2, gen, false⟩ :: dropWords lane head nfree rest
    else ⟨lane, x.1.slot x.2, gen + head * 2 ^ 16, false⟩ :: (x.1.headWords lane x.2 (nfree + 1) ++ dropWords lane x.2 (nfree + 1) rest)

/-- A TDROP's slots read and its words resolved, all before any slot changes (R383). -/
def State.dropAll (s : State) (g : Group) (lane : Nat) (xs : List (Arena × Nat)) : Chk (List (LaneAcc × Nat)) :=
  (s.arena g lane).bind fun a s1 =>
    (Chk.each (fun (x : Arena × Nat) s => s.load8 g lane (words8 (x.1.slot x.2) 2)) xs s1).bind fun ws s2 =>
      s2.store8 g (dropWords lane ((a.map Arena.head).getD noSlot) ((a.map Arena.nfree).getD 0) (xs.zip ws))

/-- TDROP (R388). -/
def execTdrop (h : Hdr) (vh : BitVec 6) (s : State) : Host.Outcome State Fault Refusal :=
  issue (.tdrop h vh) s fun c =>
    if c.act == 0 then c.done (.tdrop h vh) c.s
    else c.withForm (.tdrop h vh) fun s view => c.clean view [vh] s <|
      ((State.dropCheck view vh c.act.lanes [] s).bind fun xs s1 => s1.dropAll view c.low xs).res c (.tdrop h vh) fun at_ s2 =>
      c.mayStore s2 at_ <| c.done (.tdrop h vh) ((c.stores s2 8 at_).endSafe c.g)

/-- What TINFO writes for one lane, without a trap, with the mark of the words it comes from (R142, R143). -/
def State.infoLane (s : State) (g : Group) (vh : BitVec 6) (lane : Nat) : Chk (Nat × Word × Word × Bool) :=
  let h := (g.rd vh lane).toNat
  (s.handleRead g lane h).bind fun v s1 =>
    match v.1 with
    | none => .ok (lane, 0, 0, v.2) s1
    | some (a, k) => (s1.load8 g lane [a.slot k + 0x10]).bind fun w s2 =>
      .ok (lane, BitVec.ofNat 32 (at8 w 0), BitVec.ofNat 32 (at8 w 0 / 2 ^ 32 % 256 + h / 2 ^ 24 * 256 + 2 ^ 16), v.2 || bad8 w 0) s2

/-- TINFO (R389). -/
def execTinfo (h : Hdr) (vd vh : BitVec 6) (s : State) : Host.Outcome State Fault Refusal :=
  issue (.tinfo h vd vh) s fun c =>
    let i : Instr := .tinfo h vd vh
    if c.act == 0 then c.done i c.s
    else c.withForm i fun s view => c.clean view [vh] s <|
      (Chk.each (fun i s => s.infoLane view vh i) c.act.lanes s).res c i fun r s1 =>
      c.writeThen i s1 c.act [.lanes vd.toNat (laneMarked (r.map fun x => (x.1, x.2.1, x.2.2.2))),
        .lanes (vd.toNat + 1) (laneMarked (r.map fun x => (x.1, x.2.2.1, x.2.2.2)))] fun s2 => c.done i s2

end Sys2Proof.Machine
end

