-- ==== Sys2Proof/Machine/Context.lean ====
section
/-! DEFINITION. The saved-context layout (R163, R277, R342 to R346, R371): a team written into the bytes of an image, and read back with the
checks of a restore. -/

namespace Sys2Proof.Machine

/-- A number rounded up to a multiple. -/
def ceilTo (k n : Nat) : Nat := (n + k - 1) / k * k

/-- 32 bits of a mask: the half of a group that one block holds. -/
def halfMask (m : Mask) (h : Nat) : Nat := bitsOf m.toNat (32 * h) 32

/-! ### A group block written (R344 to R346) -/

/-- Registers, poison marks, predicates and RNGS of the lanes that a block holds. -/
def Group.laneFields (g : Group) (h : Nat) : List (Nat × Nat × Nat) :=
  ((List.range 64).flatMap fun r => (List.range 32).map fun i => (0x80 * r + 4 * i, 4, (g.rdp r (32 * h + i)).1.toNat)) ++
  ((List.range 64).map fun r => (0x2000 + 4 * r, 4, halfMask (Mask.ofFn fun i => (g.rdp r i).2) h)) ++
  ((List.range 7).map fun k => (0x2100 + 4 * k, 4, halfMask (Tbl.get 0 g.p k) h)) ++
  ((List.range 7).map fun k => (0x2120 + 4 * k, 4, halfMask (Tbl.get 0 g.pPoison k) h)) ++
  (List.range 32).map fun i => (0x2320 + 4 * i, 4, (Tbl.get 0 g.rngs (32 * h + i)).toNat)

/-- A slot record (R345). -/
def slotFields (at_ : Nat) (alive : Mask) : Option Path → List (Nat × Nat × Nat)
  | none => []
  | some p =>
    let l := p.loop.getD ⟨0, 0, 0, [], false⟩
    [(at_, 8, p.pc.toNat), (at_ + 8, 8, (p.mask &&& alive).toNat), (at_ + 16, 8, p.rpc.toNat), (at_ + 24, 8, l.start.toNat),
      (at_ + 32, 8, l.stop.toNat), (at_ + 40, 8, l.remaining.toNat + 2 ^ 32 + (if p.loop.isSome then 2 ^ 33 else 0))]

/-- The local entries that a group's block has places for: 16 of program level and 8 of trap level. -/
def Group.localStack (g : Group) : List DivEntry := (g.stack.drop g.spilt).take 16
def Group.localTrap (g : Group) : List DivEntry := g.tstack.take 8

/-- The local entries and their counts (R344). -/
def Group.stackFields (g : Group) : List (Nat × Nat × Nat) :=
  (0x24A0, 8, g.localStack.length + 256 * g.localTrap.length + g.spilt * 65536) ::
    (entryFields 0x2500 g.localStack ++ entryFields 0x2700 g.localTrap)

/-- Program-level entries of a halted group that lie in the spill area (R278): the block has places for 16 local ones, so that a pair with more of them spills the others where its
part of the area, of d entries for each hardware group, has room. What neither has room for the block cannot hold (log entry 39). -/
def Group.spiltAt (g : Group) (d : Nat) : Nat :=
  if g.stack.length ≤ g.spilt + 16 then g.spilt
  else Nat.max g.spilt (Nat.min (g.spilt + (g.stack.length - g.spilt - 16 + 7) / 8 * 8) (d * (if g.width = 64 then 2 else 1)))

/-- The fields that only the first block of a group holds. -/
def Group.groupFields (g : Group) : List (Nat × Nat × Nat) :=
  ((List.range 16).flatMap fun n => (descWords (g.areg (BitVec.ofNat 4 n))).mapIdx fun k v => (0x2140 + 24 * n + 8 * k, 8, v)) ++
  ((List.range 3).map fun n => (0x22C0 + 2 * n, 2, (g.xreg n).toNat)) ++
  ((List.range 4).map fun n => (0x22C8 + 4 * n, 4, (g.freg (BitVec.ofNat 2 n)).toNat)) ++
  ((List.range 8).map fun n => (0x22D8 + 8 * n, 8, (g.jreg n).toNat)) ++
  [(0x2318, 4, g.foldpol.toNat), (0x231C, 4, g.matcnt.toNat)] ++
  (g.scopes.mapIdx fun k e => (0x23A0 + 2 * k, 2, e.1.toNat + 256 * e.2.toNat)) ++
  [(0x23B0, 8, g.scopes.length)] ++ slotFields 0x23C0 g.alive g.slotA ++ slotFields 0x23F0 g.alive g.slotB ++
  [(0x2420, 8, (if g.trap.level then 1 else 0) + (if g.trap.slot = .b then 2 else 0) + (if g.trap.df then 4 else 0) +
      256 * g.trap.cause.toNat), (0x2428, 8, g.trap.pc.toNat), (0x2430, 8, g.trap.info.toNat)] ++
  slotFields 0x2440 g.alive g.trap.savedA ++ slotFields 0x2470 g.alive g.trap.savedB

/-- A LOG record (R346), for the lanes that a block holds. -/
def LogEntry.fields (e : LogEntry) (at_ h : Nat) : List (Nat × Nat × Nat) :=
  let un := e.lanes.foldl (fun m a => if e.pages.contains (a.ea / 65536) then m ||| Mask.bit a.lane else m) (0 : Mask)
  let here := e.lanes.filter fun a => a.lane / 32 == h
  [(at_, 4, (encode1 e.instr).toNat), (at_ + 4, 4, (encode2 e.instr).toNat), (at_ + 8, 8, e.pc.toNat), (at_ + 16, 8, e.mask.toNat),
    (at_ + 24, 8, un.toNat), (at_ + 32, 8, match e.kind with | .regen r | .perform r => r.toNat + 64 | .access | .again => 0)] ++
  here.flatMap fun a => [(at_ + 40 + 8 * (a.lane % 32), 8, a.ea), (at_ + 296 + 16 * (a.lane % 32), 16, a.data.toNat)]

/-- The 8-byte words of a LOG record whose store data are poisoned, by number (R142, R344). -/
def LogEntry.poisonAt (e : LogEntry) (at_ h : Nat) : List Nat :=
  (e.lanes.filter fun a => a.lane / 32 == h).flatMap fun a =>
    ((List.range 2).filter fun k => a.poison.getLsbD k).map fun k => (at_ + 296 + 16 * (a.lane % 32)) / 8 + k

/-- A COPY record (R346). -/
def CopyReq.fields (r : CopyReq) (at_ : Nat) : List (Nat × Nat × Nat) :=
  (at_, 64, r.block.toNat) :: (at_ + 64, 8, r.done) :: (at_ + 72, 8, r.rng.toNat) :: r.list.mapIdx fun k c => (at_ + 80 + 8 * k, 8, c.toNat)

/-- A RECIPE record (R163). -/
def Recipe.fields (rc : Recipe) (at_ : Nat) : List (Nat × Nat × Nat) :=
  let pinned := rc.pins.v &&& ~~~(Mask.bit rc.vd.toNat)
  (at_, 32, rc.pc.toNat + pinned.toNat * 2 ^ 64 + rc.vd.toNat * 2 ^ 128 + (rc.words.length - 1) * 2 ^ 141 +
    rc.pins.a.toNat * 2 ^ 144 + rc.pins.p.toNat % 128 * 2 ^ 160 + rc.pins.x.toNat * 2 ^ 169 + rc.pins.f.toNat * 2 ^ 172 +
    rc.m.toNat * 2 ^ 176) :: rc.words.mapIdx fun k w => (at_ + 32 + 4 * k, 4, w.toNat)

/-- The folded registers of a group, each with its recipe. -/
def Group.foldedRecipes (g : Group) : List Recipe :=
  (List.range 64).filterMap fun r => if (g.vreg r).hold == .folded then (g.vreg r).recipe else none

/-- A HUSK record (R371). -/
def Husk.fields (h : Husk) (key : DWord) (at_ : Nat) : List (Nat × Nat × Nat) :=
  [(at_, 8, h.lock), (at_ + 8, 8, key.toNat), (at_ + 16, 8, h.epoch.toNat + (if h.inside then 2 ^ 32 else 0) +
      (if h.adopt then 2 ^ 33 else 0) + (if h.orphd then 2 ^ 34 else 0) + (if h.waitd then 2 ^ 35 else 0) + h.lane * 2 ^ 40),
    (at_ + 24, 8, h.smask.toNat + h.spreds.toNat * 2 ^ 32)] ++ (h.sregs.mapIdx fun k v => (at_ + 32 + 4 * k, 4, v.1.toNat)) ++
  (descWords h.sa0 ++ descWords h.sa1).mapIdx fun k v => (at_ + 64 + 8 * k, 8, v)

/-- The 8-byte words of a HUSK record that hold poisoned registers of the stash, by number (R142). -/
def Husk.poisonAt (h : Husk) (at_ : Nat) : List Nat :=
  ((List.range h.sregs.length).filter fun k => ((h.sregs[k]?).map Prod.snd).getD false).map fun k => (at_ + 32 + 4 * k) / 8

/-- The group holds matrix state (R346). -/
def Group.hasMx (g : Group) : Bool :=
  (g.ob ++ g.b).any Option.isSome || g.tiles.any Option.isSome || !g.mx.isEmpty || g.mxFault.isSome || g.frozen

/-- A reservation record (R232). -/
def resvBits : Option Resv → Nat
  | none => 0
  | some r => 2 ^ 63 + (r.size - 1) * 2 ^ 40 + r.etype * 2 ^ 36 + r.fmt.toNat

/-- The twelve reservations of a group in slot order, each with whether it is a b slot. -/
def Group.resvs (g : Group) : List (Bool × Option Resv) :=
  ((List.range 8).map fun k => (false, g.obAt k)) ++ (List.range 4).map fun k => (true, g.bAt k)

/-- Bytes of a reservation: flat, or slice by slice. -/
def resvBytes (b : Bool) (r : Resv) : Nat := if b then r.size * 65536 else r.size * 4096

/-- A reservation's bytes as the image holds them (R232, R346): a b reservation's slices lie one after another. -/
def resvBlob (b : Bool) (r : Resv) : Blob :=
  if b then
    let place := fun a => a / 16384 * (r.size * 256) + a % 16384
    ⟨r.data.map fun c => (place c.1, c.2), r.poison.map fun w => place (8 * w) / 8⟩
  else ⟨r.data, r.poison⟩

/-- A tile's elements as the image holds them (R138, R346). -/
def Tile.blob (t : Tile) : Blob :=
  ⟨Mem.puts [] ((List.range 128).flatMap fun r => (List.range 256).map fun c => ((r * 256 + c) * 8, 8, (Tbl.get 0 (Tbl.get [] t.rows r) c).toNat)),
    (List.range 128).flatMap fun r => ((List.range 256).filter fun c => (Tbl.get 0 t.poison r).getLsbD c).map fun c => r * 256 + c⟩

/-- The head of the matrix queue as the status word gives its place. -/
def Group.mxPlace (g : Group) : Nat × Nat := match g.mx with | w :: _ => (w.it, w.k) | [] => (0, 0)

/-- The MATRIX section up to its queue (R346). -/
def Group.mxFields (g : Group) (at_ : Nat) : List (Nat × Nat × Nat) :=
  (g.resvs.mapIdx fun k r => (at_ + 8 * k, 8, resvBits r.2)) ++
  [(at_ + 96, 8, g.mxPlace.1 + g.mxPlace.2 * 2 ^ 32 + (if g.frozen && g.trap.level then 2 ^ 44 else 0) + (if g.mxFault.isSome then 2 ^ 45 else 0) +
      ((if (g.tileAt 0).isSome then 1 else 0) + (if (g.tileAt 1).isSome then 2 else 0)) * 2 ^ 46 + g.mx.length * 2 ^ 48),
    (at_ + 104, 8, match g.mxFault with | some f => mxInfo f | none => 0),
    (at_ + 112, 8, (Mask.ofFn fun k => decide ((g.vreg k).locks != 0)).toNat)] ++
  (g.mx.mapIdx fun k w => [(at_ + 120 + 16 * k, 4, (encode1 w.instr).toNat), (at_ + 124 + 16 * k, 4, (encode2 w.instr).toNat),
    (at_ + 128 + 16 * k, 8, w.pc.toNat)]).flatten

/-- Blobs laid one after another from an offset: the offset past them, and their join. -/
def layBlobs : Nat → List (Nat × Blob) → Blob → Nat × Blob
  | at_, [], b => (at_, b)
  | at_, (n, c) :: rest, b => layBlobs (at_ + n) rest (b.put at_ c)

/-- The contents of reservations and tiles in image order, with their sizes. -/
def Group.mxContents (g : Group) : List (Nat × Blob) :=
  (g.resvs.filterMap fun r => r.2.map fun x => (resvBytes r.1 x, resvBlob r.1 x)) ++
    (List.range 2).filterMap fun t => (g.tileAt t).map fun x => (262144, x.blob)

/-- The first block of a group (R344): its bytes and its size. -/
def Group.firstBlock (g : Group) (copies : List CopyReq) : Nat × Blob :=
  let rcs := g.foldedRecipes
  let oLog := 0x2840
  let oCopy := oLog + 832 * g.log.length
  let oRec := oCopy + 336 * copies.length
  let oHusk := oRec + 64 * rcs.length
  let oMx := oHusk + (if g.husk.isSome then 128 else 0)
  let dir := fun k count off => (0x2800 + 8 * k, 8, if count == 0 then 0 else count + off * 2 ^ 32)
  let fields := g.laneFields 0 ++ g.groupFields ++ g.stackFields ++ (g.log.mapIdx fun k e => e.fields (oLog + 832 * k) 0).flatten ++
    (copies.mapIdx fun k r => r.fields (oCopy + 336 * k)).flatten ++ (rcs.mapIdx fun k r => r.fields (oRec + 64 * k)).flatten ++
    (match g.husk with | some h => h.fields g.key oHusk | none => []) ++ (if g.hasMx then g.mxFields oMx else []) ++
    [dir 0 g.log.length oLog, dir 1 copies.length oCopy, dir 2 rcs.length oRec, dir 3 (if g.hasMx then 1 else 0) oMx,
      dir 4 (if g.husk.isSome then 1 else 0) oHusk]
  let poison := (g.log.mapIdx fun k e => e.poisonAt (oLog + 832 * k) 0).flatten ++ (match g.husk with | some h => h.poisonAt oHusk | none => [])
  let b : Blob := ⟨Mem.puts [] fields, poison.eraseDups⟩
  if g.hasMx then layBlobs (ceilTo 256 (oMx + 120 + 16 * g.mx.length)) g.mxContents b else (oMx, b)

/-- The second block of a pair (R343): the upper lanes of its registers and of its log records, which stand where the first block has them, and nothing else. -/
def Group.secondBlock (g : Group) : Nat × Blob :=
  let fields := g.laneFields 1 ++ (g.log.mapIdx fun k e => e.fields (0x2840 + 832 * k) 1).flatten
  (0x2840 + 832 * g.log.length, ⟨Mem.puts [] fields, (g.log.mapIdx fun k e => e.poisonAt (0x2840 + 832 * k) 1).flatten⟩)

/-- The blocks of a group. -/
def Group.blocks (g : Group) (copies : List CopyReq) : List (Nat × Blob) :=
  g.firstBlock copies :: (if g.width = 64 then [g.secondBlock] else [])

/-! ### A team context written (R343) -/

/-- Exception counts as a 768-byte record (R211). -/
def countsBlob (counts : List Nat) : Blob := ⟨Mem.puts [] ((List.range 192).map fun k => (4 * k, 4, Tbl.get 0 counts k)), []⟩

/-- The blocks of a team of n declared groups, by GROUPID (R343); a group that has retired has blocks of zeros, in which no lane is alive. -/
def teamBlocks (n : Nat) (pair : Bool) (groups : List (Group × List CopyReq)) : List (Nat × Blob) :=
  (List.range n).flatMap fun k => match groups.find? fun x => x.1.gid == k with
    | some x => x.1.blocks x.2
    | none => List.replicate (if pair then 2 else 1) (0x2840, ⟨[], []⟩)

/-- The image of a team of n declared groups at an address: its size and its bytes, the header first. -/
def Team.image (t : Team) (n : Nat) (groups : List (Group × List CopyReq)) (va : Nat) : Nat × Blob :=
  let blocks := teamBlocks n (t.width == 64) groups
  let gsize := ceilTo 256 ((blocks.map Prod.fst).foldl Nat.max 0)
  let gblk := 1024 + t.localSize
  let head : Blob := ⟨Mem.puts [] [(0, 4, 0x4D545A4F), (4, 2, t.node), (6, 2, n + (if t.width = 64 then 64 else if t.width = 16 then 128 else 0)),
    (8, 4, t.teamId.toNat), (12, 4, t.prio + (if t.rescue then 256 else 0) + (if t.safe then 512 else 0)),
    (16, 8, if t.localSize == 0 then 0 else va + 1024), (24, 8, va + gblk), (32, 8, gsize),
    (40, 8, if t.counts.all (fun c => c == 0) then 0 else va + 256)], []⟩
  let b := (head.put 256 (countsBlob t.counts)).put 1024 ⟨t.localMem, t.localPoison⟩
  (gblk + gsize * blocks.length, (blocks.mapIdx fun k x => (k, x.2)).foldl (fun b x => b.put (gblk + gsize * x.1) x.2) b)

/-- A group's spilled divergence entries, at the place of its launch slot in the spill area (R278, R344). -/
def State.spillStack (s : State) (l : Launch) (g : Group) : State :=
  s.putEntries l.asid (l.hdr.spill + g.lslot * l.hdr.d * 32) (g.stack.take g.spilt)

/-! ### A group block read (R344 to R347) -/

/-- A vector register from its saved lanes: empty, uniform or in rows. R164 does not say in which of these states a register restored as a value stands: the model goes by
its values (DESIGN CHOICE, log entry 79). -/
def holdOf (w : Nat) (val : Nat → Word × Bool) : Hold :=
  let lanes := List.range w
  let v0 := val 0
  if lanes.all fun i => (val i).1 == 0 && !(val i).2 then .empty
  else if lanes.all fun i => val i == v0 then .uniform v0.1 v0.2
  else .rows (lanes.map fun i => (val i).1) (Mask.ofFn fun i => decide (i < w) && (val i).2)

/-- A mask of both halves. -/
def joinMask (lo hi : Nat) : Mask := BitVec.ofNat 64 (lo + hi * 2 ^ 32)

/-- A slot record (R345); none where its reserved bits are not zero. -/
def slotOf (b : Blob) (at_ : Nat) : Option (Option Path) :=
  let top := b.get (at_ + 40) 8
  if top / 2 ^ 34 != 0 then none
  else if top / 2 ^ 32 % 2 == 0 then some none
  else
    let dw := fun k => BitVec.ofNat 64 (b.get (at_ + 8 * k) 8)
    some (some { Path.mk' (dw 0) (dw 1) (dw 2) with
      loop := if top / 2 ^ 33 % 2 == 1 then some ⟨dw 3, dw 4, BitVec.ofNat 32 top, [], false⟩ else none })

/-- A divergence entry (R277); none where it is malformed. -/
def entryOf (b : Blob) (at_ : Nat) (pair : Bool) : Option DivEntry :=
  let k := b.get (at_ + 24) 8
  let pc := b.get at_ 8
  let mask := b.get (at_ + 16) 8
  let bar := k / 2 ^ 56 % 16
  let rel := k / 2 ^ 55 % 2 == 1
  let e := fun kind => some (⟨kind, BitVec.ofNat 64 pc, BitVec.ofNat 64 mask, BitVec.ofNat 64 (b.get (at_ + 8) 8)⟩ : DivEntry)
  if k % 2 ^ 55 != 0 || pc / 2 ^ 51 != 0 || (!pair && mask / 2 ^ 32 != 0) then none
  else match k / 2 ^ 60 with
    | 0 => if bar == 0 && !rel then e .join else none
    | 1 => if bar == 0 && !rel then e .parked else none
    | 2 => if bar ≤ 12 then e (.held bar rel) else none
    | _ => none

/-- Entries one after another. -/
def entriesOf (b : Blob) (at_ n : Nat) (pair : Bool) : Option (List DivEntry) :=
  (List.range n).mapM fun k => entryOf b (at_ + 32 * k) pair

/-- What an entry of the operand log read from an image waits to do: a record with RG names a register, and its instruction's path stands at it still or has gone on; one of a memory
instruction is its access; any other makes its instruction issue once more. -/
def logKindOf (i : Instr) (rg : Nat) (stands : Bool) : LogKind :=
  if rg / 64 == 1 then (if stands || !defers i then .regen (BitVec.ofNat 6 rg) else .perform (BitVec.ofNat 6 rg))
  else if (memOpOf i).isSome then .access else .again

/-- A LOG record read from the blocks of a group (R346); `paths` are the paths of the group. -/
def logOf (b1 b2 : Blob) (at_ : Nat) (due : Nat) (slotAt : DWord → SlotId) (paths : List DWord) : Option LogEntry :=
  let at1 := at_
  let at2 := at_
  let head := b1.part at1 40
  match decode (BitVec.ofNat 32 (head.get 0 4)) (BitVec.ofNat 32 (head.get 4 4)) with
  | .error _ => none
  | .ok i =>
    let pc := BitVec.ofNat 64 (head.get 8 8)
    let mask : Mask := BitVec.ofNat 64 (head.get 16 8)
    let un : Mask := BitVec.ofNat 64 (head.get 24 8)
    let rg := head.get 32 8
    let lane := fun i =>
      let b := if i < 32 then b1 else b2
      let at_ := if i < 32 then at1 else at2
      (⟨i, b.get (at_ + 40 + 8 * (i % 32)) 8, BitVec.ofNat 128 (b.get (at_ + 296 + 16 * (i % 32)) 16), marksIn b.poison (at_ + 296 + 16 * (i % 32)) 16⟩ : LaneAcc)
    let lanes := if rg / 64 == 1 then [] else (partLanes i.hdr mask).map lane
    if rg / 128 != 0 || !b1.zeroAt (at1 + 808) 24 then none
    else some ⟨i, pc, slotAt pc, mask, lanes, ((lanes.filter fun a => un.getLsbD a.lane).map fun a => a.ea / 65536).eraseDups, due,
      logKindOf i rg (paths.contains pc), acquires i, 0⟩

/-- A RECIPE record read (R163, R164); none where a reserved field is not zero or the record does not fit its words. -/
def recipeOf (b : Blob) (at_ : Nat) (pair : Bool) : Option Recipe :=
  let n := b.get at_ 32
  let f := bitsOf n
  let len := f 141 3 + 1
  let words := (List.range len).map fun k => BitVec.ofNat 32 (b.get (at_ + 32 + 4 * k) 4)
  let vd := f 128 6
  let okWords := (sliceOf words.length words).any fun is => is.all inSlice && is.getLast?.bind vectorDest == some vd
  if f 240 16 != 0 || f 134 7 != 0 || f 168 1 != 0 || f 167 1 != 0 || (!pair && f 208 32 != 0) || (f 64 64) / 2 ^ vd % 2 == 1 ||
      !b.zeroAt (at_ + 32 + 4 * len) (32 - 4 * len) || !okWords then none
  else some ⟨BitVec.ofNat 64 n, words, BitVec.ofNat 6 vd, BitVec.ofNat 64 (f 176 64),
    ⟨BitVec.ofNat 64 (f 64 64), BitVec.ofNat 8 (f 160 8), BitVec.ofNat 3 (f 169 3), BitVec.ofNat 16 (f 144 16), BitVec.ofNat 4 (f 172 4)⟩⟩
where
  /-- The instructions of a list of words; none where a word is no instruction or the list ends within one. -/
  sliceOf : Nat → List Word → Option (List Instr)
  | 0, _ => some []
  | _ + 1, [] => some []
  | k + 1, w :: rest =>
    match decode w (rest.headD 0) with
    | .error _ => none
    | .ok i => if rest.length + 1 < i.words then none else (sliceOf k (rest.drop (i.words - 1))).map fun l => i :: l

/-- A COPY record read (R113, R346); none where a field that must be zero is not: past the 32 bits of the generator, or in the list past lcnt. -/
def copyOf (b : Blob) (at_ core team group : Nat) : Option CopyReq :=
  let blk : BitVec 512 := BitVec.ofNat 512 (b.get at_ 64)
  let n := blkLcnt blk
  if 32 < n || blkField blk 510 2 != 0 || blkField blk 474 4 != 0 || blkField blk 184 8 != 0 || b.get (at_ + 76) 4 != 0 || !b.zeroAt (at_ + 80 + 8 * n) (256 - 8 * n) then none
  else some ⟨core, team, group, blk, (List.range n).map fun k => BitVec.ofNat 64 (b.get (at_ + 80 + 8 * k) 8), b.get (at_ + 64) 8,
    BitVec.ofNat 32 (b.get (at_ + 72) 4), 0, none, [], 0, [], [], []⟩

/-- A HUSK record read (R371), with what the lock block gives of the capsule; the key beside it. The mask of an adoption is that of its stash; that of a holder, and the count of results,
stand in the block while its words are the group's own, and nowhere once another has the lock: then they are a free value, as is the PC of an adoption's HENTER (log entry 39). -/
def State.huskOf (s : State) (asid : Nat) (b : Blob) (at_ : Nat) : Option (Husk × DWord) :=
  let w2 := b.get (at_ + 16) 8
  let w3 := b.get (at_ + 24) 8
  let lock := b.get at_ 8
  let f := bitsOf w2
  let bad := fun k => descBad (b.get (at_ + 72 + k) 8) (b.get (at_ + 80 + k) 8)
  if f 36 4 != 0 || f 46 18 != 0 || w3 / 2 ^ 36 != 0 || bad 0 || bad 24 || !b.zeroAt (at_ + 112) 16 then none
  else
    let pa := match s.walk asid lock with | .leaf _ e big => some (leafPA e big lock) | _ => none
    let lw := fun k => match pa with | some pa => s.lockWord pa k | none => 0
    let dw := fun k => b.get (at_ + 64 + 8 * k) 8
    let smask := BitVec.ofNat 32 w3
    let adopt := f 33 1 == 1
    let mine := lkEpoch (lw 0) == w2 % 2 ^ 32 && (adopt || lw 1 == b.get (at_ + 8) 8)
    let open_ := Config.restoredMask s.ticks
    some (⟨lock, f 32 1 == 1, adopt, f 34 1 == 1, f 35 1 == 1, f 40 6, BitVec.ofNat 32 w2, (if adopt then smask else if mine then lkMask (lw 3) else open_.1),
      (if mine then lkNres (lw 3) else open_.2), lkIcount (lw 3),
      lkStep (lw 0), Config.restoredHenter s.ticks, (((List.range 4).find? fun j => lw (16 + 4 * j) == lw 1 && lw 1 != 0).getD 4), smask,
      (List.range (maskRegs smask).length).map fun k => (BitVec.ofNat 32 (b.get (at_ + 32 + 4 * k) 4), poisonedIn b.poison (at_ + 32 + 4 * k) 4), BitVec.ofNat 4 (w3 / 2 ^ 32),
      descOf (dw 0) (dw 1) (dw 2), descOf (dw 3) (dw 4) (dw 5), false, none⟩, BitVec.ofNat 64 (b.get (at_ + 8) 8))

/-- A reservation record read, its contents and place still open (R232). -/
def resvOf (b : Bool) (n : Nat) : Option (Option Resv) :=
  let f := bitsOf n
  if f 63 1 == 0 then (if n == 0 then some none else none)
  else if f 47 16 != 0 || f 32 4 != 0 || (b && f 46 1 != 0) || !etypeOk (f 36 4) (BitVec.ofNat 32 n) then none
  else some (some ⟨f 40 7 + 1, f 36 4, BitVec.ofNat 32 n, 0, [], []⟩)

/-- A reservation's contents read from the image. -/
def Resv.fill (r : Resv) (b : Bool) (c : Blob) : Resv :=
  let place := fun a => a / (r.size * 256) * 16384 + a % (r.size * 256)
  if b then { r with data := c.mem.map fun x => (place x.1, x.2), poison := c.poison.map fun w => place (8 * w) / 8 }
  else { r with data := c.mem, poison := c.poison }

/-- A tile read from the image. -/
def tileOfBlob (c : Blob) : Tile :=
  ⟨(List.range 128).map fun r => (List.range 256).map fun k => BitVec.ofNat 56 (c.get ((r * 256 + k) * 8) 7),
    (List.range 128).map fun r => BitVec.ofNat 256 ((List.range 256).foldl (fun acc k => if c.poison.contains (r * 256 + k) then acc + 2 ^ k else acc) 0)⟩

/-- Contents taken in order from an offset. -/
def takeResvs (b : Blob) : Nat → List (Bool × Option Resv) → Nat × List (Option Resv)
  | at_, [] => (at_, [])
  | at_, (_, none) :: rest => let q := takeResvs b at_ rest; (q.1, none :: q.2)
  | at_, (k, some r) :: rest =>
    let n := resvBytes k r
    let q := takeResvs b (at_ + n) rest
    (q.1, some (r.fill k (b.part at_ n)) :: q.2)

/-- The MATRIX section read into a group (R251, R346). Work that had begun goes on with the register operands that its locks kept. -/
def Group.readMx (g : Group) (b : Blob) (at_ : Nat) : Option Group := do
  let recs ← (List.range 12).mapM fun k => (resvOf (decide (8 ≤ k)) (b.get (at_ + 8 * k) 8)).map fun r => (decide (8 ≤ k), r)
  let st := b.get (at_ + 96) 8
  let f := bitsOf st
  if f 53 11 != 0 then none
  let q := f 48 5
  let works ← (List.range q).mapM fun k =>
    match decode (BitVec.ofNat 32 (b.get (at_ + 120 + 16 * k) 4)) (BitVec.ofNat 32 (b.get (at_ + 124 + 16 * k) 4)) with
    | .ok i => some (⟨i, BitVec.ofNat 64 (b.get (at_ + 128 + 16 * k) 8), g.alive, none, Desc.null, 0, 0, false, none, none, false⟩ : MxWork)
    | .error _ => none
  let r := takeResvs b (ceilTo 256 (at_ + 120 + 16 * q)) recs
  let t0 := if f 46 1 == 1 then some (tileOfBlob (b.part r.1 262144)) else none
  let at1 := r.1 + (if f 46 1 == 1 then 262144 else 0)
  let t1 := if f 47 1 == 1 then some (tileOfBlob (b.part at1 262144)) else none
  let info := b.get (at_ + 104) 8
  let begun := fun (w : MxWork) => { w with
    desc := (match w.instr with | .accst _ an .. | .accld _ an .. => g.areg an | _ => Desc.null)
    it := f 0 32, k := f 32 12, ops := if f 0 32 == 0 && f 32 12 == 0 then none else some (g.mxOperands w).1 }
  let mx := match works with | w :: rest => begun w :: rest | [] => []
  let g1 := mx.foldl (fun (g : Group) w => if locksLong w.instr || w.ops.isNone then g.lock w.instr else g) g
  some { g1 with
    ob := r.2.take 8, b := r.2.drop 8, tiles := [t0, t1], mx := mx, frozen := f 44 1 == 1
    mxFault := if f 45 1 == 1 then some ⟨info % 256, info / 256 % 128, BitVec.ofNat 64 (info / 2 ^ 15 * 4)⟩ else none }

/-- The reserved fields of a block are zero (R344). -/
def blockZero (b : Blob) : Bool :=
  b.zeroAt 0x211C 4 && b.zeroAt 0x213C 4 && b.zeroAt 0x22C6 2 && b.zeroAt 0x2438 8 && b.zeroAt 0x24A8 88 && b.zeroAt 0x2828 24 &&
    b.get 0x23B0 16 ≤ 8 && b.get 0x2420 8 / 65536 == 0 && b.get 0x2420 8 % 256 < 8 && b.get 0x24A0 8 / 2 ^ 32 == 0 &&
    b.get 0x24A0 8 / 32 % 8 == 0 && b.get 0x24A0 8 / 4096 % 16 == 0 &&
    (List.range 8).all fun k => b.get (0x23A0 + 2 * k) 2 / 64 % 4 == 0 && b.get (0x23A0 + 2 * k) 2 / 2 ^ 14 == 0

/-- What a pair's second block holds beside its lanes and its log records is zero (R343). -/
def secondZero (b : Blob) : Bool :=
  b.zeroAt 0x211C 4 && b.zeroAt 0x213C 4 && b.zeroAt 0x2140 (0x2320 - 0x2140) && b.zeroAt 0x23A0 (0x2840 - 0x23A0)

/-- Address register n of a group as its block has it; none where a reserved bit is not zero (R68, R344). -/
def aregOf (b : Blob) (n : Nat) : Option Desc :=
  let w := fun k => b.get (0x2140 + 24 * n + 8 * k) 8
  if descBad (w 1) (w 2) then none else some (descOf (w 0) (w 1) (w 2))

/-- A group read from its blocks (R344): every field but those of its place and its key. -/
def groupOf (b1 b2 : Blob) (width due : Nat) (spilled : List DivEntry) : Option Group := do
  let pair := width == 64
  let w := if pair then 64 else 32
  let half := fun i => if i < 32 then b1 else b2
  let val := fun r i => if i < width then
      (BitVec.ofNat 32 ((half i).get (0x80 * r + 4 * (i % 32)) 4), decide ((half i).get (0x2000 + 4 * r) 4 / 2 ^ (i % 32) % 2 = 1))
    else (0, false)
  if !blockZero b1 || (pair && !secondZero b2) then none
  let both := fun at_ => joinMask (b1.get at_ 4) (if pair then b2.get at_ 4 else 0)
  let slotA ← slotOf b1 0x23C0
  let slotB ← slotOf b1 0x23F0
  let savedA ← slotOf b1 0x2440
  let savedB ← slotOf b1 0x2470
  let n1 := b1.get 0x24A0 8
  let local_ ← entriesOf b1 0x2500 (Nat.min 16 (n1 % 32)) pair
  let tstack ← entriesOf b1 0x2700 (Nat.min 8 (n1 / 256 % 16)) pair
  let aregs ← (List.range 16).mapM (aregOf b1)
  let trapWord := b1.get 0x2420 8
  let level := trapWord % 2 == 1
  let stack := spilled ++ local_
  let paths := (slotA.toList ++ slotB.toList ++ savedA.toList ++ savedB.toList).map Path.pc ++ (stack ++ tstack).map DivEntry.pc
  let union := fun (l : List DivEntry) => l.foldl (fun m e => if e.kind == .join then m else m ||| e.mask) (0 : Mask)
  let maskOf := fun (p : Option Path) => (p.map Path.mask).getD 0
  let alive := maskOf slotA ||| maskOf slotB ||| union (if level then tstack else stack)
  let log ← (List.range (b1.get 0x2800 4)).mapM fun k =>
    logOf b1 b2 (b1.get 0x2804 4 + 832 * k) due (fun pc => if (slotA.map Path.pc) == some pc then .a else .b) paths
  let base := State.writeRegs.default0
  let g : Group := { base with
    width := width
    v := (List.range 64).map fun r => ⟨holdOf w (val r), none, 0⟩
    p := (List.range 7).map fun k => both (0x2100 + 4 * k)
    pPoison := (List.range 7).map fun k => both (0x2120 + 4 * k)
    x := (List.range 3).map fun k => BitVec.ofNat 16 (b1.get (0x22C0 + 2 * k) 2)
    a := aregs
    f := (List.range 4).map fun k => BitVec.ofNat 32 (b1.get (0x22C8 + 4 * k) 4)
    j := (List.range 8).map fun k => BitVec.ofNat 64 (b1.get (0x22D8 + 8 * k) 8)
    foldpol := BitVec.ofNat 32 (b1.get 0x2318 4)
    matcnt := BitVec.ofNat 32 (b1.get 0x231C 4)
    rngs := (List.range w).map fun i => BitVec.ofNat 32 ((half i).get (0x2320 + 4 * (i % 32)) 4)
    scopes := (List.range (b1.get 0x23B0 8)).map fun k =>
      (BitVec.ofNat 6 (b1.get (0x23A0 + 2 * k) 2), BitVec.ofNat 6 (b1.get (0x23A0 + 2 * k) 2 / 256))
    slotA := slotA, slotB := slotB, stack := stack, tstack := tstack, spilt := spilled.length, exited := ~~~alive
    trap := ⟨level, if trapWord / 2 % 2 == 1 then .b else .a, trapWord / 4 % 2 == 1, BitVec.ofNat 8 (trapWord / 256),
      BitVec.ofNat 64 (b1.get 0x2428 8), BitVec.ofNat 64 (b1.get 0x2430 8), savedA, savedB⟩
    log := log, live := true }
  let g1 := { g with exited := g.all &&& ~~~alive }
  if b1.get 0x2818 4 == 0 then some g1 else g1.readMx b1 (b1.get 0x281C 4)

/-- A fault that the restore of register r met belongs to the group's first instruction after resumption (R161, R164): it waits in the operand log for the register, which
stays folded meanwhile. The instruction is not fetched yet, and stands as a NOP in the entry. Where the log has no entry left (R62), the path waits for the page
instead. -/
def State.foldWait (s : State) (n : Nat) (g : Group) (r : Nat) (pages : List Nat) : State :=
  let slot : SlotId := if g.slotA.isSome then .a else .b
  let e : LogEntry := ⟨.nop false, ((g.slot slot).map Path.pc).getD 0, slot, g.alive, [], pages, s.orphanDue, .regen (BitVec.ofNat 6 r), false, 0⟩
  if g.log.length < Config.logPerGroup && s.logOn (s.coreOf g) < Config.logPerCore then s.setGroup n { g with log := e :: g.log }
  else s.setGroup n (g.setSlot slot ((g.slot slot).map fun p => { p with wait := pages.head?.map fun k => .page (k * 65536) }))

/-- Code in memory still has the words of a recipe (R164). -/
def State.codeHolds (s : State) (asid : Nat) : Nat → List Word → Bool × State
  | _, [] => (true, s)
  | va, w :: ws =>
    let r := s.readVA asid va 4
    let rest := r.2.codeHolds asid (va + 4) ws
    (r.1 == some w.toNat && rest.1, rest.2)

/-- A folded register of group n restored (R164): folded again where a record is free and the code still matches, else materialized into a row; what its slice's LDK meets
belongs to the first instruction. -/
def State.foldBack (s : State) (asid core n : Nat) (rc : Recipe) : State :=
  match s.group n with
  | none => s
  | some g =>
    let held := ((List.range 64).filter fun k => ((g.vreg k).recipe).isSome).length
    let same := s.codeHolds asid rc.pc.toNat rc.words
    let r := rc.vd.toNat
    let g1 := g.setVreg r { g.vreg r with hold := .folded, recipe := some rc }
    if held < Config.recipesPerGroup && s.recipesOn core < Config.recipesPerCore && same.1 then same.2.setGroup n g1
    else
      match same.2.materialize g1 r with
      | .ok s1 g2 => (s1.setGroup n g2).fitRows n g1.inRows
      | .trap t s1 => s1.setGroup n { g1 with
          deferred := some ⟨t.cause, BitVec.ofNat 64 t.info, ((g1.slot (if g1.slotA.isSome then .a else .b)).map Path.pc).getD 0, false⟩ }
      | .wait s1 (.page _ pages) _ => s1.foldWait n g1 r pages
      | .wait s1 w _ => (s1.foldWait n g1 r []).pendFor n w

end Sys2Proof.Machine
end

