-- ==== Sys2Proof/Machine/Hub.lean ====
section
/-! DEFINITION. The dispatch hub: validation of a launch image (R314, R324, R342, R343), acceptance, admission and dispatch (R271, R272, R285,
R315, R317, R327, R329, R330, R347), completion (R316), and LAUNCH with its answer (R323). -/

namespace Sys2Proof.Machine

/-! ### Validation (R314) -/

/-- A test of a validation. -/
def checked (ok : Bool) (reason : Nat) (s : State) : Chk Unit := Chk.test ok (refusal reason) s

/-- Edges of a graph, as successor lists: every target is a node, npred counts the edges into each node, and no cycle (R314 GRAPH). -/
def graphOk (nodes : List NodeRec) (succs : List (List Nat)) : Bool :=
  let n := nodes.length
  let into := fun m => (succs.map fun l => (l.filter fun k => k == m).length).foldl (· + ·) 0
  succs.all (fun l => l.all fun m => decide (m < n)) &&
    (List.range n).all (fun m => (nodes[m]?.map NodeRec.npred).getD 0 == into m) &&
    clear succs n (nodes.map NodeRec.npred) (List.range n)
where
  /-- Nodes without predecessors are taken away one by one until none is left. -/
  clear (succs : List (List Nat)) : Nat → List Nat → List Nat → Bool
  | 0, _, left => left.isEmpty
  | k + 1, preds, left =>
    match left.find? fun m => Tbl.get 0 preds m == 0 with
    | none => left.isEmpty
    | some m => clear succs k ((Tbl.get [] succs m).foldl (fun p t => Tbl.set 0 p t (Tbl.get 0 p t - 1)) preds) (left.filter fun x => x != m)

/-- What a team takes of a core (R271): hardware slots, rows, local memory with the divergence areas. -/
def NodeRec.takes (r : NodeRec) : Nat × Nat × Nat :=
  (r.hw, r.floor * r.hw, r.localUnits * 256 + Config.divAreaBytes * r.hw)
/-- What an empty core has. -/
def emptyCore : Nat × Nat × Nat := (Config.groupSlots, Config.rowsPerCore, Config.localBytes)
/-- A need fits what is free. -/
def fitsIn (need free : Nat × Nat × Nat) : Bool :=
  decide (need.1 ≤ free.1) && decide (need.2.1 ≤ free.2.1) && decide (need.2.2 ≤ free.2.2)
/-- What is left after a need. -/
def leftOf (free need : Nat × Nat × Nat) : Nat × Nat × Nat := (free.1 - need.1, free.2.1 - need.2.1, free.2.2 - need.2.2)

/-- Needs can be packed onto cores in use with what each has left, and a number of empty ones. -/
def packs : List (Nat × Nat × Nat) → List (Nat × Nat × Nat) → Nat → Bool
  | [], _, _ => true
  | m :: ms, used, fresh =>
    ((List.range used.length).any fun k =>
      match used[k]? with
      | some f => fitsIn m f && packs ms (used.set k (leftOf f m)) fresh
      | none => false) ||
    (fresh != 0 && fitsIn m emptyCore && packs ms (used ++ [leftOf emptyCore m]) (fresh - 1))

/-- Cores of an instance of a gang level (R8). -/
def coresOf (level : Nat) : Nat := if level == 1 then 4 else if level == 2 then 64 else 256

/-- Every gang has one level and fits an empty instance of it (R272, R314 GANG). -/
def gangsOk (nodes : List NodeRec) : Bool :=
  nodes.all fun r =>
    r.gang == 0 ||
      (let ms := nodes.filter fun q => q.gang != 0 && q.gid == r.gid
       ms.all (fun q => q.gang == r.gang) && packs (ms.map NodeRec.takes) [] (coresOf r.gang))

/-- Two ranges have a byte in common. -/
def overlap (a b : Nat × Nat) : Bool := decide (a.1 < b.1 + b.2) && decide (b.1 < a.1 + a.2)

/-- Sections are well placed and do not overlap (R15). -/
def sectionsOk : List (Nat × Nat) → Bool
  | [] => true
  | x :: rest => x.1 % 64 == 0 && x.2 % 12 == 0 && !(rest.any fun y => overlap x y) && sectionsOk rest

/-- The areas of an image (R310, R314 AREA). -/
def State.areasOk (s : State) (asid : Nat) (h : Header) : Bool :=
  let pinned := s.leafTest asid fun e => pteRW e && pteTier e == 3
  decide (16 ≤ h.ws) && h.ws % 16 == 0 && h.d % 8 == 0 && decide (h.d ≤ 4096) &&
    rangeAll pinned h.backing (h.gmax * 8192) && rangeAll pinned h.spill (h.gmax * h.d * 32) && rangeAll pinned h.stack (h.gmax * 32 * h.ws) &&
    (h.alen == 0 || (h.arena % 256 == 0 && rangeAll (s.leafTest asid fun e => pteRW e && s.pteHere e) h.arena h.alen))

/-- An arena header (R379): its free list is empty where nfree is 0, and only there. -/
def arenaOk (h : Header) (w : List Nat) : Bool :=
  let f := wordBits w
  f 0 0 64 == 0x4C545A4F && f 1 24 40 == 0 && f 1 0 24 != 0 && f 2 32 32 == 0 && f 2 0 32 != 0 && f 2 0 32 % 256 == 0 && f 3 24 40 == 0 &&
    f 4 24 40 == 0 && (w.drop 5).all (fun x => x == 0) && decide (256 + f 1 0 24 * f 2 0 32 ≤ h.alen) &&
    (f 3 0 24 == noSlot || decide (f 3 0 24 < f 1 0 24)) && decide (f 4 0 24 ≤ f 1 0 24) && (f 3 0 24 == noSlot) == (f 4 0 24 == 0)

/-- A tile operand in use (R311 to R313). -/
def State.tileOk (s : State) (asid : Nat) (h : Header) (t : TileOp) : Bool :=
  let bit := fun k => t.perm / 2 ^ k % 2 == 1
  decide (t.an ≤ 14) && !bit 5 && decide (t.base + t.length ≤ 2 ^ 51) &&
    (!bit 6 || (!bit 1 && !bit 3 && h.alen != 0 && decide (h.arena ≤ t.base) && decide (t.base + t.length ≤ h.arena + h.alen))) &&
    (!bit 7 || (bit 1 && t.base % 65536 == 0 && t.length % 65536 == 0 && rangeAll (s.leafTest asid pteTW) t.base t.length))

/-- The tile operands of a node (R313): in a restartable one no write tile overlaps a read tile. -/
def State.tilesOk (s : State) (asid : Nat) (h : Header) (r : NodeRec) : Bool :=
  let used := r.tiles.filter fun t => t.length != 0
  used.all (s.tileOk asid h) &&
    (!r.rs || used.all fun a => used.all fun b =>
      !(a.perm / 2 % 2 == 1 && b.perm % 2 == 1 && overlap (a.base, a.length) (b.base, b.length)))

/-- Numbers in strictly rising order. -/
def rising : List Nat → Bool
  | a :: b :: rest => decide (a < b) && rising (b :: rest)
  | _ => true

/-- A pod barrier table: its nodes, the barrier word and the total (R324). -/
def State.readPod (s : State) (asid : Nat) (h : Header) : Chk (List Nat × Nat × Nat) :=
  if h.podbar == 0 then .ok ([], 0, 0) s
  else (checked (h.podbar % 64 == 0) 11 s).bind fun _ s1 =>
    (s1.hubWords asid h.podbar 4).bind fun w s2 =>
    let f := wordBits w
    let n := f 0 32 16
    (checked (f 0 0 32 == 0x42505A4F && f 0 48 16 == 0 && decide (1 ≤ n) && decide (n ≤ 4096) && f 1 0 3 == 0 && f 2 24 40 == 0 && f 3 0 64 == 0 &&
      decide (n ≤ f 2 0 24) && rangeAll (s2.leafTest asid fun e => pteRW e && pteA e) (f 1 0 64) 8) 11 s2).bind fun _ s3 =>
    (Chk.each (fun k s => s.hubLoad asid (h.podbar + 32 + 4 * k) 4) (List.range n) s3).bind fun l s4 =>
    (checked (rising l && l.all fun k => decide (k < h.nnodes)) 11 s4).bind fun _ s5 => .ok (l, f 1 0 64, f 2 0 24) s5

/-! ### Saved contexts of an image (R342 to R347) -/

/-- The launch slot that a saved group keeps, from its stack window (R312); none where the window is not the loader's. -/
def slotOfWindow (h : Header) (d : Desc) : Option Nat :=
  let n := (d.base.toNat - h.stack) / (32 * Nat.max 16 h.ws)
  if h.stack ≤ d.base.toNat && (d.base.toNat - h.stack) % (32 * Nat.max 16 h.ws) == 0 && n < h.gmax then some n else none

/-- A saved HSTORE of the capsule lane that waits in the log is an issued one, whose request the unit still has to answer (R346, R359): the lane issues nothing until then. -/
def Group.reissue (g : Group) : Group :=
  match g.husk with
  | none => g
  | some h =>
    match g.log.find? fun e => (match e.instr with | .hstore .. => true | _ => false) && e.kind == .access && e.mask.getLsbD h.lane with
    | none => g
    | some e =>
      let data := ((e.lanes.find? fun a => a.lane == h.lane).map fun a => a.data.toNat).getD 0
      { g with husk := some { h with commit := some (h.request g (((memOpOf e.instr).map MemOp.bytes).getD 4) data (e.pc + 4) none) } }

/-- One group of a team context, with its copy requests; its key is that of its HUSK record, else fresh. -/
def State.readGroup (s : State) (asid : Nat) (h : Header) (width gid at_ gsize : Nat) : Chk (Group × List CopyReq) :=
  let n := if width = 64 then 2 else 1
  (s.hubRange asid at_ gsize).bind fun b1 s1 =>
  (if n == 2 then s1.hubRange asid (at_ + gsize) gsize else .ok ⟨[], []⟩ s1).bind fun b2 s2 =>
  let a15 := descOf (b1.get (0x2140 + 360) 8) (b1.get (0x2148 + 360) 8) (b1.get (0x2150 + 360) 8)
  let slot := (slotOfWindow h a15).getD 0
  let nsp := b1.get 0x24A2 2
  (s2.hubRange asid (h.spill + slot * h.d * 32) (32 * nsp)).bind fun sp s3 =>
  match (entriesOf sp 0 nsp (width == 64)).bind fun spilled => groupOf b1 b2 width s3.orphanDue spilled with
  | none => .trap (refusal 8) s3
  | some g =>
    let rcs := (List.range (b1.get 0x2810 4)).mapM fun k => recipeOf b1 (b1.get 0x2814 4 + 64 * k) (width == 64)
    let copies := (List.range (b1.get 0x2808 4)).mapM fun k => copyOf b1 (b1.get 0x280C 4 + 336 * k) 0 0 0
    let husk := if b1.get 0x2820 4 == 0 then some none else (s3.huskOf asid b1 (b1.get 0x2824 4)).map some
    match rcs, copies, husk with
    | some rcs, some copies, some husk =>
      let g1 := rcs.foldl (fun (g : Group) rc => g.setVreg rc.vd.toNat ⟨.folded, some rc, 0⟩) g
      let key := match husk with | some x => x.2 | none => BitVec.ofNat 64 s3.nextKey
      .ok (Group.reissue { g1 with gid := gid, lslot := slot, key := key, husk := husk.map Prod.fst }, copies) { s3 with nextKey := s3.nextKey + n }
    | _, _, _ => .trap (refusal 8) s3

/-- A team context (R343). A group none of whose lanes is alive has retired before the save, and is not restored. -/
def State.readTeam (s : State) (asid launch : Nat) (h : Header) (nodes : List NodeRec) (va : Nat) : Chk Saved :=
  (checked (va % 256 == 0) 8 s).bind fun _ s1 =>
  (s1.hubWords asid va 8).bind fun w s2 =>
  let f := wordBits w
  match nodes[f 0 32 16]? with
  | none => .trap (refusal 8) s2
  | some r =>
    let wcode := if r.width = 64 then 1 else if r.width = 16 then 2 else 0
    let blocks := r.groups * (if r.width = 64 then 2 else 1)
    let size := r.localUnits * 256
    (checked (f 0 0 32 == 0x4D545A4F && f 0 48 6 == r.groups && f 0 54 2 == wcode && f 0 56 8 == 0 && f 1 42 22 == 0 && f 3 0 8 == 0 &&
      f 4 32 32 == 0 && f 4 0 8 == 0 && decide (0x2840 ≤ f 4 0 32) && f 6 0 64 == 0 && f 7 0 64 == 0) 8 s2).bind fun _ s3 =>
    (if size == 0 then .ok ⟨[], []⟩ s3 else s3.hubRange asid (f 2 0 64) size).bind fun lm s4 =>
    (if f 5 0 64 == 0 then .ok ⟨[], []⟩ s4 else s4.hubRange asid (f 5 0 64) 768).bind fun cs s5 =>
    let gsize := f 4 0 32
    let per := if r.width = 64 then 2 else 1
    (Chk.each (fun k s => s.readGroup asid h r.width k (f 3 0 64 + k * per * gsize) gsize) (List.range r.groups) s5).bind fun gs s6 =>
    let gs := gs.filter fun x => x.1.alive != 0 || !x.1.mx.isEmpty || !x.1.log.isEmpty
    let t : Team := {
      teamId := BitVec.ofNat 32 (f 1 0 32), launch := launch, node := f 0 32 16, core := 0, width := r.width, floor := r.floor, localBase := 0, localSize := size
      localMem := lm.mem, localPoison := lm.poison, counts := (List.range 192).map fun k => cs.get (4 * k) 4, safe := f 1 41 1 == 1
      prio := f 1 32 8, rescue := f 1 40 1 == 1, halting := none, started := 0, groups := [], podGen := none, podDone := false, live := true }
    .ok ⟨t, gs.map Prod.fst, gs.mapIdx (fun k x => x.2.map fun r => { r with group := k }) |>.flatten, s6.cycle, va, blocks * gsize⟩ s6

/-- The context part of an image: node states, counts and teams; fresh without one (R310, R342). -/
structure Resumed where
  states : List Nat
  counts : List Nat
  teams : List Saved
  deriving DecidableEq, Repr

/-- The saved-context table of an image (R342). -/
def State.readContexts (s : State) (asid launch : Nat) (h : Header) (nodes : List NodeRec) : Chk Resumed :=
  if h.context == 0 then .ok ⟨[], [], []⟩ s
  else (checked (h.context % 64 == 0) 8 s).bind fun _ s1 =>
    (s1.hubWords asid h.context 8).bind fun w s2 =>
    let f := wordBits w
    (checked (f 0 0 32 == 0x58435A4F && f 0 48 16 == 0 && (w.drop 4).all fun x => x == 0) 8 s2).bind fun _ s3 =>
    (s3.hubRange asid (f 1 0 64) 768).bind fun cs s4 =>
    (Chk.each (fun k s => s.hubLoad asid (f 2 0 64 + 4 * k) 4) (List.range h.nnodes) s4).bind fun st s5 =>
    (checked (st.all fun x => x / 2 ^ 19 == 0 && decide (x / 2 ^ 16 % 8 ≤ 4)) 8 s5).bind fun _ s6 =>
    (s6.hubWords asid (f 3 0 64) (f 0 32 16)).bind fun vas s7 =>
    (Chk.each (fun va s => s.readTeam asid launch h nodes va) vas s7).bind fun ts s8 =>
    let cores := (List.range nodes.length).all fun k =>
      (ts.any fun t => t.team.node == k) == ((Tbl.get 0 st k) / 2 ^ 16 % 8 == 2)
    (checked cores 8 s8).bind fun _ s9 => .ok ⟨st, (List.range 192).map fun k => cs.get (4 * k) 4, ts⟩ s9

/-! ### The whole image -/

/-- What a validation reads of an image. -/
structure ImageRead where
  hdr : Header
  nodes : List NodeRec
  succs : List (List Nat)
  sects : List (Nat × Nat)
  pod : List Nat × Nat × Nat
  resumed : Resumed
  deriving DecidableEq, Repr

/-- Unfinished children of a launch. -/
def State.childrenOf (s : State) (parent : Option Nat) : Nat := ((parent.bind s.launch).map Launch.children).getD 0

/-- An address is 0, or its bytes lie on pages with R and W, of this package where they must (R314, R316). A page that the Sheaf has yet to resolve is waited for. -/
def State.writable (s : State) (asid va n : Nat) (here : Bool) : Chk Unit :=
  if va == 0 then .ok () s
  else (Chk.each (fun page s => (s.hubEntry asid (Nat.max va (page * 65536)) false).bind fun x s1 =>
      checked (pteRW x.2 && !pteK x.2 && (!here || s1.isLocal x.1)) 10 s1)
    ((List.range ((va + n - 1) / 65536 - va / 65536 + 1)).map fun k => va / 65536 + k) s).bind fun _ s1 => .ok () s1

/-- The image at an address validated, in the order of the table of R314; ACCESS arises where a read fails. -/
def State.readImage (s : State) (asid launch img : Nat) (parent : Option Nat) : Chk ImageRead :=
  (s.hubWords asid img 32).bind fun w s1 =>
  (checked (headerOk img w) 1 s1).bind fun _ s1 =>
  let h := Header.of w
  (Chk.each (fun k s => s.hubWords asid (h.nodes + 96 * k) 12) (List.range h.nnodes) s1).bind fun recs s2 =>
  (checked (recs.all (Sys2Proof.Machine.nodeOk h.gmax)) 2 s2).bind fun _ s2 =>
  let nodes := recs.map NodeRec.of
  (Chk.each (fun (r : NodeRec) s => Chk.each (fun k s => s.hubLoad asid (h.edges + 4 * (r.first + k)) 4) (List.range r.nsucc) s) nodes s2).bind
    fun succs s3 =>
  (checked (graphOk nodes succs) 3 s3).bind fun _ s3 =>
  (checked (gangsOk nodes) 4 s3).bind fun _ s3 =>
  (Chk.each (fun k s => s.hubWords asid (h.sects + 16 * k) 2) (List.range h.nsect) s3).bind fun sw s4 =>
  let sects := sw.map fun x => (Tbl.get 0 x 0, Tbl.get 0 x 1)
  (checked (sectionsOk sects && sects.all fun x => rangeAll (s4.codeTest asid pteX) x.1 x.2) 5 s4).bind fun _ s4 =>
  (checked (nodes.all fun r => (sectOf sects r.entry).isSome) 5 s4).bind fun _ s4 =>
  (checked (nodes.all fun r => isPacket sects r.entry) 2 s4).bind fun _ s4 =>
  (checked (s4.areasOk asid h) 6 s4).bind fun _ s4 =>
  (if h.alen == 0 then .ok () s4
    else (s4.hubWords asid h.arena 32).bind fun a s5 => checked (arenaOk h a) 6 s5).bind fun _ s5 =>
  (checked (nodes.all (s5.tilesOk asid h)) 7 s5).bind fun _ s5 =>
  (s5.readContexts asid launch h nodes).bind fun rs s6 =>
  (checked (decide (s6.childrenOf parent < Config.childLimit)) 9 s6).bind fun _ s6 =>
  (s6.writable asid h.status 8 false).bind fun _ s6 => (s6.writable asid h.signal 8 false).bind fun _ s6 => (s6.writable asid h.record 768 true).bind fun _ s6 =>
  (s6.readPod asid h).bind fun pod s7 => .ok ⟨h, nodes, succs, sects, pod, rs⟩ s7

/-! ### Status words, signals (R266, R316) -/

/-- A doubleword written by the hub, where its page admits it; to another package it is to be sent (R43). -/
def State.hubWrite (s : State) (asid va v : Nat) : Chk Unit :=
  (s.hubPage asid va true).bind fun pa s1 =>
    .ok () (if s1.isLocal pa then s1.writePA pa 8 (v % 2 ^ 64) false else { s1 with outgoing := s1.outgoing ++ [(asid, pa, 8, v % 2 ^ 64)] })

/-- A note for the host driver in the Sheaf's log. -/
def State.sheafNote (s : State) (what info : Nat) : State :=
  { s with sheafLog := s.sheafLog ++ [⟨what, 0, 0, BitVec.ofNat 64 info⟩] }

/-- A request of the hub that writes to another package, and what its answer is for; none where the package cannot be reached. -/
def State.hubSend (s : State) (part : Nat) (o : MemOp) (pa v : Nat) (for_ : RemoteFor) : Option State :=
  (s.routePort (paPkg pa)).map fun port =>
    let t := s.freshTag
    let f := mkFlit s 0 (paPkg pa) t.1 false (recordOf o 1 ⟨0, 0, BitVec.ofNat 128 v, 0⟩ pa)
    let s2 := (t.2.enqueue port (flitOf o).1 f).noteWrite part (paPkg pa) true
    { s2 with remote := s2.remote ++ [⟨t.1, paPkg pa, part, true, for_⟩] }

/-- A word that is to be written in another package sent there; it waits while the route is being changed (R125), and one for a package that cannot be reached is lost, which the
Sheaf logs. -/
def State.sendWord (s : State) (x : Nat × Nat × Nat × Nat) : State :=
  if s.routeStalled (paPkg x.2.1) || 32768 ≤ s.remote.length then { s with outgoing := s.outgoing ++ [x] }
  else (s.hubSend (s.asRec x.1).part (.store x.2.2.1) x.2.1 x.2.2.2 (.signal x.1 none)).getD (s.sheafNote 4 x.2.1)

/-- Every word that is to be written in another package sent (R43). -/
def State.sendWords (s : State) : State := s.outgoing.foldl State.sendWord { s with outgoing := [] }

/-- Words and signals of an address space have still to be written in other packages (R265, R316). -/
def State.writesOut (s : State) (asid : Nat) : Bool :=
  (s.outgoing.any fun x => x.1 == asid) || s.remote.any fun r => match r.for_ with | .signal a _ => a == asid | _ => false

/-- A signal updated by read-modify-write at its home (R266): in this package at once, and the message that follows it with it; in another by an ATOMIC flit, whose acknowledgement
the message follows (R126, R316, R322). -/
def State.signalOp (s : State) (part asid va : Nat) (op : AtomOp) (v : Nat) (msix : Option Nat) : Option State :=
  match s.translateHub asid va true with
  | (.ok pa pte _, s1) =>
    if !(pteRW pte) then none
    else if s1.isLocal pa then
      some (let s2 := s1.writePA pa 8 (atomNew op 8 (s1.readPA pa 8) (v % 2 ^ 64)) (s1.poisonedPA pa 8); { s2 with msix := s2.msix ++ msix.toList })
    else s1.hubSend part (.atomic op true false) pa v (.signal asid msix)
  | _ => none

/-- The route to a signal's package is being changed, and an update of it is stalled (R125). -/
def State.signalStalled (s : State) (asid va : Nat) : Bool :=
  match (s.translateHub asid va true).1 with
  | .ok pa _ _ => !s.isLocal pa && s.routeStalled (paPkg pa)
  | _ => false

/-- A refused image writes only its status word (R314, R316): DONE, FAULT, every node skipped, the reason. One that cannot be written is
logged; while its page is absent the refusal waits. -/
def State.refuse (s : State) (asid img reason : Nat) : Chk Unit :=
  let status := match s.hubLoad asid (img + 96) 8 with | .ok v _ => v | _ => 0
  let nn := match s.hubLoad asid (img + 16) 8 with | .ok v _ => v % 65536 | _ => 0
  if status == 0 || status % 8 != 0 then .ok () s
  else match s.hubWrite asid status (2 ^ 63 + 2 ^ 62 + nn * 256 + reason) with
    | .trap _ s1 => .ok () (s1.sheafNote 3 (img % 2 ^ 51 + 2 ^ 56 * reason))
    | x => x

/-- A refusal whose status word's page has been declared unresolvable: it cannot be written. -/
def State.refuseNow (s : State) (asid img reason : Nat) : State :=
  match s.refuse asid img reason with
  | .ok _ s1 => s1
  | _ => s.sheafNote 3 (img % 2 ^ 51 + 2 ^ 56 * reason)

/-! ### Acceptance (R315) -/

/-- Node records with their successors laid one after another. -/
def rebase : Nat → List NodeRec → List NodeRec
  | _, [] => []
  | k, r :: rest => { r with first := k } :: rebase (k + r.nsucc) rest

/-- A node's state as an image gives it (R342). -/
def nodeStOf (k : Nat) : NodeSt :=
  match k with
  | 1 => .ready
  | 2 => .saved
  | 3 => .complete
  | 4 => .faulted
  | _ => .waiting

/-- The launch of an accepted image. -/
def State.newLaunch (s : State) (r : ImageRead) (asid part queue img : Nat) (parent : Option Nat) (q : Nat) (msix : Option Nat) : Launch :=
  let fresh := r.resumed.states.isEmpty
  let st := fun k => nodeStOf (Tbl.get 0 r.resumed.states k / 65536 % 8)
  let nodes := rebase 0 r.nodes
  let runs := nodes.mapIdx fun k n =>
    let prio := (clampInt 0 255 ((q : Int) + n.delta)).toNat
    if fresh then (⟨.waiting, false, n.npred, s.cycle, prio, none⟩ : NodeRun)
    else ⟨if st k == .ready then .waiting else st k, st k == .faulted, Tbl.get 0 r.resumed.states k % 65536, s.cycle, prio, none⟩
  { serial := s.nextSerial, img := img, asid := asid, part := part, queue := queue, parent := parent, qprio := some q, msix := msix
    hdr := r.hdr, sects := r.sects, edges := r.succs.flatten, nodes := nodes, runs := runs, podNodes := r.pod.1, podWord := r.pod.2.1
    podTotal := r.pod.2.2, counts := if fresh then [] else r.resumed.counts
    faulted := (List.range nodes.length).find? (fun k => !fresh && st k == .faulted) |>.map fun k => (k, 0)
    children := 0
    slots := r.resumed.teams.flatMap fun t => t.groups.flatMap fun g => if g.width = 64 then [g.lslot, g.lslot + 1] else [g.lslot]
    teamCount := ((List.range nodes.length).filter fun k => !fresh && st k != .waiting && st k != .ready).length
    ladder := none, stopAt := 0, told := 0, live := true }

/-- An accepted image becomes a launch: its nodes without predecessors are ready (R315). -/
def State.accept (s : State) (r : ImageRead) (asid part queue img : Nat) (parent : Option Nat) (q : Nat) (msix : Option Nat) : State :=
  let k := s.launches.length
  let l := s.newLaunch r asid part queue img parent q msix
  let l1 := (List.range l.nodes.length).foldl (fun l n =>
    match l.runs[n]? with
    | some x => if x.st == .waiting && x.preds == 0 then s.makeReady l n else l
    | none => l) l
  let s1 := { s with nextSerial := s.nextSerial + 1, saved := s.saved ++ r.resumed.teams.map some }
  let s2 := s1.setLaunch k l1
  match parent.bind s2.launch, parent with
  | some p, some n => s2.setLaunch n { p with children := p.children + 1 }
  | _, _ => s2

/-! ### Admission (R271, R327, R347) -/

/-- Hardware groups of a group. -/
def Group.hw (g : Group) : Nat := if g.width = 64 then 2 else 1
/-- The resident groups of a core. -/
def State.onCore (s : State) (core : Nat) : List (Nat × Group) := s.resident.filter fun e => s.coreOf e.2 == core
/-- Teams with a group on a core. -/
def State.teamsOn (s : State) (core : Nat) : List (Nat × Team) :=
  (List.range s.teams.length).filterMap fun n => (s.team n).bind fun t => if t.live && t.core == core then some (n, t) else none

/-- What a core has free (R271). -/
def State.freeOf (s : State) (core : Nat) : Nat × Nat × Nat :=
  let gs := (s.onCore core).map Prod.snd
  leftOf emptyCore ((gs.map Group.hw).foldl (· + ·) 0, (gs.map fun g => Nat.max (s.floorOf g) g.rowsHeld).foldl (· + ·) 0,
    ((s.teamsOn core).map fun t => t.2.localSize).foldl (· + ·) 0 + Config.divAreaBytes * (gs.map Group.hw).foldl (· + ·) 0)

/-- The lowest start at which a range fits between ranges in use, below a limit: 0, or the end of one of them. -/
def firstFit (used : List (Nat × Nat)) (limit need : Nat) : Option Nat :=
  ((0 :: used.map fun u => u.1 + u.2).filter fun k => decide (k + need ≤ limit) && used.all fun u => k + need ≤ u.1 || u.1 + u.2 ≤ k).foldl
    (fun best k => match best with | none => some k | some b => some (Nat.min b k)) none

/-- Where a team's range of a core's local memory goes (R271): the lowest free range that holds it whole. -/
def State.localPlace (s : State) (core size : Nat) : Option Nat :=
  firstFit ((s.teamsOn core).map fun t => (t.2.localBase, t.2.localSize)) Config.localBytes size

/-- Launch slots for groups of one width, lowest first (R312). -/
def freeSlots (gmax : Nat) (used : List Nat) (pair : Bool) (n : Nat) : Option (List Nat) :=
  let ok := (List.range gmax).filter fun k => if pair then k % 2 == 0 && k + 1 < gmax && !used.contains k && !used.contains (k + 1) else !used.contains k
  if n ≤ ok.length then some (ok.take n) else none

/-- Hardware slots for groups of a core, lowest first; a pair takes h and h + 4 (R270). Too few where the core has no room. -/
def hwSlots (used : List Nat) (pair : Bool) (n : Nat) : List Nat :=
  let ok := (List.range 64).filter fun h => !used.contains h && (!pair || (h % 8 < 4 && !used.contains (h + 4)))
  ok.take n

/-- Hardware slots of a core in use. -/
def State.hwUsed (s : State) (core : Nat) : List Nat :=
  (s.onCore core).flatMap fun e => if e.2.width = 64 then [e.2.hwslot, e.2.hwslot + 4] else [e.2.hwslot]

/-- A core takes teams: in service and not being returned (R327, R349). -/
def State.coreTakes (s : State) (core : Nat) : Bool := !(s.core core).out && (s.core core).revoking.isNone

/-- A core belongs to a partition's guaranteed quads (R326). -/
def State.guaranteed (s : State) (part core : Nat) : Bool := (s.part part).cfg.getLsbD 63 && (s.part part).quads.getLsbD (core / 4)
/-- The partition that a core is guaranteed to. -/
def State.ownerOf (s : State) (core : Nat) : Option Nat := (List.range 16).find? fun p => s.guaranteed p core
/-- A partition may use a core: its own unless lent, or one lent to it. -/
def State.mayUse (s : State) (part core : Nat) : Bool :=
  match (s.core core).lentTo with
  | some p => p == part
  | none => s.guaranteed part core

/-- What the hub admits: a fresh node of a launch, or a saved team. -/
inductive Item
  | fresh (l n : Nat)
  | saved (k : Nat)
  deriving DecidableEq, Repr

/-- Saved team k, while its launch is live. -/
def State.savedAt (s : State) (k : Nat) : Option Saved :=
  (Tbl.get none s.saved k).bind fun x => if ((s.launch x.team.launch).map Launch.live).getD false then some x else none

/-- The launch of an item. -/
def State.itemLaunch (s : State) : Item → Option Launch
  | .fresh l _ => s.launch l
  | .saved k => (s.savedAt k).bind fun x => s.launch x.team.launch

/-- A launch whose nodes may be dispatched: live, and not being stopped (R328). -/
def State.launchRuns (s : State) (l : Launch) : Bool := l.live && l.ladder.isNone && !(s.part l.part).stopping && !(s.part l.part).stopped

/-- Root frames, one for each lane that is not permanently inactive (R285). -/
def State.rootFrames (s : State) (l : Launch) (slot width : Nat) : State :=
  (List.range width).foldl (fun s i => (s.writeVA l.asid (l.hdr.stack + slot * 32 * l.hdr.ws + i * l.hdr.ws) 16 0).getD s) s

/-- The generator's start (R197). -/
def rngStart (seed : Word) (team gid width i : Nat) : Word :=
  let v := seed + 0x9E3779B9 * BitVec.ofNat 32 (team * 1024 + gid * width + i)
  if v = 0 then 1 else v

/-- A group as the loader starts it (R33, R34, R69, R197, R274, R285, R312). -/
def startGroup (l : Launch) (r : NodeRec) (team teamId gid hwslot lslot : Nat) (key : DWord) : Group :=
  let base := State.writeRegs.default0
  let win := BitVec.ofNat 64 (l.hdr.stack + lslot * 32 * l.hdr.ws)
  let g : Group := { base with
    team := team, gid := gid, width := r.width, hwslot := hwslot, lslot := lslot, key := key, live := true, foldpol := 1
    rngs := (List.range (if r.width = 64 then 64 else 32)).map fun i => rngStart l.hdr.seed teamId gid r.width i
    slotA := some (Path.mk' (BitVec.ofNat 64 r.entry) 0 0) }
  let g1 := (r.tiles.filter fun t => t.length != 0).foldl (fun (g : Group) t =>
    g.setAreg (BitVec.ofNat 4 t.an) ⟨BitVec.ofNat 64 t.base, BitVec.ofNat 64 t.base, BitVec.ofNat 48 t.length, BitVec.ofNat 16 t.perm⟩) g
  let g2 := g1.setAreg 15 ⟨win, win, BitVec.ofNat 48 l.hdr.ws, 0x23⟩
  let g3 := (g2.writeLanes g2.all 62 []).writeLanes g2.all 63 (List.replicate 64 (16, false))
  { g3 with slotA := some (Path.mk' (BitVec.ofNat 64 r.entry) g3.all 0) }

/-- The cycle of the ramp's next free place (R329): of any r starts and stops and the next one, the last is at least 1,024 cycles after the first. Which actions count the model
settles in log entry 82. -/
def State.rampNext (s : State) : Nat :=
  let l := s.rampTimes
  let r := Nat.max 1 s.regs.ramp
  Nat.max s.cycle (Nat.max (l.getLast?.getD 0) (if l.length < r then 0 else Tbl.get 0 l (l.length - r) + 1024))
/-- The ramp has a free place now. -/
def State.rampFree (s : State) : Bool := decide (s.rampNext ≤ s.cycle)
/-- A team start or stop takes the next place of the ramp; the latest 256 are kept, the most that r can be. -/
def State.rampTake (s : State) : State :=
  let l := s.rampTimes ++ [s.rampNext]
  { s with rampTimes := l.drop (l.length - 256) }

/-- The bin of a dispatch latency (R330). -/
def latencyBin (n : Nat) : Nat := if n < 128 then 0 else Nat.min 15 (n.log2 - 6)

/-- A dispatch latency counted in the slot of its queue. -/
def State.countLatency (s : State) (queue n : Nat) : State :=
  { s with qslots := s.qslots.map fun q =>
      if q.queue == some queue then
        { q with hist := Tbl.set 0 q.hist (latencyBin n) (Nat.min 0xFFFFFFFF (Tbl.get 0 q.hist (latencyBin n) + 1)) }
      else q }

/-- The priority of a ready node at a decision (R317): its base with its ageing, which begins when it comes into the pool. -/
def State.readyPrio (s : State) (x : NodeRun) : Nat :=
  Nat.min 255 (x.prio + match x.pooled with | some t => Nat.min 32 ((s.cycle - t) / 67200) | none => 0)

/-- A node's run replaced. -/
def Launch.setRun (l : Launch) (n : Nat) (f : NodeRun → NodeRun) : Launch := { l with runs := l.runs.modify n f }

/-- The translations of a node's tile operands brought into a core's TLBs, as PREF.XL would (R89, R312). -/
def State.warmTiles (s : State) (core asid : Nat) (r : NodeRec) : State :=
  (r.tiles.filter fun t => t.length != 0).foldl (fun s t =>
    ((List.range ((t.base + t.length - 1) / 65536 - t.base / 65536 + 1)).map fun k => t.base / 65536 + k).foldl (fun s p => s.warm core asid (p * 65536)) s) s

/-- A fresh node started on a core, if it can be admitted there (R271), at the next place of the ramp. -/
def State.placeFresh (s : State) (k n core : Nat) : Option State := do
  let l ← s.launch k
  let r ← l.nodes[n]?
  let x ← l.runs[n]?
  let slots ← freeSlots l.hdr.gmax l.slots (r.width == 64) r.groups
  let base ← s.localPlace core (r.localUnits * 256)
  if x.st != .ready || !s.coreTakes core || !fitsIn r.takes (s.freeOf core) then none
  let prio := s.readyPrio x
  let ti := s.teams.length
  let hs := hwSlots (s.hwUsed core) (r.width == 64) r.groups
  if hs.length < r.groups then none
  let per := if r.width = 64 then 2 else 1
  let gs := (List.range r.groups).map fun g =>
    { startGroup l r ti l.teamCount g (Tbl.get 0 hs g) (Tbl.get 0 slots g) (BitVec.ofNat 64 (s.nextKey + per * g)) with
      sched := Sched.from_ s.cycle, l1Since := s.ticks }
  let t : Team := {
    teamId := BitVec.ofNat 32 l.teamCount, launch := k, node := n, core := core, width := r.width, floor := r.floor
    localBase := base, localSize := r.localUnits * 256, localMem := [], localPoison := [], counts := [], safe := true, prio := prio, rescue := false
    halting := none, started := s.rampNext, groups := (List.range r.groups).map fun g => s.groups.length + g, podGen := none
    podDone := false, live := true }
  let s1 := { s with nextKey := s.nextKey + per * r.groups, groups := s.groups ++ gs.map some }
  let s2 := (s1.setTeam ti t).setLaunch k { (l.setRun n fun x => { x with st := .resident }) with
    teamCount := l.teamCount + 1, slots := l.slots ++ (if r.width = 64 then slots ++ slots.map (· + 1) else slots) }
  some (((slots.foldl (fun s slot => s.rootFrames l slot r.width) s2).countLatency l.queue (s.rampNext - x.readyAt)).warmTiles core l.asid r).rampTake

/-- Reservations placed in a core's free units (R347); none where one has no place. -/
def placeResvs (total : Nat) : List (Nat × Nat) → List (Option Resv) → Option (List (Option Resv))
  | _, [] => some []
  | used, none :: rest => (placeResvs total used rest).map fun l => none :: l
  | used, some r :: rest => (lowestFree used total r.size).bind fun k =>
      (placeResvs total ((k, r.size) :: used) rest).map fun l => some { r with start := k } :: l

/-- A saved group's reservations and tiles placed on a core. -/
def State.placeMx (s : State) (core : Nat) (g : Group) : Option Group := do
  let ob ← placeResvs Config.obUnits (s.unitsUsed core Group.ob) g.ob
  let b ← placeResvs Config.bUnits (s.unitsUsed core Group.b) g.b
  if (List.range 2).any fun t => (g.tileAt t).isSome && (s.onCore core).any fun e => (e.2.tileAt t).isSome then none
  some { g with ob := ob, b := b }

/-- A group of a saved team restored on a core (R347): its log entries wait anew; its records of recipes are still to be processed. -/
def State.restoreGroup (s : State) (core team hwslot : Nat) (asid : Nat) (g : Group) : State :=
  let n := s.groups.length
  let rcs := g.foldedRecipes
  let inside := fun (e : LogEntry) => (g.husk.map fun h => (h.inside || h.adopt) && e.mask.getLsbD h.lane && !globalWrites e.instr).getD false
  let again := fun (e : LogEntry) => { e with
    due := s.orphanDue, acq := e.acq || inside e || e.lanes.any fun a => s.pageSC core asid a.ea }
  let g0 := rcs.foldl (fun (g : Group) rc => g.setVreg rc.vd.toNat { g.vreg rc.vd.toNat with hold := .empty, recipe := none })
    { g with team := team, hwslot := hwslot, live := true, log := g.log.map again, sched := Sched.from_ s.cycle, l1Since := s.ticks }
  s.setGroup n g0

/-- The records of recipes of restored groups processed (R164, R347), once every group has its log entries back. -/
def State.foldGroups (s : State) (core asid n0 : Nat) (gs : List Group) : State :=
  (gs.mapIdx fun k g => (n0 + k, g)).foldl (fun s e => e.2.foldedRecipes.foldl (fun s rc => s.foldBack asid core e.1 rc) s) s

/-- Groups restored one after another. -/
def State.restoreGroups (s : State) (core team asid : Nat) : List (Group × Nat) → Option State
  | [] => some s
  | (g, h) :: rest => (s.placeMx core g).bind fun g1 => (s.restoreGroup core team h asid g1).restoreGroups core team asid rest

/-- A saved team restored on a core, if it can be admitted there (R347): its hardware slots, rows, local memory, reservations and tiles, and room for its log entries (R62). -/
def State.placeSaved (s : State) (k core : Nat) : Option State := do
  let x ← s.savedAt k
  let l ← s.launch x.team.launch
  let r ← l.nodes[x.team.node]?
  let hs := hwSlots (s.hwUsed core) (r.width == 64) x.groups.length
  if hs.length < x.groups.length then none
  let hw := (x.groups.map Group.hw).foldl (· + ·) 0
  let need := (hw, (x.groups.map fun g => Nat.max (x.team.floor * g.hw) g.rowsHeld).foldl (· + ·) 0, x.team.localSize + Config.divAreaBytes * hw)
  let base ← s.localPlace core x.team.localSize
  if !s.coreTakes core || !fitsIn need (s.freeOf core) then none
  let ti := s.teams.length
  let n0 := s.groups.length
  let t : Team := { x.team with
    core := core, localBase := base, rescue := false, halting := none, started := s.rampNext, live := true, groups := (List.range x.groups.length).map fun g => n0 + g }
  let s0 := { s with icache := s.icache.filter fun c => !(c.1 == core && c.2.1 == l.asid), saved := Tbl.set none s.saved k none }
  let s1 := (s0.staleCode (fun c => c == core) l.asid 0 (2 ^ 64)).setTeam ti t
  let s2 := (← s1.restoreGroups core ti l.asid (x.groups.zip hs)).foldGroups core l.asid n0 x.groups
  if Config.logPerCore < s2.logOn core then none
  let copies := x.copies.map fun c => { c with core := core, team := ti, group := n0 + c.group }
  some ({ s2 with copies := s2.copies ++ copies }.setLaunch x.team.launch (l.setRun x.team.node fun y => { y with st := .resident })).rampTake

/-- Rescue priority places a team on its partition's guaranteed cores only (R327, R347). -/
def State.rescueOk (s : State) (core : Nat) (i : Item) : Bool :=
  match i with
  | .saved k => (match s.savedAt k, s.itemLaunch i with
    | some x, some l => !x.team.rescue || ((s.core core).lentTo.isNone && s.guaranteed l.part core)
    | _, _ => false)
  | _ => true

/-- An item placed on a core. -/
def State.place (s : State) (core : Nat) (i : Item) : Option State :=
  if !s.rescueOk core i then none
  else match i with
    | .fresh l n => s.placeFresh l n core
    | .saved k => s.placeSaved k core

/-- Items placed together, each on some core of a list. -/
def State.placeAll (cores : List Nat) : List Item → State → Option State
  | [], s => some s
  | i :: rest, s => cores.findSome? fun c => (s.place c i).bind (State.placeAll cores rest)

/-- The node of an item. -/
def State.itemNode (s : State) : Item → Nat
  | .fresh _ n => n
  | .saved k => ((s.savedAt k).map fun x => x.team.node).getD 0

/-- The items that are admitted with an item (R272, R341): the rest of its gang. -/
def State.gangWith (s : State) (i : Item) : List Item :=
  match s.itemLaunch i with
  | none => []
  | some l =>
    let others := (l.gangOf (s.itemNode i)).filter fun n => n != s.itemNode i
    match i with
    | .fresh k _ => others.filterMap fun n => if (l.runs[n]?.map NodeRun.st) == some .ready then some (.fresh k n) else none
    | .saved k => (List.range s.saved.length).filterMap fun j =>
        match s.savedAt k, s.savedAt j with
        | some x, some y => if j != k && y.team.launch == x.team.launch && others.contains y.team.node then some (.saved j) else none
        | _, _ => none

/-- A team of the item's gang is still resident: the gang's halt goes on, and it resumes only as a whole (R341). -/
def State.gangHalts (s : State) (i : Item) : Bool :=
  match i, s.itemLaunch i with
  | .saved _, some l => (l.gangOf (s.itemNode i)).any fun n => (l.runs[n]?.map NodeRun.st) == some .resident
  | _, _ => false

/-- An item admitted at a core with the rest of its gang, all in one instance of the gang's level (R272). -/
def State.takeItem (s : State) (core : Nat) (i : Item) : Option State :=
  match s.itemLaunch i with
  | none => none
  | some l =>
    let level := ((l.nodes[s.itemNode i]?).map NodeRec.gang).getD 0
    let cores := (List.range 256).filter fun c => levelInstance level c == levelInstance level core && s.mayUse l.part c
    if !s.launchRuns l || !s.mayUse l.part core || s.gangHalts i then none
    else (s.place core i).bind fun s1 => State.placeAll cores (s.gangWith i) s1

/-- How an item ranks (R317, R327): rescue, effective priority, ready time, serial, node. -/
def State.rank (s : State) (i : Item) : Nat × Nat × Nat × Nat × Nat :=
  match i, s.itemLaunch i with
  | .fresh _ n, some l => (match l.runs[n]? with
    | some x => (0, s.readyPrio x, x.readyAt, l.serial, n)
    | none => (0, 0, 0, 0, 0))
  | .saved k, some l => (match s.savedAt k with
    | some x => (if x.team.rescue then 1 else 0, x.team.prio, x.at_, l.serial, x.team.node)
    | none => (0, 0, 0, 0, 0))
  | _, none => (0, 0, 0, 0, 0)

/-- The first rank goes before the second. -/
def before (a b : Nat × Nat × Nat × Nat × Nat) : Bool :=
  if a.1 != b.1 then decide (b.1 < a.1)
  else if a.2.1 != b.2.1 then decide (b.2.1 < a.2.1)
  else if a.2.2.1 != b.2.2.1 then decide (a.2.2.1 < b.2.2.1)
  else if a.2.2.2.1 != b.2.2.2.1 then decide (a.2.2.2.1 < b.2.2.2.1)
  else decide (a.2.2.2.2 < b.2.2.2.2)

/-- The nodes that are ready, of the launches that are live. -/
def State.readyNodes (s : State) : List Item :=
  (List.range s.launches.length).flatMap fun k => match s.launch k with
    | some l => if !l.live then [] else (List.range l.runs.length).filterMap fun n => if (l.runs[n]?.map NodeRun.st) == some .ready then some (.fresh k n) else none
    | none => []

/-- The run of an item's node. -/
def State.itemRun (s : State) : Item → Option NodeRun
  | .fresh l n => (s.launch l).bind fun x => x.runs[n]?
  | .saved _ => none

/-- When an item came into the central pool, in order: those that have an entry; then by ready time, launch and node. -/
def State.poolRank (s : State) (i : Item) : Nat × Nat × Nat × Nat × Nat :=
  let r := s.rank i
  (if ((s.itemRun i).bind NodeRun.pooled).isSome then 1 else 0, 0, r.2.2.1, r.2.2.2.1, r.2.2.2.2)

/-- The central ready pool (R315): of the ready nodes, the first that it has entries for. -/
def State.pool (s : State) : List Item :=
  let all := s.readyNodes
  if all.length ≤ Config.poolEntries then all
  else all.filter fun i => decide ((all.filter fun j => before (s.poolRank j) (s.poolRank i)).length < Config.poolEntries)

/-- The nodes that come into the pool take their entries, and age from now on (R315, R317). -/
def State.enterPool (s : State) : State :=
  s.pool.foldl (fun s i => match i with
    | .fresh k n => (match s.launch k with
      | some l => if ((l.runs[n]?).bind NodeRun.pooled).isSome then s
          else s.setLaunch k (l.setRun n fun x => { x with pooled := some s.cycle })
      | none => s)
    | .saved _ => s) s

/-- Everything that waits for a core: the ready pool, and saved teams. -/
def State.items (s : State) : List Item :=
  s.pool ++ (List.range s.saved.length).filterMap fun k => (s.savedAt k).map fun _ => .saved k

/-- The best of the items that a core admits. -/
def State.bestFor (s : State) (core : Nat) (items : List Item) : Option Item :=
  items.foldl (fun best i =>
    if (s.takeItem core i).isNone then best
    else match best with
      | none => some i
      | some b => if before (s.rank i) (s.rank b) then some i else best) none

/-- Cores of a partition that are lent out (R326, R327). -/
def State.lentOut (s : State) (part : Nat) : Nat :=
  ((List.range 256).filter fun c => s.guaranteed part c && (s.core c).lentTo.isSome).length
/-- The margin of a partition: never above its guaranteed cores (R398). -/
def State.margin (s : State) (part : Nat) : Nat :=
  Nat.min ((s.part part).cfg.toNat / 2 ^ 39 % 512) ((List.range 256).filter fun c => s.guaranteed part c).length

/-- A core's state replaced. -/
def State.setCore (s : State) (n : Nat) (c : CoreSt) : State := { s with cores := Tbl.set CoreSt.reset s.cores n c }

/-- A core lent to the partition of the best item that none of its own cores admits (R327). -/
def State.lend (s : State) (core owner : Nat) : Option State :=
  if (s.core core).lentTo.isSome || s.margin owner ≤ s.lentOut owner || !(s.teamsOn core).isEmpty then none
  else
    let lentTo := fun p => s.setCore core { s.core core with lentTo := some p }
    let wants := s.items.filter fun i => match s.itemLaunch i with
      | some l => l.part != owner && (List.range 256).all (fun c => !s.mayUse l.part c || (s.takeItem c i).isNone) &&
          ((lentTo l.part).takeItem core i).isSome
      | none => false
    let best := wants.foldl (fun b i => match b with | none => some i | some j => if before (s.rank i) (s.rank j) then some i else b) none
    best.bind fun i => (s.itemLaunch i).bind fun l => (lentTo l.part).takeItem core i

/-- A PARTCFG that has waited for its partition's next dispatch decision, on a core of its quads or lent to it, is in force (R399). -/
def State.cfgApply (s : State) (core : Nat) : State :=
  (List.range s.parts.length).foldl (fun s p =>
    match (s.part p).cfgNext with
    | some v => if (s.part p).quads.getLsbD (core / 4) || (s.core core).lentTo == some p then s.setPart p { s.part p with cfg := v, cfgNext := none } else s
    | none => s) s

/-- DISPATCH_DECISION (R271, R317, R327): the best admissible item is admitted to the core; a core out of service is back once its
scrub has passed (R349). A decision waits for a place of the ramp (R329). -/
def execDispatchDecision (core : Nat) (s : State) : Host.Outcome State Fault Refusal :=
  .next (
    if s.boot.state != 2 || !s.rampFree || 256 ≤ core then s
    else if (s.core core).out then
      (if (s.teamsOn core).isEmpty then s.setCore core { s.core core with out := false } else s)
    else
      let s := s.cfgApply core
      match s.bestFor core s.items with
      | some i => (s.takeItem core i).getD s
      | none => ((s.ownerOf core).bind fun p => s.lend core p).getD s)

/-- CONTEXT_RESUME (R347): a saved team is admitted to a core of its choice, unless something ranks before it there. -/
def execContextResume (k core : Nat) (s : State) : Host.Outcome State Fault Refusal :=
  .next (
    if s.boot.state != 2 || !s.rampFree || 256 ≤ core then s
    else if s.bestFor core s.items == some (.saved k) then (s.takeItem core (.saved k)).getD s else s)

/-! ### Completion (R316) -/

/-- Nothing of the launch is resident, saved or ready (R316). -/
def Launch.over_ (l : Launch) : Bool := l.runs.all fun x => x.st == .waiting || x.st == .complete || x.st == .faulted

/-- The status word of a completed launch (R316). -/
def Launch.statusWord (l : Launch) : Nat :=
  let skipped := (l.runs.filter fun x => x.st == .waiting || x.st == .ready).length
  2 ^ 63 + (match l.faulted with | some f => 2 ^ 62 + f.1 % 65536 * 2 ^ 24 + f.2 % 256 | none => 0) + Nat.min 0xFFFF skipped * 256

/-- The launch goes on to the next part of its completion. -/
def State.told (s : State) (k : Nat) (l : Launch) (n : Nat) : State := s.setLaunch k { l with told := n }

/-- The exception record written (R211, R316 step 1); one that cannot be written leaves the launch faulted with reason ACCESS. -/
def State.tellRecord (s : State) (k : Nat) (l : Launch) : State :=
  if l.hdr.record == 0 then s.told k l 1
  else match s.hubStore l.asid l.hdr.record 768 (countsBlob l.counts) with
    | .ok _ s1 => s1.told k l 1
    | .wait _ s1 => s1
    | .trap _ s1 => s1.told k { l with faulted := match l.faulted with | some f => some f | none => some (0, 10) } 1

/-- The status word written (R316 step 2); the loss of one that cannot be is logged. -/
def State.tellStatus (s : State) (k : Nat) (l : Launch) : State :=
  if l.hdr.status == 0 then s.told k l 2
  else match s.hubWrite l.asid l.hdr.status l.statusWord with
    | .ok _ s1 => s1.told k l 2
    | .wait _ s1 => s1
    | .trap _ s1 => (s1.sheafNote 4 l.hdr.status).told k l 2

/-- The signal updated, with the message after it (R316 steps 3 and 4), once a status word in another package has been written there. -/
def State.tellSignal (s : State) (k : Nat) (l : Launch) : State :=
  if s.writesOut l.asid then s
  else if l.hdr.signal == 0 then { s.told k l 3 with msix := s.msix ++ l.msix.toList }
  else if s.signalStalled l.asid l.hdr.signal then s
  else match s.hubEntry l.asid l.hdr.signal true with
    | .wait _ s1 => s1
    | .trap _ s1 => { (s1.sheafNote 5 l.hdr.signal).told k l 3 with msix := s.msix ++ l.msix.toList }
    | .ok _ s1 =>
      match s1.signalOp l.part l.asid l.hdr.signal .add l.hdr.addend.toNat l.msix with
      | some s2 => s2.told k l 3
      | none => { (s1.sheafNote 5 l.hdr.signal).told k l 3 with msix := s.msix ++ l.msix.toList }

/-- A launch that has told its completion leaves the device, and its parent has a child fewer. -/
def State.leave (s : State) (k : Nat) (l : Launch) : State :=
  let s4 := s.setLaunch k l
  let s5 := match l.parent, l.parent.bind s4.launch with
    | some p, some q => s4.setLaunch p { q with children := q.children - 1 }
    | _, _ => s4
  { s5 with qslots := s5.qslots.map fun (q : QSlot) => if q.queue == some l.queue then { q with idleSince := s5.cycle } else q }

/-- A launch completes: record, status word, signal, MSI-X, in that order, as far as nothing has to be waited for (R316). -/
def State.complete (s : State) : Nat → Nat → State
  | 0, _ => s
  | n + 1, k =>
    match s.launch k with
    | none => s
    | some l =>
      if l.told == 3 then s.leave k { l with live := false }
      else
        let s1 := if l.told == 0 then s.tellRecord k l else if l.told == 1 then s.tellStatus k l else s.tellSignal k l
        if (s1.launch k).map Launch.told == some l.told then s1 else s1.complete n k

/-- No write of the launch's partition to another package is outstanding whose group or copy request is gone, and no word or signal of its address space (R126, R265). -/
def State.drained (s : State) (l : Launch) : Bool :=
  !s.writesOut l.asid && !s.remote.any fun r => r.write && r.part == l.part && (match r.for_ with
    | .lanes g _ => (s.group g).isNone
    | .copy _ _ => !s.copies.any fun c => c.tags.contains r.tag
    | _ => false)

/-- A launch may complete (R316), or the kill of the ladder has reset it (R328). -/
def Launch.finished (l : Launch) : Bool :=
  l.over_ || (l.ladder == some .kill && l.runs.all fun x => x.st != .resident && x.st != .saved)

/-- LAUNCH_COMPLETE (R265, R316). -/
def execLaunchComplete (k : Nat) (s : State) : Host.Outcome State Fault Refusal :=
  .next (match s.launch k with
    | some l => if l.live && s.drained l && l.finished then s.complete 4 k else s
    | none => s)

/-! ### LAUNCH (R323) -/

/-- LAUNCH.SUB: the image address is checked, and the group sleeps until the hub answers. -/
def execLaunch (h : Hdr) (vp : BitVec 6) (prio : BitVec 8) (s : State) : Host.Outcome State Fault Refusal :=
  issue (.launch h vp prio) s fun c => c.withForm (.launch h vp prio) fun s view =>
    if c.act == 0 then c.done (.launch h vp prio) s
    else if view.badN vp 2 c.low then .trap ⟨Cause.poison, c.low⟩ s
    else
      let img := view.rd2 vp c.low
      let base := match c.team, c.s.launchOf c.g with
        | some t, some l => ((l.runs[t.node]?).map NodeRun.prio).getD 0
        | _, _ => 0
      if img.toNat % 256 != 0 then .trap ⟨Cause.misalign, img.toNat⟩ s
      else c.sleep (s.endSafe c.g) (.launch c.slot img (Nat.min prio.toNat base))

/-- The hub's answer to a group asleep in LAUNCH: accepted, refused with a reason, or an image page still absent. Once the launch is being stopped the hub takes no more
(R267): the group sleeps until it is halted, and the submission is then discarded. -/
def State.answerLaunch (s : State) (n : Nat) (g : Group) (slot : SlotId) (img : DWord) (q : Nat) : State :=
  match s.teamOf g, s.launchOf g with
  | some t, some l =>
    if !s.launchRuns l then s else
    (match s.readImage l.asid s.launches.length img.toNat (some t.launch) with
    | .ok r s1 => (s1.hubDone.accept r l.asid l.part l.queue img.toNat (some t.launch) q none).wake n slot 1
    | .trap e s1 =>
      (match s1.refuse l.asid img.toNat e.info with
      | .ok _ s2 => s2.hubDone.wakeTrap n slot e
      | .wait w s2 => s2.hubAsk l.part l.asid w
      | .trap _ s2 => s2)
    | .wait w s1 => s1.hubAsk l.part l.asid w)
  | _, _ => s

/-- LAUNCH_ACCEPT (R323). -/
def execLaunchAccept (n : Nat) (s : State) : Host.Outcome State Fault Refusal :=
  .next (match s.group n with
    | none => s
    | some g =>
      match g.asleep with
      | some (.launch slot img q) => s.answerLaunch n g slot img q
      | _ => s)

/-! ### Pod barriers (R325) -/

/-- The barrier word with one more arrival, or one more retirement. -/
def podNext (total w : Nat) (arrive : Bool) : Nat :=
  let gen := w / 2 ^ 48 % 65536
  let retired := w / 2 ^ 24 % 2 ^ 24 + (if arrive then 0 else 1)
  let arrived := w % 2 ^ 24 + (if arrive then 1 else 0)
  if arrived != 0 && total ≤ arrived + retired then (gen + 1) % 65536 * 2 ^ 48 + retired * 2 ^ 24
  else gen * 2 ^ 48 + retired * 2 ^ 24 + arrived

/-- The team is a participant of its launch's pod barrier. -/
def State.podTeam (s : State) (n : Nat) : Option (Team × Launch) :=
  (s.team n).bind fun t => (s.launch t.launch).bind fun l => if l.podNodes.contains t.node then some (t, l) else none

/-- Every group of a live team stands at the pod barrier, and the hub has not counted the arrival. -/
def State.podArrives (s : State) (t : Team) : Bool :=
  t.live && t.podGen.isNone && s.teamArrived t 12 && s.teamHeld t 12

/-- A request of the hub about a barrier word of another package (R126, R325), one at a time for each team: a READ in phases 0 (arrival), 2 (wait)
and 3 (retirement), a CAS in phases 1 and 4 whose comparand `seen` is the value read. -/
def State.podAsk (s : State) (n : Nat) (l : Launch) (pa phase seen : Nat) : State :=
  if s.routeStalled (paPkg pa) || s.remote.any fun r => (match r.for_ with | .pod m _ _ => m == n | _ => false) then s
  else match s.routePort (paPkg pa) with
    | none => s
    | some port =>
      let t := s.freshTag
      let cas := phase == 1 || phase == 4
      let new := podNext l.podTotal seen (phase == 1)
      let body := if cas then recordOf (.cas true) 1 ⟨0, 0, BitVec.ofNat 128 (seen + 2 ^ 64 * new), 0⟩ pa
        else bytesOf 8 (addrWord pa 3 1)
      let s1 := (t.2.enqueue port (if cas then 3 else 2) (mkFlit s 0 (paPkg pa) t.1 false body)).noteWrite l.part (paPkg pa) cas
      { s1 with remote := s1.remote ++ [⟨t.1, paPkg pa, l.part, cas, .pod n phase seen⟩] }

/-- A request about the barrier word of a team is under way. -/
def State.podOpen (s : State) (n : Nat) : Bool := s.remote.any fun r => match r.for_ with | .pod m _ _ => m == n | _ => false

/-- The counts of a team's arrival, or of its retirement, are in the barrier word. -/
def State.podCounted (s : State) (n : Nat) (t : Team) (arrive : Bool) (w : Nat) : State :=
  s.setTeam n (if arrive then { t with podGen := some (w / 2 ^ 48 % 65536) } else { t with podDone := true })

/-- The HELD entries of a team are released by a new generation (R325 rule 2). -/
def State.podRelease (s : State) (n : Nat) (t : Team) : State :=
  ((s.groupsOf t).foldl (fun s e => s.setGroup e.1 (e.2.release 12)) s).setTeam n { t with podGen := none }

/-- The barrier word's physical address, where its page admits the hub; an absent page is posted to the Sheaf. -/
def State.podPA (s : State) (l : Launch) : Option Nat × State :=
  match s.translateHub l.asid l.podWord true with
  | (.ok pa pte _, s1) => (if pteRW pte && pteA pte then some pa else none, s1)
  | (.fault, s1) => (none, s1.postFault l.asid l.podWord .atomic false)
  | (.malformed, s1) => (none, s1.postFault l.asid l.podWord .atomic true)
  | (.frozen, s1) => (none, s1)

/-- The answer to a request about a remote barrier word: a value read leads to the CAS, a CAS that failed to the next one. -/
def State.podAnswer (s : State) (n phase seen v : Nat) : State :=
  match s.podTeam n with
  | none => s
  | some (t, l) =>
    match s.podPA l with
    | (none, s1) => s1
    | (some pa, s1) =>
      if phase == 2 then (if t.podGen.isSome && t.podGen != some (v / 2 ^ 48 % 65536) then s1.podRelease n t else s1)
      else if phase == 0 || phase == 3 then s1.podAsk n l pa (phase + 1) v
      else if v == seen then s1.podCounted n t (phase == 1) seen
      else s1.podAsk n l pa phase v

/-- POD_BARRIER_UPDATE (R325 rules 1 and 3): the CAS of an arrival or of a retirement, at the barrier word's home. -/
def execPodBarrierUpdate (n : Nat) (s : State) : Host.Outcome State Fault Refusal :=
  .next (match s.podTeam n with
    | none => s
    | some (t, l) =>
      let arrive := s.podArrives t
      let retire := !t.live && !t.podDone && (l.runs[t.node]?.map NodeRun.st) != some .saved
      if !arrive && !retire then s
      else match s.podPA l with
        | (none, s1) => s1
        | (some pa, s1) =>
          if !s1.isLocal pa then s1.podAsk n l pa (if arrive then 0 else 3) 0
          else
            let w := s1.readPA pa 8
            (s1.writePA pa 8 (podNext l.podTotal w arrive) false).podCounted n t arrive w)

/-- POD_BARRIER_RELEASE (R325 rule 2): a new generation releases the team's HELD entries. -/
def execPodBarrierRelease (n : Nat) (s : State) : Host.Outcome State Fault Refusal :=
  .next (match s.podTeam n with
    | none => s
    | some (t, l) =>
      match t.podGen with
      | none => s
      | some g =>
        if !t.live then s
        else match s.podPA l with
          | (none, s1) => s1
          | (some pa, s1) =>
            if !s1.isLocal pa then s1.podAsk n l pa 2 0
            else if s1.readPA pa 8 / 2 ^ 48 % 65536 != g then s1.podRelease n t else s1)

end Sys2Proof.Machine
end

