-- ==== Sys2Proof/Machine/Queue.lean ====
section
/-! DEFINITION. User queues (R319 to R322): kicks, mapping to hardware slots, the packets; the priority of a queue (R318); the latency
monitor (R330). -/

namespace Sys2Proof.Machine

/-! ### Control blocks and slots -/

/-- Hardware queue slot n. -/
def State.qslot (s : State) (n : Nat) : QSlot := Tbl.get QSlot.reset s.qslots n
/-- The state with hardware queue slot n replaced. -/
def State.setQslot (s : State) (n : Nat) (x : QSlot) : State := { s with qslots := Tbl.set QSlot.reset s.qslots n x }
/-- Word k of a control block written. -/
def State.setQword (s : State) (q k v : Nat) : State := s.writePA (s.qcb q + 8 * k) 8 (v % 2 ^ 64) false
/-- Packets of the ring. -/
def State.qSize (s : State) (q : Nat) : Nat := 2 ^ bitsOf (s.qword q 1) 0 5
/-- Partition, address space. -/
def State.qPart (s : State) (q : Nat) : Nat := bitsOf (s.qword q 1) 16 4
def State.qAsid (s : State) (q : Nat) : Nat := bitsOf (s.qword q 1) 20 12
/-- A bit of the device's word 4: 0 MAP, 1 PEND, 2 RST, 3 RDONE, 4 ERR. -/
def State.qFlag (s : State) (q k : Nat) : Bool := bitsOf (s.qword q 4) k 1 == 1
/-- A bit of word 4 set or cleared. -/
def State.setQFlag (s : State) (q k : Nat) (on : Bool) : State :=
  let w := s.qword q 4
  if s.qFlag q k == on then s else s.setQword q 4 (if on then w + 2 ^ k else w - 2 ^ k)
/-- The queue stops on an error (R319, R322). -/
def State.queueStop (s : State) (q err : Nat) : State :=
  let s1 := s.setQFlag q 4 true
  let w := s1.qword q 4
  s1.setQword q 4 (w - bitsOf w 8 8 * 256 + err * 256)
/-- The queue holds no packet that is not accepted. -/
def State.queueEmpty (s : State) (q : Nat) : Bool := s.qword q 2 == s.qword q 3
/-- Unfinished launches of a queue, those of its packets or every one. -/
def State.queueBusy (s : State) (q : Nat) (all : Bool) : Bool :=
  (List.range s.launches.length).any fun k => match s.launch k with
    | some l => l.live && l.queue == q && (all || l.parent.isNone)
    | none => false
/-- A queue is idle (R321). -/
def State.queueIdle (s : State) (q : Nat) : Bool := s.queueEmpty q && !s.queueBusy q true && !s.qFlag q 2
/-- The queue's address space is a valid record of its partition (R320), and the reserved bits of the block's word 1 are zero. For a block that has them nonzero the spec names no
fault (R4): the model lets it stop the queue as an invalid record does (DESIGN CHOICE, log entry 67). -/
def State.queueAsOk (s : State) (q : Nat) : Bool :=
  (s.asRec (s.qAsid q)).valid && (s.asRec (s.qAsid q)).part == s.qPart q && s.qword q 1 / 2 ^ 32 == 0
/-- The slot of a mapped queue. -/
def State.slotOfQueue (s : State) (q : Nat) : Option Nat := (List.range 64).find? fun k => (s.qslot k).queue == some q

/-! ### Priority (R317, R318) -/

/-- A launch of the queue under a priority: nodes not yet ready take it when they become so, ready ones are rebased with their ageing kept. -/
def State.rebasePrio (s : State) (q : Nat) (l : Launch) : Launch :=
  let l1 := { l with qprio := some q }
  { l1 with runs := l1.runs.mapIdx fun k x =>
      if x.st == .ready then { x with prio := ((l1.nodes[k]?).map (s.basePrio l1)).getD x.prio } else x }

/-- The kick of a mapped queue processed: its slot fetches up to the write index, and its priority holds from now on for the launches of its
packets. -/
def State.applyPrio (s : State) (slot q : Nat) : State :=
  let p := s.queuePrio q
  let s1 := s.setQslot slot { s.qslot slot with prio := p, upto := s.qword q 2 }
  (List.range s1.launches.length).foldl (fun s k => match s.launch k with
    | some l => if l.live && l.queue == q && l.parent.isNone then s.setLaunch k (s.rebasePrio p l) else s
    | none => s) s1

/-! ### Kicks and mapping (R321) -/

/-- The function may kick the queue (R399): the physical function any, a virtual one its partition's. -/
def State.mayKick (s : State) (fn q : Nat) : Bool := fn == 0 || bitsOf (s.part (s.qPart q)).cfg.toNat 55 8 == fn

/-- DOORBELL (R321): a mapped queue's priority is taken over and its slot fetches; an unmapped one waits with PEND for the Sheaf. -/
def execDoorbell (fn : Nat) (queue : BitVec 12) (s : State) : Host.Outcome State Fault Refusal :=
  let q := queue.toNat
  .next (
    if s.boot.state != 2 || !s.mayKick fn q then s
    else match s.slotOfQueue q with
      | some k => s.applyPrio k q
      | none => { s.setQFlag q 1 true with queues := if s.queues.contains q then s.queues else s.queues ++ [q] })

/-- The slot that a queue to be mapped takes: a free one, else that of the mapped queue idle longest (R321). -/
def State.slotFor (s : State) : Option Nat :=
  match (List.range 64).find? fun k => (s.qslot k).queue == none with
  | some k => some k
  | none =>
    let idle := (List.range 64).filter fun k => ((s.qslot k).queue.map s.queueIdle).getD false
    idle.foldl (fun b k => match b with
      | none => some k
      | some j => if (s.qslot k).idleSince < (s.qslot j).idleSince then some k else b) none

/-- A queue takes a hardware slot: bounds loaded, histogram cleared (R330), MAP set, PEND cleared. The slot's last-window registers keep what they show. -/
def State.mapQueue (s : State) (k q : Nat) : State :=
  let s0 := match (s.qslot k).queue with | some old => s.setQFlag old 0 false | none => s
  let w := s0.qword q 5
  let s1 := s0.setQslot k ⟨some q, s0.queuePrio q, s0.qword q 2, bitsOf w 0 32, bitsOf w 32 32, [], (s0.qslot k).last, s0.cycle⟩
  (((s1.setQFlag q 0 true).setQFlag q 1 false).applyPrio k q)

/-- QUEUE_MAP (R321): the Sheaf serves a pending kick; a queue with a bad address space stops with err 1 (R320). -/
def execQueueMap (q : Nat) (s : State) : Host.Outcome State Fault Refusal :=
  .next (
    if !s.queues.contains q then s
    else
      let s1 := { s with queues := delNat s.queues q }
      if !s.queueAsOk q then (s1.setQFlag q 1 false).queueStop q 1
      else match s1.slotFor with
        | none => s
        | some k => s1.mapQueue k q)

/-! ### Packets (R322) -/

/-- The packet at a queue's read index: its number, words, address space and partition. -/
structure Packet where
  slot : Nat
  queue : Nat
  asid : Nat
  part : Nat
  w : List Nat
  deriving DecidableEq, Repr

/-- A word of a packet. -/
def Packet.word (p : Packet) (k : Nat) : Nat := Tbl.get 0 p.w k
/-- The type. -/
def Packet.type (p : Packet) : Nat := bitsOf (p.word 0) 0 8
/-- The MSI-X vector, where I asks for a message. -/
def Packet.msix (p : Packet) : Option Nat := if bitsOf (p.word 0) 9 1 == 1 then some (bitsOf (p.word 0) 16 11) else none

/-- Reserved fields, alignment of the signal, scopes (R322). -/
def Packet.wellFormed (p : Packet) : Bool :=
  let zero := fun (l : List Nat) => l.all fun k => p.word k == 0
  bitsOf (p.word 0) 10 6 == 0 && bitsOf (p.word 0) 27 37 == 0 &&
  match p.type with
  | 0 => zero [1, 2, 3, 4, 5, 6, 7]
  | 1 => zero [2, 3, 4, 5, 6, 7]
  | 2 => zero [4, 5, 6, 7] && bitsOf (p.word 3) 1 3 == 0 && bitsOf (p.word 3) 7 57 == 0 && decide (bitsOf (p.word 3) 4 3 < 6) && p.word 1 % 8 == 0
  | 3 => zero [4, 5, 6, 7] && decide (p.word 3 ≤ 2) && p.word 1 % 8 == 0
  | _ => zero [2, 3, 4, 5, 6, 7] && decide (p.word 1 < 6)

/-- The queue of a slot accepts packets: a kick has made its slot fetch them, and nothing has stopped it. -/
def State.queueOpen (s : State) (slot q : Nat) : Bool :=
  s.boot.state == 2 && s.qword q 3 != (s.qslot slot).upto && !s.qFlag q 2 && !s.qFlag q 4 && !(s.part (s.qPart q)).stopping &&
    !(s.part (s.qPart q)).stopped

/-- The words of the packet at the read index of a queue. -/
def State.packetWords (s : State) (q : Nat) : Chk (List Nat) :=
  s.hubWords (s.qAsid q) (s.qword q 0 + 64 * (s.qword q 3 % s.qSize q)) 8

/-- The type of the packet that a slot would process next; none where there is none. A ring that cannot be read, or not yet, and an invalid address space count as type 0. -/
def State.packetType (s : State) (slot : Nat) : Option Nat :=
  (s.qslot slot).queue.bind fun q =>
    if !s.queueOpen slot q then none
    else if !s.queueAsOk q then some 0
    else match s.packetWords q with
      | .ok w _ => some (bitsOf (Tbl.get 0 w 0) 0 8)
      | _ => some 0

/-- A packet accepted: the index advances (R322), and nothing is kept of what the hub has heard for it. -/
def State.acceptPacket (s : State) (p : Packet) : State :=
  let s1 := s.hubDone.setQword p.queue 3 (s.qword p.queue 3 + 1)
  s1.setQslot p.slot { s1.qslot p.slot with idleSince := s1.cycle }
/-- A packet accepted and completed. -/
def State.finishPacket (s : State) (p : Packet) : State :=
  let s1 := s.acceptPacket p
  match p.msix with | some v => { s1 with msix := s1.msix ++ [v] } | none => s1

/-- The next packet of a slot processed, where it is of the types an event serves: a ring or address space that cannot be read stops the queue with
err 1, a reserved type with err 2, a malformed packet with err 3; B waits for every earlier LAUNCH. -/
def State.onPacket (s : State) (slot : Nat) (mine : Nat → Bool) (body : Packet → State → State) : State :=
  match (s.qslot slot).queue with
  | none => s
  | some q =>
    if !s.queueOpen slot q then s
    else if !s.queueAsOk q then s.queueStop q 1
    else match s.packetWords q with
      | .wait w s1 => s1.hubAsk (s.qPart q) (s.qAsid q) w
      | .trap _ s1 => s1.hubDone.queueStop q 1
      | .ok w s1 =>
        let p : Packet := ⟨slot, q, s.qAsid q, s.qPart q, w⟩
        if !mine p.type then s
        else if 5 ≤ p.type then s1.queueStop q 2
        else if !p.wellFormed then s1.queueStop q 3
        else if bitsOf (p.word 0) 8 1 == 1 && s.queueBusy q false then s
        else body p s1

/-- PACKET_NOP (R322). -/
def execPacketNop (slot : Nat) (s : State) : Host.Outcome State Fault Refusal :=
  .next (s.onPacket slot (fun t => t == 0) fun p s => s.finishPacket p)

/-- PACKET_LAUNCH (R314, R322): the image is submitted; one refused sends no message. -/
def execPacketLaunch (slot : Nat) (s : State) : Host.Outcome State Fault Refusal :=
  .next (s.onPacket slot (fun t => t == 1) fun p s =>
    match s.readImage p.asid s.launches.length (p.word 1) none with
    | .ok r s1 => (s1.accept r p.asid p.part p.queue (p.word 1) none (s1.qslot slot).prio p.msix).acceptPacket p
    | .trap e s1 =>
      (match s1.refuse p.asid (p.word 1) e.info with
      | .ok _ s2 => s2.acceptPacket p
      | .wait w s2 => s2.hubAsk p.part p.asid w
      | .trap _ s2 => s2)
    | .wait w s1 => s1.hubAsk p.part p.asid w)

/-- Signal updates of a partition are under way to other packages: what a release at pod or sys scope waits for (R322). -/
def State.signalsOut (s : State) (part : Nat) : Bool := s.remote.any fun r => (match r.for_ with | .signal _ _ => true | _ => false) && r.part == part

/-- PACKET_SIGNAL (R266, R322): after every earlier LAUNCH, and at pod and sys scope after the signals sent before it, the signal is updated at its home, and the
message that I asks for follows the update. -/
def execPacketSignal (slot : Nat) (s : State) : Host.Outcome State Fault Refusal :=
  .next (s.onPacket slot (fun t => t == 2) fun p s =>
    if s.queueBusy p.queue false then s
    else if (4 ≤ bitsOf (p.word 3) 4 3 && s.signalsOut p.part) || s.signalStalled p.asid (p.word 1) then s
    else match s.translateHub p.asid (p.word 1) true with
      | (.fault, s1) => s1.postFault p.asid (p.word 1) .atomic false
      | (.malformed, s1) => s1.postFault p.asid (p.word 1) .atomic true
      | (.frozen, s1) => s1
      | (.ok _ _ _, s1) =>
        match s1.signalOp p.part p.asid (p.word 1) (if bitsOf (p.word 3) 0 1 == 1 then .max else .add) (p.word 2) p.msix with
        | some s2 => s2.acceptPacket p
        | none => s1.queueStop p.queue 1)

/-- The condition of a WAIT packet on the value read (R322). -/
def Packet.met (p : Packet) (v : Nat) : Bool :=
  match p.word 3 with
  | 0 => decide (p.word 2 ≤ v)
  | 1 => v == p.word 2
  | _ => v != p.word 2

/-- A signal of another package is asked for by a READ, one at a time (R126, R266). -/
def State.askSignal (s : State) (p : Packet) (pa : Nat) : State :=
  let what : RemoteFor := .packetWait p.asid p.slot (s.qword p.queue 3)
  if s.routeStalled (paPkg pa) || s.remote.any fun r => r.for_ == what then s
  else match s.routePort (paPkg pa) with
    | none => s.queueStop p.queue 1
    | some port =>
      let t := s.freshTag
      let s1 := t.2.enqueue port 2 (mkFlit s 0 (paPkg pa) t.1 false (bytesOf 8 (addrWord pa 3 1)))
      { s1 with remote := s1.remote ++ [⟨t.1, paPkg pa, p.part, false, what⟩] }

/-- PACKET_WAIT (R266, R322): later packets are held until a read of the signal meets the condition. -/
def execPacketWait (slot : Nat) (s : State) : Host.Outcome State Fault Refusal :=
  .next (s.onPacket slot (fun t => t == 3) fun p s =>
    match s.translateHub p.asid (p.word 1) false with
    | (.fault, s1) => s1.postFault p.asid (p.word 1) .load false
    | (.malformed, s1) => s1.postFault p.asid (p.word 1) .load true
    | (.frozen, s1) => s1
    | (.ok pa pte _, s1) =>
      if !pteR pte then s1.queueStop p.queue 1
      else if !s1.isLocal pa then s1.askSignal p pa
      else if p.met (s1.readPA pa 8) then s1.finishPacket p else s1)

/-- The answer to a remote WAIT: the packet is accepted where it still stands at the read index and its condition is met. -/
def State.waitAnswer (s : State) (slot rd v : Nat) : State :=
  s.onPacket slot (fun t => t == 3) fun p s => if s.qword p.queue 3 == rd && p.met v then s.finishPacket p else s

/-- PACKET_FENCE (R322): after every earlier LAUNCH, the queue's writes are performed; only signals sent to other packages can still be under
way, and at pod and sys scope the fence waits for them. -/
def execPacketFence (slot : Nat) (s : State) : Host.Outcome State Fault Refusal :=
  .next (s.onPacket slot (fun t => t == 4) fun p s =>
    if s.queueBusy p.queue false then s
    else if 4 ≤ p.word 1 && s.signalsOut p.part then s
    else s.finishPacket p)

/-- RESERVED_PACKET (R322): types 5 to 255 stop the queue. -/
def execReservedPacket (slot : Nat) (s : State) : Host.Outcome State Fault Refusal :=
  .next (s.onPacket slot (fun t => decide (5 ≤ t)) fun _ s => s)

/-! ### The latency monitor (R330) -/

/-- The upper bound of the lowest bin whose cumulative count reaches a percentage of the total. -/
def binBound (hist : List Nat) (pct : Nat) : Nat :=
  let total := hist.foldl (· + ·) 0
  let want := (pct * total + 99) / 100
  let k := ((List.range 16).find? fun k => decide (want ≤ (hist.take (k + 1)).foldl (· + ·) 0)).getD 15
  2 ^ (k + 7) - 1

/-- A bound is breached; a bound of 0 is none. -/
def breached (bound : Nat) (hist : List Nat) (pct : Nat) : Bool := bound != 0 && decide (bound < binBound hist pct)

/-- One slot's window evaluated: breach bits, messages, the histogram copied and cleared. -/
def State.monitorSlot (s : State) (k : Nat) : State :=
  let q := s.qslot k
  if q.queue == none then s
  else
    let bit : DWord := BitVec.ofNat 64 (2 ^ k)
    let b50 := breached q.b50 q.hist 50
    let b99 := breached q.b99 q.hist 99
    let vec := bitsOf s.regs.qoscfg.toNat 0 11
    let msgs := if s.regs.qoscfg.getLsbD 63 then (if b50 then [vec] else []) ++ (if b99 then [vec] else []) else []
    let s1 : State := { s with
      msix := s.msix ++ msgs
      regs := { s.regs with
        qosp50 := if b50 then s.regs.qosp50 ||| bit else s.regs.qosp50
        qosp99 := if b99 then s.regs.qosp99 ||| bit else s.regs.qosp99 } }
    s1.setQslot k { q with hist := [], last := q.hist }

/-- LATENCY_MONITOR (R330): every 2^20 cycles. -/
def execLatencyMonitor (s : State) : Host.Outcome State Fault Refusal :=
  .next (
    if s.cycle < s.monitorAt then s
    else { (List.range 64).foldl State.monitorSlot s with monitorAt := s.monitorAt + 2 ^ 20 })

end Sys2Proof.Machine
end

