-- ==== Sys2Proof/Machine/Ladder.lean ====
section
/-! DEFINITION. Stopping contexts: the escalation ladder (R328), instruction-level halts and saves (R340, R341), the saved-context table of a stopped
launch (R342), revocation and rescue (R327), and core-state errors (R349). -/

namespace Sys2Proof.Machine

/-! ### Who must halt (R327, R328, R341) -/

/-- A team is to halt: its launch is in HALT, its core is revoked, or the hub pre-empts it. -/
def State.haltWanted (s : State) (t : Team) : Bool :=
  t.live && (t.halting.isSome || (s.core t.core).revoking.isSome || ((s.launch t.launch).bind Launch.ladder) == some .halt)

/-- A team and the resident teams of its gang, which halt together (R341). -/
def State.gangTeams (s : State) (n : Nat) (t : Team) : List (Nat × Team) :=
  match s.launch t.launch with
  | none => [(n, t)]
  | some l => (List.range s.teams.length).filterMap fun k => (s.team k).bind fun u =>
      if u.live && u.launch == t.launch && (k == n || (l.gangOf t.node).contains u.node) then some (k, u) else none

/-- A group stops at its next packet boundary for a halt. -/
def State.mustHalt (s : State) (g : Group) : Bool :=
  match s.teamOf g with
  | some t => (s.gangTeams g.team t).any fun e => s.haltWanted e.2
  | none => false

/-- The path stands at an instruction that has issued and waits in the operand log, where a halt leaves it (R65, R340 step 3). -/
def Group.standsLogged (g : Group) (k : SlotId) (p : Path) : Bool := g.log.any fun e => !e.passed && e.slot == k && e.pc == p.pc

/-- The path of a slot stands where a halt takes it: at the start of a packet (R19, R340 step 1); asleep, alone or with its group (R341); or at a faulted instruction that stays in
the operand log. -/
def State.pathStops (s : State) (g : Group) (k : SlotId) : Bool :=
  match g.slot k with
  | none => true
  | some p =>
    !p.pinned && (isPacket (s.sectsOf g) p.pc.toNat || (sectOf (s.sectsOf g) p.pc.toNat).isNone || g.asleep.isSome || g.standsLogged k p ||
      match p.wait with | some (.sleep _) => true | _ => false)

/-- A group may be halted now: its paths stand, nothing that it issued is under way (R340 steps 1 and 2), every HSTORE is answered (R362), and no trap is still to be
delivered to it, for which a context has no place. -/
def State.groupStops (s : State) (n : Nat) (g : Group) : Bool :=
  s.pathStops g .a && s.pathStops g .b && (s.chain == 0 || s.cur.1 != n) && g.deferred.isNone &&
    g.remote.isEmpty && (g.husk.bind Husk.commit).isNone && s.copies.all fun c => c.group != n || c.tags.isEmpty

/-- The launch of a group is being reset by the ladder (R328 KILL): it issues no more. -/
def State.inKill (s : State) (g : Group) : Bool := ((s.launchOf g).bind Launch.ladder) == some .kill

/-! ### The save pool (R340) -/

/-- Ranges of a partition's save pool in use. -/
def State.poolUsed (s : State) (part : Nat) : List (Nat × Nat) :=
  (s.part part).kept ++ ((List.range s.saved.length).filterMap fun k => (s.savedAt k).bind fun x =>
    (s.launch x.team.launch).bind fun l => if l.part == part then some (x.addr, x.size) else none)

/-- The lowest place of a size in the pool, aligned to 256 bytes. -/
def State.poolFit (s : State) (part size : Nat) : Option Nat :=
  let used := s.poolUsed part
  let base := (s.part part).saveBase.toNat
  let cand := (base :: used.map fun r => r.1 + r.2).map (ceilTo 256)
  let ok := cand.filter fun a => base ≤ a && a + size ≤ base + (s.part part).saveLen.toNat && !used.any fun r => overlap (a, size) r
  ok.foldl (fun b a => match b with | none => some a | some c => if a < c then some a else b) none

/-- Bytes stored in the pool of a partition, in an address space: where they lie. -/
def State.poolStore (s : State) (part asid size : Nat) (b : Nat → Blob) : Option (Nat × State) :=
  (s.poolFit part size).bind fun va => match s.hubStore asid va size (b va) with
    | .ok _ s1 => some (va, s1)
    | _ => none

/-! ### Saving a team (R340, R341) -/

/-- Entries of a table taken away. -/
def clearAll {α : Type} (l : List (Option α)) (ks : List Nat) : List (Option α) := ks.foldl (fun l k => Tbl.set none l k none) l

/-- A register as a halt keeps it (R163, R167): a folded one with its recipe, every other as a value without. -/
def VReg.saved (x : VReg) : VReg :=
  match x.hold with
  | .folded => x
  | .spilled vals ps => { x with hold := .rows vals ps, recipe := none }
  | _ => { x with recipe := none }

/-- A group as a halt keeps it: sleeps and waits issue again, a slice being recorded is cut, registers are recipe records or values, and matrix work stands at its
block; d divergence entries of each hardware group have places in the spill area. -/
def Group.halted (g : Group) (d : Nat) : Group :=
  { g with
    v := g.v.map VReg.saved
    spilt := g.spiltAt d
    kdata := []
    heard := []
    slotA := g.slotA.map Path.saved
    slotB := g.slotB.map Path.saved
    asleep := none
    mx := g.mx.map fun w => { w with waitPage := none }
    live := false }

/-- The orphan requests of a halted team's groups (R362). -/
def State.orphanGroups (s : State) (gs : List (Nat × Group)) : State :=
  gs.foldl (fun s e => match s.group e.1 with
    | some g => (let r := s.sendOrphan g; r.1.setGroup e.1 r.2)
    | none => s) s

/-- A group's orphan request has still to be sent: the page of its lock block is absent. -/
def Group.orphanOwed (g : Group) : Bool := (g.husk.map fun h => !h.orphd && !h.waitd).getD false

/-- One team saved in the pool and taken off its core; none where the pool has no room for it. -/
def State.saveTeam (s : State) (n : Nat) (t : Team) : Option State := do
  let l ← s.launch t.launch
  let x ← l.nodes[t.node]?
  let gs := (s.groupsOf t).map fun e => (e.1, e.2.halted l.hdr.d)
  let reqs := fun k => (s.copies.filter fun c => c.group == k).map fun c => { c with waitPage := none, inbuf := [] }
  let t1 := { t with rescue := (s.core t.core).revoking.isSome, halting := none }
  let pairs := gs.map fun e => (e.2, reqs e.1)
  let r ← s.poolStore l.part l.asid (t1.image x.groups pairs 0).1 fun va => (t1.image x.groups pairs va).2
  let copies := (gs.mapIdx fun k e => (reqs e.1).map fun c => { c with group := k }).flatten
  let s2 := pairs.foldl (fun s e => s.spillStack l e.1) r.2
  let s3 := { s2 with
    groups := clearAll s2.groups (gs.map Prod.fst)
    copies := s2.copies.filter fun c => c.team != n
    saved := s2.saved ++ [some (⟨t1, gs.map Prod.snd, copies, s2.cycle, r.1, (t1.image x.groups pairs 0).1⟩ : Saved)] }
  let s4 := s3.setTeam n { t with live := false, podDone := true, localMem := [], localPoison := [], counts := [] }
  some ((s4.setLaunch t.launch (l.setRun t.node fun x => { x with st := .saved })).rampTake)

/-- When the halt of a team was asked for, by the hub or by the owner of its core. -/
def State.haltSince (s : State) (t : Team) : Option Nat := match t.halting with | some c => some c | none => (s.core t.core).revoking

/-- The other teams of a gang halt with one that has been saved (R341). -/
def State.haltRest (s : State) (n since : Nat) (ts : List (Nat × Team)) : State :=
  (ts.filter fun e => e.1 != n).foldl (fun s e => s.setTeam e.1 { e.2 with halting := some ((s.haltSince e.2).getD since) }) s

/-- INSTRUCTION_HALT (R340, R341): a team halts with its gang, once every group of them stands at a packet boundary; each is saved at a place of the ramp (R329). A save that finds
no room waits, and so does one whose orphan request cannot be sent yet. -/
def execInstructionHalt (n : Nat) (s : State) : Host.Outcome State Fault Refusal :=
  .next (match s.team n with
    | none => s
    | some t =>
      let ts := s.gangTeams n t
      if !t.live || !s.rampFree || !(ts.any fun e => s.haltWanted e.2) || ((s.launch t.launch).bind Launch.ladder) == some .kill then s
      else if !(ts.all fun e => !s.podOpen e.1 && (s.groupsOf e.2).all fun x => s.groupStops x.1 x.2) then s
      else
        let s1 := s.orphanGroups (s.groupsOf t)
        if (s1.groupsOf t).any fun e => e.2.orphanOwed then s1
        else match s1.saveTeam n t with
          | none => s1
          | some s2 => s2.haltRest n ((ts.findSome? fun e => s.haltSince e.2).getD s.cycle) ts)

/-! ### The ladder (R328) -/

/-- A launch enters SOFT. -/
def State.softStop (s : State) (k : Nat) : State :=
  match s.launch k with
  | some l => if l.live && l.ladder.isNone then s.setLaunch k { l with ladder := some .soft, stopAt := s.cycle } else s
  | none => s

/-- STOP_REQUEST (R328). -/
def execStopRequest (k : Nat) (s : State) : Host.Outcome State Fault Refusal := .next (s.softStop k)

/-- Saved teams of a launch, with their numbers. -/
def State.savedOf (s : State) (k : Nat) : List (Nat × Saved) :=
  (List.range s.saved.length).filterMap fun j => (Tbl.get none s.saved j).bind fun x => if x.team.launch == k then some (j, x) else none

/-- A node's state word (R342). -/
def NodeRun.word (x : NodeRun) : Nat :=
  x.preds % 65536 + 65536 * (match x.st with
    | .waiting => 0
    | .ready => 1
    | .saved | .resident => 2
    | .complete => 3
    | .faulted => 4)

/-- The saved-context table of a stopped launch, its counts, node states and context addresses, at an address (R342). -/
def Launch.table (l : Launch) (teams : List Nat) (va : Nat) : Blob :=
  let head : Blob := ⟨Mem.puts [] ([(0, 4, 0x58435A4F), (4, 2, teams.length), (8, 8, va + 64), (16, 8, va + 832),
    (24, 8, va + 832 + ceilTo 8 (4 * l.runs.length))] ++ (l.runs.mapIdx fun k x => (832 + 4 * k, 4, x.word)) ++
    (teams.mapIdx fun k a => (832 + ceilTo 8 (4 * l.runs.length) + 8 * k, 8, a))), []⟩
  head.put 64 (countsBlob l.counts)

/-- Bytes of that table. -/
def Launch.tableSize (l : Launch) (teams : List Nat) : Nat := 832 + ceilTo 8 (4 * l.runs.length) + 8 * teams.length

/-- A launch without a resident team leaves the device: complete where every node is, else saved as an image whose context word names the
table (R342); while the page of that word is absent the stop waits. -/
def State.stopDone (s : State) (k : Nat) (l : Launch) : State :=
  if l.over_ then s.complete 4 k
  else match s.hubEntry l.asid (l.img + 128) true with
  | .wait _ s0 => s0
  | _ =>
    let saved := s.savedOf k
    let teams := saved.map fun e => e.2.addr
    match s.poolStore l.part l.asid (l.tableSize teams) (l.table teams) with
    | none => s
    | some (va, s1) =>
      let s2 := match s1.hubWrite l.asid (l.img + 128) va with | .ok _ s => s | _ => s1
      let s3 := s2.setPart l.part { s2.part l.part with
        kept := (s2.part l.part).kept ++ (va, l.tableSize teams) :: saved.map fun e => (e.2.addr, e.2.size) }
      { s3 with saved := clearAll s3.saved (saved.map Prod.fst) }.leave k { l with live := false, ladder := some .stopped }

/-- The grace timer of a launch in SOFT has run out: it is in HALT. -/
def State.graceOver (s : State) (k : Nat) (l : Launch) : State :=
  if l.ladder == some .soft && l.stopAt + Config.cyclesOfUs (s.part l.part).grace ≤ s.cycle then s.setLaunch k { l with ladder := some .halt } else s

/-- GRACE_TIMER (R328): SOFT ends at the node boundary with STOPPED, or at the grace timer with HALT; HALT ends when every team is saved. A launch whose image finds no room in
the pool is not stopped yet, and its timers run on (R340). -/
def execGraceTimer (k : Nat) (s : State) : Host.Outcome State Fault Refusal :=
  .next (match s.launch k with
    | none => s
    | some l =>
      let idle := l.runs.all fun x => x.st != .resident
      if !l.live || !(l.ladder == some .soft || l.ladder == some .halt) then s
      else
        let s1 := if idle && s.drained l then s.stopDone k l else s
        match s1.launch k with
        | some l1 => if l1.live && !l1.over_ then s1.graceOver k l1 else s1
        | none => s1)

/-- Every group of a team ends without saving (R328 KILL). -/
def State.killTeam (s : State) (t : Team) : State := (s.groupsOf t).foldl (fun s e => s.endGroup e.1 0x1B) s

/-- The node of a saved team that is gone has faulted (R316). -/
def Launch.savedFault (l : Launch) (n reason : Nat) : Launch := (l.nodeFault n reason).setRun n fun x => { x with st := .faulted }

/-- Saved teams of a killed launch are gone, their nodes faulted, their keys purged (R328, R367). -/
def State.dropSaved (s : State) (k : Nat) : State :=
  (s.savedOf k).foldl (fun s e =>
    let s1 := e.2.groups.foldl (fun s g => s.purge g.key) s
    match s1.launch k with
    | some l => ({ s1 with saved := Tbl.set none s1.saved e.1 none }).setLaunch k (l.savedFault e.2.team.node 0x1B)
    | none => s1) s

/-- A launch in KILL completes as faulted with reason 0x1B (R328): where no node has faulted, with the first that is not complete. -/
def Launch.killFault (l : Launch) : Launch :=
  match l.faulted with
  | some _ => l
  | none => { l with faulted := some (((List.range l.runs.length).find? fun n => (l.runs[n]?.map NodeRun.st) != some .complete).getD 0, 0x1B) }

/-- The live teams of a launch. -/
def State.liveTeams (s : State) (k : Nat) : List (Nat × Team) :=
  (List.range s.teams.length).filterMap fun n => (s.team n).bind fun t => if t.live && t.launch == k then some (n, t) else none

/-- The kill timer of a request has run out. -/
def State.killDue (s : State) (part at_ : Nat) : Bool := decide (at_ + Config.cyclesOfUs (s.part part).kill ≤ s.cycle)

/-- The first of some teams ends at a free place of the ramp (R329). -/
def State.killOne (s : State) (ts : List (Nat × Team)) : State :=
  match ts with
  | e :: _ => if s.rampFree then (s.killTeam e.2).rampTake else s
  | [] => s

/-- KILL_TIMER (R328): a launch in HALT too long is reset whole, its teams ending one at each place of the ramp; a team whose revocation or pre-emption takes too long ends alone. -/
def execKillTimer (k : Nat) (s : State) : Host.Outcome State Fault Refusal :=
  .next (match s.launch k with
    | none => s
    | some l =>
      let late := fun (e : Nat × Team) => ((s.haltSince e.2).map (s.killDue l.part)).getD false
      if !l.live then s
      else if l.ladder == some .kill then s.killOne (s.liveTeams k)
      else if l.ladder == some .halt && s.killDue l.part l.stopAt then
        ((s.setLaunch k { l.killFault with ladder := some .kill }).dropSaved k).killOne (s.liveTeams k)
      else s.killOne ((s.liveTeams k).filter late))

/-! ### Revocation and rescue (R327) -/

/-- The scrub of a core without teams (R59, R135): what its caches and its TLB hold is gone; registers, local memory and matrix storage belong to teams
and are zero when granted. -/
def State.scrub (s : State) (core : Nat) : State :=
  { s.l1Empty core with icache := s.icache.filter (fun c => c.1 != core), tlb := s.tlb.filter fun t => t.unit != .l1 core }

/-- The state as it would be if a core were back with its owner and empty. -/
def State.emptied (s : State) (core : Nat) : State :=
  let s1 := (s.teamsOn core).foldl (fun s e => s.setTeam e.1 { e.2 with live := false }) s
  ({ s1 with groups := clearAll s1.groups ((s.onCore core).map Prod.fst) }).setCore core CoreSt.reset

/-- The owner of a lent core may revoke it: a node of its own could run there, its margin no longer covers it, or a security transition stops it
(R327, R405). -/
def State.revocable (s : State) (core owner : Nat) : Bool :=
  decide (s.margin owner < s.lentOut owner) || s.boot.tdiNext.any (fun x => x.1 == bitsOf (s.part owner).cfg.toNat 55 8) ||
    (let s1 := s.emptied core
     s.items.any fun i => (match s.itemLaunch i with
      | some l => l.part == owner && (s1.takeItem core i).isSome
      | none => false))

/-- CORE_REVOCATION (R327): the owner takes a lent core back; once its contexts are saved, the core is scrubbed and returned. -/
def execCoreRevocation (core : Nat) (s : State) : Host.Outcome State Fault Refusal :=
  .next (
    let c := s.core core
    match c.lentTo, s.ownerOf core with
    | some _, some owner =>
      if c.revoking.isNone then (if s.revocable core owner then s.setCore core { c with revoking := some s.cycle } else s)
      else if (s.teamsOn core).isEmpty then (s.scrub core).setCore core { c with lentTo := none, revoking := none }
      else s
    | _, _ => s)

/-- The resident teams of a partition's guaranteed cores, the youngest first chosen. -/
def State.youngest (s : State) (part : Nat) : Option (Nat × Team) :=
  let ts := (List.range s.teams.length).filterMap fun n => (s.team n).bind fun t =>
    if t.live && s.guaranteed part t.core && (s.core t.core).lentTo.isNone then some (n, t) else none
  ts.foldl (fun b e => match b with
    | none => some e
    | some c => if c.2.started ≤ e.2.started then some e else b) none

/-- RESCUE_TIMEOUT (R327): a context saved for 100 µs and not re-admitted makes the hub pre-empt the youngest team there. -/
def execRescueTimeout (part : Nat) (s : State) : Host.Outcome State Fault Refusal :=
  .next (
    let late := (List.range s.saved.length).any fun k => match s.savedAt k with
      | some x => x.team.rescue && decide (x.at_ + 105000 ≤ s.cycle) && ((s.launch x.team.launch).map Launch.part) == some part
      | none => false
    let busy := (List.range s.teams.length).any fun n => match s.team n with
      | some t => t.live && t.halting.isSome && s.guaranteed part t.core
      | none => false
    match late && !busy, s.youngest part with
    | true, some e => s.setTeam e.1 { e.2 with halting := some s.cycle }
    | _, _ => s)

/-! ### Core-state errors (R349) -/

/-- A team discarded without further writes: its node is ready again as a fresh one at its base priority. -/
def State.discardTeam (s : State) (n : Nat) (t : Team) : State :=
  let gs := s.groupsOf t
  let s1 := gs.foldl (fun s e => s.purge e.2.key) s
  let s2 := { s1 with
    groups := clearAll s1.groups (gs.map Prod.fst)
    copies := s1.copies.filter fun c => c.team != n }
  let s3 := s2.setTeam n { t with live := false, podDone := true, localMem := [], localPoison := [], counts := [] }
  let slots := gs.flatMap fun e => if e.2.width = 64 then [e.2.lslot, e.2.lslot + 1] else [e.2.lslot]
  match s3.launch t.launch with
  | none => s3
  | some l => s3.setLaunch t.launch { (l.setRun t.node fun x => { x with
      st := if x.bad then .faulted else .ready, readyAt := s.cycle, prio := ((l.nodes[t.node]?).map (s.basePrio l)).getD 0, pooled := none }) with
      slots := l.slots.filter fun k => !slots.contains k }

/-- What becomes of an affected team (R349). -/
def State.coreErrorTeam (s : State) (n : Nat) (t : Team) : State :=
  if t.safe && ((s.nodeOf t).map NodeRec.rs).getD false then s.discardTeam n t
  else (s.groupsOf t).foldl (fun s e => s.endGroup e.1 0x0A) s

/-- An error in core state, in a record of one group or in what the core's groups share: its teams are over at once, and take their places of the ramp (log entry 82); the core leaves
service. -/
def State.coreError (s : State) (core : Nat) (group : Option Nat) : State :=
  let hit := (s.teamsOn core).filter fun e => match group with | some g => e.2.groups.contains g | none => true
  (hit.foldl (fun s e => (s.coreErrorTeam e.1 e.2).rampTake) s).setCore core { s.core core with out := true }

/-- CORE_STATE_ERROR (R349). -/
def execCoreStateError (core : Nat) (group : Option Nat) (s : State) : Host.Outcome State Fault Refusal := .next (s.coreError core group)

end Sys2Proof.Machine
end

