-- ==== Sys2Proof/Machine/Stop.lean ====
section
/-! DEFINITION. Tenant stops and queue resets (R267): the drain of other packages (R128), the dirty-page report (R401), the status and the message;
what a security transition waits for (R405). -/

namespace Sys2Proof.Machine

/-- n bytes written to host memory at a physical address (R395). -/
def State.hostWrite (s : State) (pa n v : Nat) : State := { s with hostMem := Mem.writeN s.hostMem pa n v }

/-! ### The dirty-page report (R401) -/

/-- What the report visits: its entry's value, whether it is dirty, and the physical addresses of the table entries it stands for. -/
structure DirtyLeaf where
  entry : Nat
  dirty : Bool
  at_ : List Nat
  deriving DecidableEq, Repr

/-- The entry of a page-table slot. -/
def State.pte (s : State) (pa : Nat) : DWord := BitVec.ofNat 64 (s.readPA pa 8)

/-- The leaves of a leaf table: 64 KiB leaves, or whole contiguous groups whose entries all have CH set (R51). -/
def State.dirtyLeaves (s : State) (asid va table : Nat) : List DirtyLeaf :=
  (List.range 256).flatMap fun grp =>
    let ks := (List.range 32).map fun k => 32 * grp + k
    let leaf := fun k => (s.pte (table + 8 * k))
    let valid := fun k => pteV (leaf k) && pteLeaf (leaf k)
    let word := fun k size => asid * 2 ^ 52 + (va + k * 65536) % 2 ^ 51 + size
    if ks.all fun k => valid k && pteCH (leaf k) then
      [⟨word (32 * grp) 1, ks.any fun k => pteDT (leaf k), (ks.filter fun k => pteDT (leaf k)).map fun k => table + 8 * k⟩]
    else (ks.filter valid).map fun k => ⟨word k 0, pteDT (leaf k), [table + 8 * k]⟩

/-- The leaves under a middle table. -/
def State.dirtyMiddle (s : State) (asid va table : Nat) : List DirtyLeaf :=
  (List.range 8192).flatMap fun k =>
    let e := s.pte (table + 8 * k)
    let at_ := va + k * 2 ^ 29
    if !pteV e then []
    else if pteLeaf e then [⟨asid * 2 ^ 52 + at_ % 2 ^ 51 + 2, pteDT e, [table + 8 * k]⟩]
    else if s.nodeOk e then s.dirtyLeaves asid at_ (pteFrame e * 65536) else []

/-- The dirty leaves of an address space in ascending address. -/
def State.dirtyOf (s : State) (asid : Nat) : List DirtyLeaf :=
  let r := s.asRec asid
  if !s.tableOk r.top then []
  else ((List.range 512).flatMap fun k =>
    let e := s.pte (r.top + 8 * k)
    if pteV e && !pteLeaf e && s.nodeOk e then s.dirtyMiddle asid (k * 2 ^ 42) (pteFrame e * 65536) else []).filter DirtyLeaf.dirty

/-- The address-space records of a partition. -/
def State.spacesOf (s : State) (part : Nat) : List Nat :=
  (List.range 4096).filter fun n => (s.asRec n).valid && (s.asRec n).part == part

/-- DT cleared in a leaf's entries. -/
def State.clearDirty (s : State) (d : DirtyLeaf) : State :=
  d.at_.foldl (fun s pa => s.writePA pa 8 (s.pte pa &&& ~~~(0x4000 : DWord)).toNat false) s

/-- The report of a partition written to its region; a capacity of zero writes none (R401). -/
def State.dirtyReport (s : State) (part : Nat) : State :=
  let p := s.part part
  let cap := p.dirtyCap.toNat
  let base := p.dirtyBase.toNat
  if cap == 0 then s
  else
    let spaces := s.spacesOf part
    let found := spaces.flatMap s.dirtyOf
    let used := found.take cap
    let s1 := used.foldl State.clearDirty s
    let s2 := spaces.foldl (fun s a => s.invalidate a 0 0) s1
    let s3 := (used.mapIdx fun k d => (k, d.entry)).foldl (fun s e => s.hostWrite (base + 64 + 8 * e.1) 8 e.2) s2
    let s4 := ((s3.hostWrite base 8 0x52445A4F).hostWrite (base + 8) 8 (used.length + found.length % 2 ^ 32 * 2 ^ 32)).hostWrite (base + 16) 8
      (if cap < found.length then 1 else 0)
    s4.hostWrite (base + 24) 40 0

/-! ### The order of a stop (R267) -/

/-- Launches of a partition, or of one queue of it, enter SOFT. -/
def State.stopLaunches (s : State) (mine : Launch → Bool) : State :=
  (List.range s.launches.length).foldl (fun s k => match s.launch k with
    | some l => if mine l then s.softStop k else s
    | none => s) s

/-- Some launch is unfinished. -/
def State.anyLaunch (s : State) (mine : Launch → Bool) : Bool :=
  (List.range s.launches.length).any fun k => match s.launch k with | some l => l.live && mine l | none => false

/-- The ports on which a DRAIN to a package travels: its port and its bulk ports (R128). -/
def State.drainPorts (s : State) (dst : Nat) : List Nat :=
  let e := s.route dst
  if e.getLsbD 63 then ((e.toNat / 2 ^ 58 % 32) :: (List.range 18).filter fun k => e.getLsbD (40 + k)).eraseDups else []

/-- DRAIN for a partition sent to a package on every port that leads there. -/
def State.sendDrain (s : State) (part dst : Nat) : State :=
  (s.drainPorts dst).foldl (fun s port =>
    let t := s.freshTag
    let s1 := t.2.enqueue port 9 (mkFlit s 0 dst t.1 false (bytesOf 2 part))
    { s1 with remote := s1.remote ++ [⟨t.1, dst, part, false, .drain part⟩] }) s

/-- Step 2 of R267: outstanding counts are zero, and every package written to has been drained; none while it goes on. A DRAIN
to a package whose route is being changed is stalled (R125). -/
def State.drainStep (s : State) (part : Nat) : State × Bool :=
  if (s.remote.any fun r => r.part == part) || s.outgoing.any fun x => (s.asRec x.1).part == part then (s, false)
  else if (s.part part).wrote.isEmpty then (s, true)
  else
    let stays := (s.part part).wrote.filter s.routeStalled
    let s1 := ((s.part part).wrote.filter fun d => !s.routeStalled d).foldl (fun s d => s.sendDrain part d) s
    (s1.setPart part { s1.part part with wrote := stays }, false)

/-- A TDI's state. -/
def State.tdi (s : State) (vf : Nat) : TdiState := Tbl.get .unlocked s.boot.tdi vf
/-- A TDI's state replaced. -/
def State.setTdi (s : State) (vf : Nat) (st : TdiState) : State := { s with boot := { s.boot with tdi := Tbl.set .unlocked s.boot.tdi vf st } }

/-- The transitions that waited for the stop of a partition complete: its cores, and those lent from it, are scrubbed first (R405). -/
def State.finishTdi (s : State) (part : Nat) : State :=
  let vf := bitsOf (s.part part).cfg.toNat 55 8
  let s1 := ((List.range 256).filter (s.guaranteed part)).foldl State.scrub s
  (s1.boot.tdiNext.filter fun x => x.1 == vf).foldl (fun s x =>
    let s1 := s.setTdi x.1 x.2
    { s1 with boot := { s1.boot with tdiNext := s1.boot.tdiNext.filter fun y => y != x } }) s1

/-- A tenant stop begins, where none is under way (R267 step 1, R405). -/
def State.beginStop (s : State) (part : Nat) : State :=
  if (s.part part).stopping then s
  else (s.setPart part { s.part part with stopping := true }).stopLaunches fun l => l.part == part

/-- A stopped partition has no team on its cores, nor any on those lent from it, which a security transition waits for (R405). -/
def State.coresClear (s : State) (part : Nat) : Bool :=
  !(s.boot.tdiNext.any fun x => x.1 == bitsOf (s.part part).cfg.toNat 55 8) ||
    (s.lentOut part == 0 && ((List.range 256).filter (s.guaranteed part)).all fun c => (s.teamsOn c).isEmpty)

/-- TENANT_STOP (R267, R405): begins the stop, or takes it one step on: the ladder, the drain, the dirty-page report, the status word, the message. -/
def execTenantStop (part : Nat) (s : State) : Host.Outcome State Fault Refusal :=
  .next (
    if 16 ≤ part then s
    else if !(s.part part).stopping then s.beginStop part
    else if s.anyLaunch fun l => l.part == part then s
    else
      let r := s.drainStep part
      if !r.2 || !r.1.coresClear part then r.1
      else
        let s1 := r.1.dirtyReport part
        let s2 := s1.hostWrite (s1.part part).stopStatus.toNat 8 1
        (({ s2 with msix := s2.msix ++ [0] }).setPart part { s2.part part with stopping := false, stopped := true }).finishTdi part)

/-- QUEUE_RESET (R267, R319, R323): begins the reset, or takes it one step on; the launches of the queue and their children stop. -/
def execQueueReset (q : Nat) (s : State) : Host.Outcome State Fault Refusal :=
  .next (
    if 4096 ≤ q then s
    else if !s.qFlag q 2 then
      let s1 := ((s.setQFlag q 2 true).setQFlag q 3 false).stopLaunches fun l => l.queue == q
      { s1 with resetting := s1.resetting ++ [q] }
    else if s.anyLaunch fun l => l.queue == q then s
    else
      let r := s.drainStep (s.qPart q)
      if !r.2 then r.1
      else
        let s1 := r.1.setQword q 4 (bitsOf (r.1.qword q 4) 0 2 + 8)
        let s2 := match s1.slotOfQueue q with
          | some k => s1.setQslot k { s1.qslot k with upto := s1.qword q 3, idleSince := s1.cycle }
          | none => s1
        { s2 with msix := s2.msix ++ [0], resetting := s2.resetting.filter fun r => r != q })

end Sys2Proof.Machine
end

