-- ==== Sys2Proof/Machine/Sheaf.lean ====
section
/-! DEFINITION. The Sheaf's events of translation (R52, R53, R56, R60 to R66, R425): walks, demand faults, the fault ring of the host driver (R426),
replays of the operand log, migration, invalidation; and the events of time (R10, R301) and of the patrol (R139). -/

namespace Sys2Proof.Machine

/-! ### Walks and invalidation -/

/-- PAGE_WALK (R52, R56): a walk as a walker makes it ahead of an access, here for core 0 (log entry 24); the walks that an access makes, and those of the hub for a node's tile
operands (R312), are part of the access and of the dispatch. -/
def execPageWalk (asid va : Nat) (write : Bool) (s : State) : Host.Outcome State Fault Refusal :=
  .next (if 2 ^ 51 ≤ va then s else (s.walkFill 0 asid va write).2)

/-- INVCMD (R399): a write while BUSY is discarded and sets OVR, else it starts the invalidation of the range that INVADDR then names; a 1 written to OVR clears it. -/
def execInvcmd (val : DWord) (s : State) : Host.Outcome State Fault Refusal :=
  let c := s.regs.invcmd
  let new : DWord := if c.getLsbD 63 then c ||| 0x4000000000000000
    else (val &&& 0x00000FFFFFFFFFFF) ||| 0x8000000000000000 ||| (if val.getLsbD 62 then 0 else c &&& 0x4000000000000000)
  .next { s with regs := { s.regs with invcmd := new, invnow := if c.getLsbD 63 then s.regs.invnow else s.regs.invaddr } }

/-- INVALIDATION_COMPLETE (R53): no old translation is held and no access through one is under way; BUSY clears. -/
def execInvalidationComplete (s : State) : Host.Outcome State Fault Refusal :=
  let c := s.regs.invcmd
  let asid := bitsOf c.toNat 32 12
  .next (
    if !c.getLsbD 63 || s.accessesOpen asid then s
    else
      let s1 := s.invalidate asid (bitsOf s.regs.invnow.toNat 16 35) (bitsOf c.toNat 0 32)
      { s1 with regs := { s1.regs with invcmd := c &&& 0x7FFFFFFFFFFFFFFF } })

/-! ### Faults that cannot be resolved (R64, R102, R314) -/

/-- The entry is of an HSTORE. -/
def LogEntry.isHstore (e : LogEntry) : Bool := match e.instr with | .hstore .. => true | _ => false

/-- A fault of R64 for entry k of a group's operand log: the trap is deferred, the entry and every later one are discarded, and the group
is woken for it. Where an earlier declaration is still to be delivered, the spec does not say which trap the group takes: the model lets the later one, whose entry is
the older, replace it (DESIGN CHOICE, log entry 49). -/
def Group.logTrap (g : Group) (k : Nat) (cause : BitVec 8) (info : Nat) : Group :=
  match g.log[k]? with
  | none => g
  | some e =>
    let g1 := { g with deferred := some ⟨cause, BitVec.ofNat 64 info, e.pc, true⟩, log := g.log.take k, asleep := none }
    if (g.log.drop k).any LogEntry.isHstore then g1.setHusk fun h => { h with commit := none } else g1

/-- A path waits for a page. -/
def Path.waitsOn (p : Path) (page : Nat) : Option Nat :=
  match p.wait with
  | some (.page va) => if va / 65536 == page then some va else none
  | _ => none

/-- The waits of a group for a page are over. -/
def Group.clearWaits (g : Group) (page : Nat) : Group :=
  let f := fun (p : Path) => if (p.waitsOn page).isSome then { p with wait := none } else p
  { g with slotA := g.slotA.map f, slotB := g.slotB.map f }

/-- The address on a page that an entry of the log faulted at. -/
def LogEntry.vaOn (e : LogEntry) (page : Nat) (path : Option Path) : Nat :=
  match e.lanes.find? fun a => a.ea / 65536 == page with
  | some a => a.ea
  | none => ((path.bind fun p => p.waitsOn page)).getD (page * 65536)

/-- A page of a group's accesses is unresolvable: the oldest log entry that needs it gives the deferred trap, else the path that waits for it. -/
def Group.pageFatal (g : Group) (page : Nat) : Group :=
  match g.log.findIdx? fun e => e.pages.contains page with
  | some k =>
    (match g.log[k]? with
    | some e => ((g.logTrap k Cause.pageFatal (e.vaOn page (g.slot e.slot))).clearWaits page)
    | none => g)
  | none =>
    let trap := fun (p : Path) (va : Nat) =>
      ({ g with deferred := some ⟨Cause.pageFatal, BitVec.ofNat 64 va, p.pc, true⟩, asleep := none }).clearWaits page
    match g.slotA, g.slotB with
    | some p, q =>
      (match p.waitsOn page, q with
      | some va, _ => trap p va
      | none, some q => (match q.waitsOn page with | some va => trap q va | none => g)
      | none, none => g)
    | none, some q => (match q.waitsOn page with | some va => trap q va | none => g)
    | none, none => g

/-- Matrix work that waits for the page fails with PAGE (R236). -/
def Group.mxPageFatal (g : Group) (page : Nat) : Group :=
  match g.mx.findIdx? fun w => (w.waitPage.map fun va => va / 65536) == some page with
  | some k =>
    (match g.mx[k]? with
    | some w =>
      let t := match w.instr with | .accst _ _ t .. | .accld _ _ t .. => tileNum t | _ => 0
      g.mxFail k w 7 t
    | none => g)
  | none => g

/-- A refusal that waits for its status word's page: it cannot be written. -/
def State.refusalFatal (s : State) (asid page img reason : Nat) : Option State :=
  match s.refuse asid img reason with
  | .wait w _ => if w.onPage page then some (s.refuseNow asid img reason) else none
  | _ => none

/-- What becomes of the validation of an image that needs a page declared unresolvable: it is refused with ACCESS (R314), and its status word may be what cannot be written (R316). -/
def State.imageFatal (s : State) (asid page launch img : Nat) (parent : Option Nat) : Option (State × Trap) :=
  match s.readImage asid launch img parent with
  | .wait w _ => if w.onPage page then some (s.refuseNow asid img 10, refusal 10) else none
  | .trap e _ => (s.refusalFatal asid page img e.info).map fun s1 => (s1, e)
  | .ok _ _ => none

/-- A launch submitted by a group asleep in LAUNCH whose image needs the page is refused (R314). -/
def State.launchFatal (s : State) (asid page n : Nat) (g : Group) : State :=
  match g.asleep, s.teamOf g with
  | some (.launch slot img _), some t =>
    (match s.imageFatal asid page s.launches.length img.toNat (some t.launch) with
    | some x => x.1.hubDone.wakeTrap n slot x.2
    | none => s)
  | _, _ => s

/-- A queue whose next packet, or its signal, needs the page stops with err 1; an image is refused (R314, R322). -/
def State.queueFatal (s : State) (asid page slot : Nat) : State :=
  match (s.qslot slot).queue with
  | none => s
  | some q =>
    if !s.queueOpen slot q || s.qAsid q != asid then s
    else match s.packetWords q with
      | .wait w _ => if w.onPage page then s.hubDone.queueStop q 1 else s
      | .trap _ _ => s
      | .ok w _ =>
        let p : Packet := ⟨slot, q, asid, s.qPart q, w⟩
        if p.type == 1 then
          (match s.imageFatal asid page s.launches.length (p.word 1) none with
          | some x => x.1.acceptPacket p
          | none => s)
        else if (p.type == 2 || p.type == 3) && p.word 1 / 65536 == page then s.queueStop q 1 else s

/-- A launch that is telling its completion needs the page (R316): a record that cannot be written leaves it faulted, a status word or a signal is lost, and the rest follows. -/
def State.completeFatal (s : State) (asid page k : Nat) : State :=
  match s.launch k with
  | none => s
  | some l =>
    let on := fun (va n : Nat) => va != 0 && decide (va / 65536 ≤ page) && decide (page ≤ (va + n - 1) / 65536)
    if !l.live || l.asid != asid || !l.finished then s
    else if l.told == 0 then
      (if on l.hdr.record 768 then s.told k { l with faulted := match l.faulted with | some f => some f | none => some (0, 10) } 1 else s)
    else if l.told == 1 then (if on l.hdr.status 8 then (s.sheafNote 4 l.hdr.status).told k l 2 else s)
    else if l.told == 2 && on l.hdr.signal 8 then { (s.sheafNote 5 l.hdr.signal).told k l 3 with msix := s.msix ++ l.msix.toList }
    else s

/-- The faults of an address space on a page are declared unresolvable (R64, R102, R236, R314). -/
def State.unresolvable (s : State) (asid page : Nat) : State :=
  let s1 := { s with faults := s.faults.filter fun f => !(f.asid == asid && f.page == page) }
  let s2 := s1.resident.foldl (fun s e =>
    if s.asidOf e.2 == asid then
      (match s.group e.1 with
      | some g => (s.setGroup e.1 ((g.pageFatal page).mxPageFatal page)).launchFatal asid page e.1 g
      | none => s)
    else s) s1
  let hit := s2.copies.filter fun c => (c.waitPage.map fun va => va / 65536) == some page &&
    ((s2.group c.group).map fun g => s2.asidOf g == asid).getD false
  let s3 := hit.foldl (fun s c => s.copyFail c 10) s2
  let s4 := (List.range 64).foldl (fun s k => s.queueFatal asid page k) s3
  (List.range s4.launches.length).foldl (fun s k => s.completeFatal asid page k) s4

/-! ### The fault ring (R426) -/

/-- The kind of a record. -/
def AccKind.code : AccKind → Nat
  | .load => 0
  | .store => 1
  | .atomic => 2
  | .fetch => 3
  | .copyRead => 4
  | .copyWrite => 5

/-- The partition of a fault. -/
def State.faultPart (s : State) (f : PageFault) : Nat := (s.asRec f.asid).part
/-- The ring is enabled, and its capacity. -/
def Part.ringOn (p : Part) : Bool := p.fltcfg.getLsbD 63
def Part.ringCap (p : Part) : Nat := bitsOf p.fltcfg.toNat 0 16
/-- The ring has room for the next record. -/
def Part.ringRoom (p : Part) : Bool := p.ringOn && p.fltNext - p.fltcons.toNat < p.ringCap && p.fltcons.toNat ≤ p.fltNext

/-- One record written, word 1 last, and its vector sent. -/
def State.ringWrite (s : State) (part : Nat) (f : PageFault) : State :=
  let p := s.part part
  let at_ := bitsOf p.fltbase.toNat 6 48 * 64 + 32 * (p.fltNext % Nat.max 1 p.ringCap)
  let s1 := ((s.hostWrite at_ 8 (f.asid * 2 ^ 52 + f.page % 2 ^ 35 * 65536 + f.kind.code)).hostWrite (at_ + 16) 16 0).hostWrite (at_ + 8) 8 (p.fltNext + 1)
  ({ s1 with msix := s1.msix ++ [bitsOf p.fltcfg.toNat 16 11] }).setPart part { p with fltNext := p.fltNext + 1 }

/-- Where a fault stands replaced. -/
def State.faultTo (s : State) (f : PageFault) (w : FaultAt) : State :=
  { s with faults := s.faults.map fun x => if x.asid == f.asid && x.page == f.page then { x with at_ := w } else x }

/-- A fault passed to the driver: recorded where the ring has room, else it waits in the Sheaf; without a ring it is unresolvable (R425 rules
3 and 4). -/
def State.passFault (s : State) (f : PageFault) : State :=
  let part := s.faultPart f
  let p := s.part part
  if !p.ringOn then s.unresolvable f.asid f.page
  else if p.ringRoom then (s.ringWrite part f).faultTo f .driver
  else s.faultTo f .ringWait

/-- Faults of a partition that wait for room are recorded while there is some. -/
def State.drainRing (s : State) (part : Nat) : State :=
  (s.faults.filter fun f => f.at_ == .ringWait && s.faultPart f == part).foldl (fun s f =>
    if (s.part part).ringRoom then (s.ringWrite part f).faultTo f .driver else s) s

/-! ### Demand faults (R425) -/

/-- A fault is resolved: what waits on its page goes on. -/
def State.resolved (s : State) (f : PageFault) : State :=
  { s with faults := s.faults.filter fun x => !(x.asid == f.asid && x.page == f.page) }

/-- Bytes of a frame copied to another, with their poison; no L1 holds what stood there before. -/
def State.copyFrame (s : State) (src dst : Nat) : State := (s.putBlob (dst * 65536) 65536 (s.blobAt (src * 65536) 65536)).l1Forget (dst * 65536) 65536
/-- A frame of zeros. -/
def State.zeroFrame (s : State) (dst : Nat) : State := (s.putBlob (dst * 65536) 65536 ⟨[], []⟩).l1Forget (dst * 65536) 65536

/-- A frame of stacked DRAM. -/
def frameNear (f : Nat) : Bool := decide (paLocal (f * 65536) < Config.dramBytes)

/-- The frames that the valid tables of an address space name: tables, leaves and demand entries, each with how many frames it spans. -/
def State.framesNamed (s : State) (asid : Nat) : List (Nat × Nat) :=
  let top := (s.asRec asid).top
  let entries := fun (pa n : Nat) => (List.range n).map fun k => s.pte (pa + 8 * k)
  (top / 65536, 1) :: (entries top 512).flatMap fun e1 =>
    if !pteV e1 then []
    else (pteFrame e1, 1) :: (entries (pteFrame e1 * 65536) 8192).flatMap fun e2 =>
      if !pteV e2 then []
      else if pteLeaf e2 then [(pteFrame e2, if pteTW e2 then 8193 else 8192)]
      else (pteFrame e2, 1) :: (entries (pteFrame e2 * 65536) 8192).filterMap fun e3 =>
        if pteLeaf e3 && (pteV e3 || pteFrame e3 != 0) then some (pteFrame e3, if pteTW e3 then 2 else 1) else none

/-- Something uses a frame: the tables of an address space, the tables of records, the control blocks of queues, a page that
moves there, or the free frames of another partition. -/
def State.frameUsed (s : State) (part f : Nat) : Bool :=
  let at_ := f * 65536
  rangesMeet at_ (at_ + 65536) (s.regs.astbase.toNat / 4096 * 4096 % 2 ^ 54) (s.regs.astbase.toNat / 4096 * 4096 % 2 ^ 54 + 65536) ||
    rangesMeet at_ (at_ + 65536) s.qcbBase (s.qcbBase + 256 * 4096) ||
    (s.migrating.any fun m => decide (m.2.2 ≤ f) && decide (f < m.2.2 + 8193)) ||
    ((List.range s.parts.length).any fun p => p != part && (s.part p).freeFrames.contains f) ||
    (List.range 4096).any fun n => (s.asRec n).valid && (s.framesNamed n).any fun r => decide (r.1 ≤ f) && decide (f < r.1 + r.2)

/-- A frame is free for a partition: one that it has given back, or one that nothing uses (log entry 48); of this package, with memory behind it. -/
def State.frameFree (s : State) (part f : Nat) : Bool :=
  s.isLocal (f * 65536) && s.backed (paLocal (f * 65536)) && ((s.part part).freeFrames.contains f || !s.frameUsed part f)

/-- n frames from f on are free, and aligned as their leaf needs: a twin page's to 2, a 512 MiB page's to 8,192 (R50, R55). -/
def State.framesFree (s : State) (part f n : Nat) : Bool := f % Nat.min n 8192 == 0 && (List.range n).all fun k => s.frameFree part (f + k)

/-- The frame that a tier field hints at: 1 stacked DRAM, 2 the CXL tier, otherwise either (R49). -/
def tierTakes (tier f : Nat) : Bool := if tier == 1 then frameNear f else if tier == 2 then !frameNear f else true

/-- The first place of n free frames of a tier, looked for from a frame of the package on. -/
def State.findFrames (s : State) (part tier n : Nat) : Nat → Nat → Option Nat
  | 0, _ => none
  | k + 1, at_ =>
    let f := s.pkgId.toNat * 2 ^ 29 + at_ % 2 ^ 29
    if tierTakes tier f && s.framesFree part f n then some f else s.findFrames part tier n k (at_ + 1)

/-- The frames that the Sheaf chooses among for a demand page of n frames: those of the partition in the hinted tier; else one that nothing uses there; else
those of the other tier (R425 rules 1 and 3, log entry 48). None where no frame of the package is free. -/
def State.framesFor (s : State) (part tier n : Nat) : List Nat :=
  let own := (s.part part).freeFrames.filter fun f => f % n == 0 && s.isLocal (f * 65536) && s.backed (paLocal (f * 65536)) &&
    (List.range n).all fun k => (s.part part).freeFrames.contains (f + k)
  let hinted := own.filter (tierTakes tier)
  let from_ := Config.grantedFrame s.ticks
  if !hinted.isEmpty then hinted
  else match s.findFrames part tier n (2 ^ 29) from_ with
    | some f => [f]
    | none => if own.isEmpty then (s.findFrames part 0 n (2 ^ 29) from_).toList else own

/-- n frames taken from the free ones. -/
def State.takeFrames (s : State) (part f n : Nat) : State :=
  let p := s.part part
  s.setPart part { p with freeFrames := p.freeFrames.filter fun x => !(decide (f ≤ x) && decide (x < f + n)) }

/-- A demand page filled in a frame, and its entry made a valid leaf (R425 rule 1). -/
def State.demandFill (s : State) (pe : Nat) (e : DWord) (f : Nat) : State :=
  let src := pteFrame e
  let fill := fun (s : State) d => if src == 0 then s.zeroFrame d else s.copyFrame src d
  let s1 := fill s f
  let s2 := if pteTW e then fill s1 (f + 1) else s1
  s2.writePA pe 8 (f % 2 ^ 38 * 65536 + e.toNat / 4 % 2 ^ 14 * 4 - (e.toNat / 2 ^ 13 % 4) * 2 ^ 13 + 3) false

/-- A demand entry that cannot be served (R425 rule 2). -/
def State.demandBad (s : State) (e : DWord) : Bool :=
  e.toNat / 2 ^ 54 != 0 || (pteFrame e != 0 && !s.tableOk (pteFrame e * 65536))

/-- DEMAND_FAULT (R425): fault n of the Sheaf is resolved from the tables, passed to the driver or declared unresolvable, as a malformed entry is
without any other action (R50); `pick` chooses among the frames that are free. -/
def execDemandFault (n pick : Nat) (s : State) : Host.Outcome State Fault Refusal :=
  .next (match s.faults[n]? with
    | none => s
    | some f =>
      if f.at_ != .posted then s
      else if f.malformed then s.unresolvable f.asid f.page
      else match s.walk f.asid (f.page * 65536) with
        | .leaf _ _ _ => s.resolved f
        | .malformed => s.unresolvable f.asid f.page
        | .fault pe e level =>
          if level != 3 || !pteLeaf e then s.passFault f
          else if s.demandBad e then s.unresolvable f.asid f.page
          else
            let part := s.faultPart f
            let n := if pteTW e then 2 else 1
            let l := s.framesFor part (pteTier e) n
            match l[pick % Nat.max 1 l.length]? with
            | none => s.passFault f
            | some fr => ((s.demandFill pe e fr).takeFrames part fr n).resolved f)

/-! ### The driver's registers of the ring (R426) -/

/-- The fault of an answer: with the driver, of the partition and page named. -/
def State.answered (s : State) (part : Nat) (val : DWord) : Option PageFault :=
  s.faults.find? fun f => f.at_ == .driver && f.asid == bitsOf val.toNat 52 12 && f.page == bitsOf val.toNat 16 35 && s.faultPart f == part

/-- FLTRESP with action 1 (R63, R426). -/
def execFltrespReplay (part : Nat) (val : DWord) (s : State) : Host.Outcome State Fault Refusal :=
  .next (match s.answered part val with
    | some f => if bitsOf val.toNat 0 2 == 1 then s.resolved f else s
    | none => s)

/-- FLTRESP with action 2 (R64, R102, R426). -/
def execFltrespUnresolvable (part : Nat) (val : DWord) (s : State) : Host.Outcome State Fault Refusal :=
  .next (match s.answered part val with
    | some f => if bitsOf val.toNat 0 2 == 2 then s.unresolvable f.asid f.page else s
    | none => s)

/-- FLTCFG (R426): cap changes only while EN is clear; setting EN numbers records from 0; clearing EN declares waiting faults unresolvable. -/
def execFltcfg (part : Nat) (val : DWord) (s : State) : Host.Outcome State Fault Refusal :=
  let p := s.part part
  let cap : DWord := if p.ringOn then p.fltcfg &&& 0xFFFF else val &&& 0xFFFF
  let new := (val &&& 0x8000000007FF0000) ||| cap
  let s1 := s.setPart part { p with fltcfg := new, fltNext := if !p.ringOn && val.getLsbD 63 then 0 else p.fltNext }
  .next (
    if 16 ≤ part then s
    else if p.ringOn && !val.getLsbD 63 then
      (s1.faults.filter fun f => f.at_ != .posted && s1.faultPart f == part).foldl (fun s f => s.unresolvable f.asid f.page) s1
    else s1)

/-- FLTCONS (R426). -/
def execFltcons (part : Nat) (val : DWord) (s : State) : Host.Outcome State Fault Refusal :=
  .next (if 16 ≤ part then s else (s.setPart part { s.part part with fltcons := val }).drainRing part)

/-- FLTBASE (R426): discarded while EN is set. -/
def execFltbase (part : Nat) (val : DWord) (s : State) : Host.Outcome State Fault Refusal :=
  .next (if 16 ≤ part || (s.part part).ringOn then s else s.setPart part { s.part part with fltbase := val &&& 0x003FFFFFFFFFFFC0 })

/-! ### Replay of the operand log (R63, R64) -/

/-- Some page of an entry still waits for the Sheaf. -/
def State.entryWaits (s : State) (asid : Nat) (e : LogEntry) : Bool :=
  s.faults.any fun f => f.asid == asid && e.pages.contains f.page

/-- The oldest entry of a group's log is gone. -/
def Group.popLog (g : Group) : Group := { g with log := g.log.drop 1 }
/-- The pages of the oldest entry replaced. -/
def Group.logPages (g : Group) (pages : List Nat) : Group := { g with log := g.log.modify 0 fun e => { e with pages := pages } }

/-- What a replay still waits for: pages; or values of other packages, which are asked for, an unreachable one being a fault of R64 (R124). -/
def State.replayPend (s : State) (n : Nat) (g : Group) (w : Pending) : State :=
  match w with
  | .page _ pages => s.setGroup n (g.logPages pages)
  | .remote _ accs =>
    (match accs.find? fun a => (s.routePort (paPkg a.2)).isNone with
    | some a => s.setGroup n (g.logTrap 0 Cause.pageFatal a.1.ea)
    | none => (s.setGroup n (g.logPages [])).pendFor n w)
  | _ => s.setGroup n (g.logPages [])

/-- A replay whose instruction waited for a regeneration: the register is materialized, or the trap is left to the instruction, which issues
again (R161). -/
def State.replayRegen (s : State) (n : Nat) (g : Group) (r : BitVec 6) : State :=
  match s.materialize g r.toNat with
  | .ok s1 g1 => (s1.setGroup n g1.popLog).fitAreas n g.inRows
  | .trap _ s1 => s1.setGroup n g.popLog
  | .wait s1 w _ => s1.replayPend n g w

/-- A register instruction of the log performed (R37, R161). -/
def State.replayEff (s : State) (n : Nat) (g : Group) (e : LogEntry) (r : BitVec 6) : State :=
  match s.performEff n e r with
  | .ok s1 _ =>
    (match s1.group n with
    | some g1 => (s1.setGroup n g1.popLog).fitAreas n g.inRows
    | none => s1)
  | .trap t s1 => s1.setGroup n (g.logTrap 0 t.cause t.info)
  | .wait s1 w _ => s1.replayPend n g w

/-- A replayed HSTORE: the commit request leaves with the data's address; in another package the lane issues it again and traps (R359). -/
def State.replayHstore (s : State) (n : Nat) (g : Group) (e : LogEntry) (bytes : Nat) (at_ : List (LaneAcc × Nat)) : State :=
  match g.husk, at_ with
  | some h, (a, pa) :: _ =>
    if !s.isLocal pa then
      s.setGroup n ((g.popLog.setHusk fun h => { h with commit := none }).setLanePc h.lane e.pc)
    else
      let c := match h.commit with
        | some c => { c with pa := some pa }
        | none => h.request g bytes a.data.toNat (e.pc + 4) (some pa)
      (s.setGroup n (g.popLog.setHusk fun h => { h with commit := some c })).endSafe g
  | _, _ => s.setGroup n g.popLog

/-- A replayed access performs as it would have at first issue: its destinations are made ready, and written for the lanes of the entry. One to a package that cannot be
reached is a fault of R64 (R124). -/
def State.replayAccess (s : State) (n : Nat) (g : Group) (e : LogEntry) (o : MemOp) (at_ : List (LaneAcc × Nat)) : State :=
  let full := (e.mask &&& g.all) == g.all
  match at_.find? fun a => !s.isLocal a.2 && (s.routePort (paPkg a.2)).isNone with
  | some a => s.setGroup n (g.logTrap 0 Cause.pageFatal a.1.ea)
  | none =>
  match s.prepareWrite g (writes e.instr) e.mask (e.instr.hdr.u && full && g.exited == 0) with
  | .trap t s1 => s1.setGroup n (g.logTrap 0 t.cause t.info)
  | .wait s1 w _ => s1.replayPend n g w
  | .ok s1 g1 =>
    let away := at_.any fun a => !s1.isLocal a.2
    let r := (s1.setGroup n g1.popLog).perform n e.instr e.pc e.mask e.acq e.seq o at_
    let s2 := if endsSafe o away then r.1.endSafe g1 else r.1
    if away then s2
    else match s2.writeRegs n e.mask full (Sys2Proof.Machine.deliver e.instr g1.w r.2.1) with
      | .ok s3 _ => s3.fitAreas n g.inRows
      | .trap _ s3 => s3
      | .wait s3 _ _ => s3

/-- The access of the oldest entry replayed, its pages looked up again (R63); a store waits while earlier ones of the group are under way to other packages, and any
access while a route that it takes is being changed (R125, R127). -/
def State.replayEntry (s : State) (n : Nat) (g : Group) (e : LogEntry) : State :=
  match memOpOf e.instr with
  | none => s.setGroup n g.popLog
  | some o =>
    if !o.isLoad && g.remoteWrites then s
    else match s.resolve (s.coreOf g) (s.asidOf g) o.need e.lanes with
      | .refused ea s1 => s1.setGroup n (g.logTrap 0 Cause.addrPerm ea)
      | .poison l s1 => s1.setGroup n (g.logTrap 0 Cause.poison l)
      | .wait s1 pages => s1.setGroup n (g.logPages pages)
      | .ok s1 at_ =>
        if s1.stalled at_ then s
        else match e.instr with
          | .hstore .. => s1.replayHstore n g e o.bytes at_
          | _ => s1.replayAccess n g e o at_

/-- A replay has let the group wait: its plain loads take nothing from the L1 that was read before (R136, R257, R258). -/
def State.afresh (s : State) (n : Nat) : State :=
  match s.group n with
  | some g => s.setGroup n { g with l1Since := s.ticks }
  | none => s

/-- OPERAND_LOG_REPLAY (R63): the oldest entry of a group's log, once no page of it waits for the Sheaf. -/
def execOperandLogReplay (n : Nat) (s : State) : Host.Outcome State Fault Refusal :=
  .next (match s.group n with
    | none => s
    | some g =>
      match g.log with
      | [] => s
      | e :: _ =>
        if s.entryWaits (s.asidOf g) e then s
        else match e.kind with
          | .regen r => s.replayRegen n g r
          | .perform r => s.replayEff n g e r
          | .again => s.setGroup n g.popLog
          | .access => (s.replayEntry n g e).afresh n)

/-! ### Migration (R66) -/

/-- A page lies in the region of a PUBLISH that waits. -/
def State.publishing (s : State) (asid page : Nat) : Bool :=
  s.resident.any fun e => match e.2.asleep with
    | some (.publish _ base len) => s.asidOf e.2 == asid && decide (base / 65536 ≤ page) && decide (page < (base + len) / 65536)
    | _ => false

/-- A physical address of one frame as it lies in another. -/
def rehome (src dst pa : Nat) : Nat := if pa / 65536 == src then dst * 65536 + pa % 65536 else pa

/-- What the package keeps by physical address follows a page that moves: the lock blocks known to the husk units and the data of commits. -/
def State.follow (s : State) (src dst : Nat) : State :=
  let s1 := { s with huskLocks := s.huskLocks.map (rehome src dst) }
  s1.resident.foldl (fun s e => s.setGroup e.1 (e.2.setHusk fun h =>
    { h with commit := h.commit.map fun c => { c with pa := c.pa.map (rehome src dst) } })) s1

/-- The frames that a leaf spans; a twin's second frame follows its first (R55). -/
def leafFrames (e : DWord) (big : Bool) : Nat := (if big then 8192 else 1) + (if pteTW e then 1 else 0)

/-- The leaf of a page that has moved (R66 step 4, R425): with the new frame and FZ clear. A 64 KiB page that has left stacked DRAM for the CXL tier against its hint is left as
a demand entry, so that it comes back on first touch. -/
def movedLeaf (e : DWord) (big : Bool) (frame : Nat) : Nat :=
  let bits := e.toNat % 65536 - (if pteFZ e then 4096 else 0)
  let out := !big && !pteTW e && frameNear (pteFrame e) && !frameNear frame && pteTier e != 2
  frame % 2 ^ 38 * 65536 + (if out then bits - (if pteV e then 1 else 0) - bits / 2 ^ 13 % 4 * 2 ^ 13 else bits)

/-- A frozen page that nothing accesses any more moves to its new frames, and its old ones are free (R66 steps 3 to 5): log entries that wait for it replay. -/
def State.moveLeaf (s : State) (asid va pe : Nat) (e : DWord) (big : Bool) (frame : Nat) : State :=
  let part := (s.asRec asid).part
  let src := pteFrame e
  let n := leafFrames e big
  let s1 := (List.range n).foldl (fun s k => (s.copyFrame (src + k) (frame + k)).follow (src + k) (frame + k)) s
  let s2 := s1.writePA pe 8 (movedLeaf e big frame) false
  let p := s2.part part
  (s2.setPart part { p with freeFrames := (List.range n).map (src + ·) ++ p.freeFrames }).invalidate asid (va / 65536) (if big then 8192 else 1)

/-- MIGRATION (R66): a page is frozen, and what a TLB holds of it dropped; once no access through the old translation is under way it moves to the frames chosen. Pinned
pages and pages under an active PUBLISH stay. -/
def execMigration (asid va frame : Nat) (s : State) : Host.Outcome State Fault Refusal :=
  .next (match s.walk asid va, s.migrating.find? fun m => m.1 == asid && m.2.1 == va with
    | .leaf pe e big, some m =>
      if s.accessesOpen asid then s else { s.moveLeaf asid va pe e big m.2.2 with migrating := s.migrating.filter fun x => x != m }
    | .leaf pe e big, none =>
      if pteFZ e || pteTier e == 3 || s.publishing asid (va / 65536) || !s.isLocal (pteFrame e * 65536) ||
          !s.framesFree (s.asRec asid).part frame (leafFrames e big) then s
      else { ((s.takeFrames (s.asRec asid).part frame (leafFrames e big)).writePA pe 8 (e.toNat + 4096) false).invalidate asid (va / 65536) (if big then 8192 else 1) with
        migrating := s.migrating ++ [(asid, va, frame)] }
    | _, some m => { s with migrating := s.migrating.filter fun x => x != m }
    | _, none => s)

/-! ### Time (R10, R301) and the patrol (R139, R141) -/

/-- SLEEP_EXPIRY (R301): WAIT.SLEEP of a path ends at its cycle. -/
def execSleepExpiry (n : Nat) (slotB : Bool) (s : State) : Host.Outcome State Fault Refusal :=
  .next (match s.group n with
    | none => s
    | some g =>
      let k : SlotId := if slotB then .b else .a
      match g.slot k with
      | none => s
      | some p =>
        (match p.wait with
        | some (.sleep t) => if t ≤ s.cycle then s.setGroup n (g.setSlot k (some { p with pc := p.pc + 4, wait := none })) else s
        | _ => s))

/-- A group in FENCE.SC goes on. -/
def State.fenceTick (s : State) (n : Nat) (g : Group) : State :=
  match g.asleep with
  | some (.fenceSC slot) => s.wake n slot 1
  | _ => s

/-- HEARTBEAT_TICK (R10, R88): the counter reaches the next multiple of 1,024 cycles, and each FENCE.SC that waits takes its place in the order. -/
def execHeartbeatTick (s : State) : Host.Outcome State Fault Refusal :=
  let s1 := { s with cycle := (s.heartbeats + 1) * Config.heartbeatCycles, heartbeats := s.heartbeats + 1 }
  .next (s1.resident.foldl (fun s e => s.fenceTick e.1 e.2) s1)

/-- Structures that the patrol sweeps, by their place in `corrected`: the L2, B-SRAM. -/
def patrolOf (word : Nat) : Nat := if word < 2 ^ 42 then 0 else 1

/-- A single error corrected: the structure's count goes up, and the Sheaf reports it to the host driver (R139). -/
def State.corrects (s : State) (k : Nat) : State :=
  { s with corrected := Tbl.set 0 s.corrected k (Tbl.get 0 s.corrected k + 1) }.sheafNote 7 k

/-- The mark of a B-SRAM word put into the reservation that holds it, if one does: word k of a core's 4 MiB lies at byte 8 × k, slice by slice (R232). -/
def Resv.markBSram (r : Resv) (k : Nat) : Resv :=
  let slice := 8 * k / 16384
  let o := 8 * k % 16384
  if r.start * 256 ≤ o && o < (r.start + r.size) * 256 then { r with poison := addNat r.poison ((slice * 16384 + o - r.start * 256) / 8) } else r

/-- An uncorrectable B-SRAM word of a core marks what lies in it. -/
def State.markBSram (s : State) (core k : Nat) : State :=
  s.resident.foldl (fun s e => if s.coreOf e.2 == core then s.setGroup e.1 { e.2 with b := e.2.b.map fun r => r.map fun x => x.markBSram k } else s) s

/-- PATROL_SCRUB (R139, R141): a word of the L2 (of memory, by number) or of B-SRAM (from 2^42 on, by core) that the patrol reads has so many bits in error: one is corrected and
counted for its structure, more poison the word. -/
def execPatrolScrub (word errors : Nat) (s : State) : Host.Outcome State Fault Refusal :=
  .next (
    if errors == 0 then s
    else if errors == 1 then s.corrects (patrolOf word)
    else if 2 ^ 42 ≤ word then s.markBSram ((word - 2 ^ 42) / 2 ^ 19) ((word - 2 ^ 42) % 2 ^ 19)
    else if s.backed (8 * word) then { s with memPoison := addNat s.memPoison word } else s)

/-! ### Errors of storage (R139, R141) -/

/-- A group with something of it marked or discarded. -/
def State.upsetGroup (s : State) (at_ : Nat) (f : Group → Group) : State :=
  match s.resident[at_ % Nat.max 1 s.resident.length]? with
  | some e => s.setGroup e.1 (f e.2)
  | none => s

/-- An uncorrectable register-file word: both lanes of it are marked, where the register stands in rows. -/
def Group.upsetReg (r i : Nat) (g : Group) : Group :=
  match (g.vreg r).hold with
  | .rows vals ps => g.setVreg r { g.vreg r with hold := .rows vals (ps ||| Mask.bit (i / 2 * 2) ||| Mask.bit (i / 2 * 2 + 1)) }
  | _ => g

/-- An uncorrectable entry of an accumulator tile. -/
def Tile.upset (t : Tile) (row col : Nat) : Tile :=
  { t with poison := Tbl.set 0 t.poison row (Tbl.get 0 t.poison row ||| BitVec.ofNat 256 (2 ^ (col % 256))) }

/-- A loop buffer discarded, to be filled anew. -/
def Path.unbuffered (p : Path) : Path := { p with loop := p.loop.map fun (l : LoopRec) => { l with buf := [] } }

/-- An item of a list discarded. -/
def discard {α : Type} (l : List α) (k : Nat) : List α := l.eraseIdx (k % Nat.max 1 l.length)

/-- An error strikes between two steps: of which kind, and where (R139, R141). Kind 1 is a single error, corrected and counted for a structure; the others are uncorrectable words:
of the register file, a predicate, local memory, an operand buffer, B-SRAM, a tile, the L2, and a line of DRAM or the CXL tier, each marked by its granule; copies, in an L1, an
instruction cache, a loop buffer or a TLB, which are discarded; and the control state of a core. Any other kind is no error. -/
def State.upset (s : State) (u : Nat × Nat × Nat) : State :=
  let a := u.2.1
  let b := u.2.2
  match u.1 with
  | 1 => s.corrects (a % 12)
  | 2 => s.upsetGroup a (Group.upsetReg (b % 64) (b / 64 % 64))
  | 3 => s.upsetGroup a fun g => { g with pPoison := Tbl.set 0 g.pPoison (b % 7) (Tbl.get 0 g.pPoison (b % 7) ||| Mask.bit (b / 7 % 64)) }
  | 4 => (match s.team a with
    | some t => if t.live && 8 * b < t.localSize then s.setTeam a { t with localPoison := addNat t.localPoison b } else s
    | none => s)
  | 5 => s.upsetGroup a fun g => { g with ob := g.ob.map fun r => r.map fun (x : Resv) => if 8 * b < x.size * 4096 then { x with poison := addNat x.poison b } else x }
  | 6 => s.markBSram (a % 256) (b % 2 ^ 19)
  | 7 => s.upsetGroup a fun g => { g with tiles := g.tiles.map fun t => t.map fun x => x.upset (b % 128) (b / 128) }
  | 8 => if s.backed (8 * b) then { s with memPoison := addNat s.memPoison b } else s
  | 9 => if s.backed (64 * b) then { s with memPoison := (List.range 8).foldl (fun l k => addNat l (8 * b + k)) s.memPoison } else s
  | 10 => { s with l1 := discard s.l1 b }
  | 11 => { s with icache := discard s.icache b }
  | 12 => s.upsetGroup a fun g => { g with slotA := g.slotA.map Path.unbuffered, slotB := g.slotB.map Path.unbuffered }
  | 13 => { s with tlb := discard s.tlb b }
  | 14 => s.coreError (a % 256) (if b == 0 then none else some (b - 1))
  | _ => s

end Sys2Proof.Machine
end

