-- ==== Sys2Proof/Machine/Fabric.lean ====
section
/-! DEFINITION. The fabric (R115 to R133): flits accepted or dropped, requests performed at their home in this package, answers delivered to their
origin, forwarding, replay, pacing and retraining, and the commands of FABCMD (R400). -/

namespace Sys2Proof

/-- A number from bytes of a payload. -/
def Flit.get (f : Flit) (at_ n : Nat) : Nat := Machine.ofBytes ((f.payload.drop at_).take n)
/-- Package ids and tag as numbers. -/
def Flit.to_ (f : Flit) : Nat := f.dst.toNat
def Flit.from_ (f : Flit) : Nat := f.src.toNat
def Flit.id (f : Flit) : Nat := f.tag.toNat
/-- An ATOMIC is one of REDs (log entry 12). -/
def Flit.isRed (f : Flit) : Bool := f.get 16 8 / Machine.redMark % 2 == 1

end Sys2Proof

namespace Sys2Proof.Machine

/-! ### Shapes (R117 to R119, R130) -/

/-- The class of a type (R119). -/
def typeClass (type : Nat) : Nat :=
  if type == 0 || type == 8 then 3 else if type == 4 || type == 5 || type == 6 || type == 10 then 1 else if type == 7 then 2 else 0

/-- An address word without reserved bits (R119). -/
def addrOk (w : Nat) : Bool := w / 2 ^ 59 == 0 && decide (w / 2 ^ 54 % 8 ≤ 4)

/-- The chunk that a BULK flit of a source and tag continues. -/
def State.openChunk (s : State) (f : Flit) : Option ChunkIn := s.chunks.find? fun c => c.src == f.from_ && c.tag == f.id

/-- A BULK flit's payload fits its descriptor or the chunk it continues (R130). -/
def State.bulkOk (s : State) (f : Flit) : Bool :=
  match s.openChunk f with
  | some c => f.payload.length == Nat.min 240 (c.stream - c.got.length)
  | none =>
    let n := f.get 10 2
    decide (16 ≤ f.payload.length) && f.payload.length == 16 + Nat.min 224 n && decide (1 ≤ f.get 8 2) && decide (f.get 8 2 ≤ 2048) &&
      f.get 0 8 / 2 ^ 54 == 0 && (n == 0 || (f.get 12 4 == 0 && (f.w || n == f.get 8 2)))

/-- Reserved fields, class, length and record count of a flit are as the table gives them (R119). The table does not say that a flit other than BULK with W set is
malformed: the model drops it (DESIGN CHOICE, log entry 68). -/
def State.flitOk (s : State) (type : Nat) (f : Flit) : Bool :=
  let n := f.payload.length
  let words := fun (size : Nat) => (List.range (n / size)).all fun k => addrOk (f.get (size * k) 8)
  f.rsv == 0 && f.cls.toNat == typeClass type && decide (n ≤ 240) && (!f.w || type == 7) &&
  match type with
  | 1 => n % 24 == 0 && n != 0 && words 24
  | 2 => n % 8 == 0 && n != 0 && words 8
  | 3 => n % 24 == 0 && n != 0 && words 24
  | 4 => n % 16 == 0 && n != 0
  | 5 => n % 8 == 0 && n != 0
  | 7 => s.bulkOk f
  | 9 | 10 => n == 2 && decide (f.get 0 2 < 16)
  | _ => n == 0

/-! ### Acceptance (R120, R121, R123) -/

/-- A dropped flit is answered with one NAK until the expected one is accepted (R121). -/
def Port.drop (p : Port) : Port := if p.nakSent then p else { p with nakDue := true }

/-- What the acknowledgement of an accepted flit confirms leaves the replay buffer (R120, R122). -/
def Port.acked (p : Port) (ack : Nat) : Port :=
  let head := (p.nextSeq + 65536 - p.replay.length % 65536) % 65536
  let n := (ack + 1 + 65536 - head) % 65536
  if n == 0 || p.replay.length < n then p
  else { p with replay := p.replay.drop n, resend := p.resend - n, replays := 0 }

/-- Everything from the oldest unacknowledged flit is sent again; where 8 replays have brought no advance of ack the port retrains instead (R121, R122). -/
def Port.replayAll (p : Port) : Port :=
  if p.replay.isEmpty then p
  else { p with resend := 0, replays := p.replays + 1, retraining := p.retraining || decide (8 ≤ p.replays) }

/-- The rate that a receive buffer's fill sets: 0 below one half, 1 up to three quarters, 2 above, 3 without room for a flit (R123). The spec gives the buffers no size and no rate
at which they empty: `fill` takes a free value at every step (log entry 50). -/
def fillRate (fill : Nat) : Nat := if fill == 0 then 255 else if fill == 1 then 127 else if fill == 2 then 31 else 0

/-- A flit finds room: IDLE and NAK need none, being of no class with a buffer. -/
def State.fits (s : State) (type : Nat) : Bool := type == 0 || type == 8 || decide (s.fill < 3)

/-- A flit at a port: accepted in its order, or dropped. -/
def State.accepts (s : State) (port type : Nat) (f : Flit) : Option State :=
  let p := s.port port
  if 18 ≤ port || !p.up || p.retraining then none
  else if !s.flitOk type f || f.seq.toNat != p.expectSeq % 65536 || !s.fits type then none
  else
    let keeps := type == 0 || type == 8
    some (s.setPort port { (p.acked f.ack.toNat) with
      expectSeq := if keeps then p.expectSeq else (p.expectSeq + 1) % 65536
      nakSent := false, rateIn := f.rate.toNat, rateOut := if keeps then p.rateOut else Nat.min p.rateOut (fillRate s.fill) })

/-- The state after a dropped flit; one dropped for want of room alone sets the rate to 0 (R123). -/
def State.drops (s : State) (port : Nat) (noRoom : Bool) : State :=
  let p := s.port port
  if 18 ≤ port || !p.up || p.retraining then s else s.setPort port (if noRoom then { p.drop with rateOut := 0 } else p.drop)

/-! ### Sending on (R124, R125) -/

/-- A chunk noted, or taken further, or complete. -/
def State.setChunk (s : State) (c : ChunkIn) (done : Bool) : State :=
  let rest := s.chunks.filter fun x => !(x.src == c.src && x.tag == c.tag)
  { s with chunks := if done then rest else c :: rest }

/-- The chunk of a BULK flit with the flit's bytes; `via` is the port of one that begins here and is for another package. -/
def State.chunkWith (s : State) (f : Flit) (via : Option Nat) : ChunkIn :=
  match s.openChunk f with
  | some c => { c with got := c.got ++ f.payload }
  | none => ⟨f.from_, f.id, via, f.get 0 8, f.get 8 2, f.get 10 2, f.w, false, f.payload.drop 16⟩

/-- The chunk that a flit sent on belongs to keeps the port taken, or is discarded with the flit. -/
def State.noteVia (s : State) (type : Nat) (f : Flit) (port : Option Nat) : State :=
  if type != 7 then s
  else { s with chunks := s.chunks.map fun c =>
    if c.src == f.from_ && c.tag == f.id && c.via.isSome then (match port with | some _ => { c with via := port } | none => { c with drop := true }) else c }

/-- A flit that is no request of this package sent on its way: put into the send queue of its port, held while the entry of its destination is to change or earlier flits for that
destination are held (R125), discarded where the destination is not reachable (R124). `pa` is the address of the chunk that a BULK flit is of. That answers count among the new
traffic that R125 stalls, and a chunk sent again does not, is the model's reading (DEDUCED, log entry 50). -/
def State.emit (s : State) (type pa : Nat) (f : Flit) : State :=
  if s.routeStalled f.to_ || s.held.any fun h => h.flit.dst == f.dst then { s with held := s.held ++ [⟨type, f, pa⟩] }
  else match if type == 7 then s.bulkPort f.to_ pa else s.routePort f.to_ with
    | some port => (s.noteVia type f (some port)).enqueueAs port type f false
    | none => s.noteVia type f none

/-- Held flits whose route stands again go their way, in order (R125). -/
def State.release (s : State) : State := s.held.foldl (fun s h => s.emit h.type h.pa h.flit) { s with held := [] }

/-- A flit for another package passes on with one hop more, or is discarded: where its hops would exceed 15, or its destination's entry has V clear. The flits that continue a
discarded one's chunk are accepted and discarded too (R124). A chunk keeps the port of its first flit. -/
def State.forward (s : State) (type : Nat) (f : Flit) : State :=
  let f1 := { f with hops := f.hops + 1 }
  let lost := f.hops == 15 || !(s.route f.to_).getLsbD 63
  if type != 7 then (if lost then s else s.emit type 0 f1)
  else
    let c := s.chunkWith f (some ((s.bulkPort f.to_ (f.get 0 8)).getD 0))
    let s1 := s.setChunk { c with drop := c.drop || lost } (c.stream ≤ c.got.length)
    let goesOn := (s.openChunk f).isSome && !s.held.any fun h => h.type == 7 && h.flit.src == f.src && h.flit.tag == f.tag
    if c.drop || lost then s1
    else match goesOn, c.via with
      | true, some port => s1.enqueueAs port 7 f1 false
      | _, _ => s1.emit 7 c.pa f1

/-! ### Requests performed here (R126, R128) -/

/-- An answer sent to the origin of a request. -/
def State.answer (s : State) (f : Flit) (type : Nat) (payload : List Byte) : State :=
  s.emit type 0 (mkFlit s 1 f.from_ f.id false payload)

/-- A physical address of this package that has memory behind it. -/
def State.mine (s : State) (pa : Nat) : Bool := s.isLocal pa && s.backed (paLocal pa)

/-- Every address word of a request, in records of a size, names memory of this package. A request with one that does not is refused in that
record, and no answer tells its origin so (R50, log entry 50). -/
def State.allMine (s : State) (f : Flit) (size : Nat) : Bool :=
  (List.range (f.payload.length / size)).all fun k => f.get (size * k) 8 == 0 || s.mine (f.get (size * k) 8 % 2 ^ 54)

/-- The records of a WRITE performed in order (R119). -/
def State.writeRecords (s : State) (f : Flit) : State :=
  (List.range (f.payload.length / 24)).foldl (fun s k =>
    let w := f.get (24 * k) 8
    let pa := w % 2 ^ 54
    let n := 2 ^ (w / 2 ^ 54 % 8)
    if s.mine pa then s.writePA pa n (f.get (24 * k + 8) 16 % 2 ^ (8 * n)) false else s) s

/-- The data of a READ, 16 bytes for each address word (R119). -/
def State.readRecords (s : State) (f : Flit) : List Byte :=
  (List.range (f.payload.length / 8)).flatMap fun k =>
    let w := f.get (8 * k) 8
    let pa := w % 2 ^ 54
    bytesOf 16 (if s.mine pa then s.readPA pa (2 ^ (w / 2 ^ 54 % 8)) else 0)

/-- One record of an ATOMIC performed: the old value (R84, R119). Of a reserved op (15 to 31) or sz (2, 3) the spec says nothing: the model answers the old value and writes nothing
for the op, and takes the sz as W (DESIGN CHOICE, log entry 77). -/
def State.atomicRecord (s : State) (pa operand op new : Nat) : State × Nat :=
  let n := if op / 32 % 4 == 1 then 8 else 4
  let old := s.readPA pa n
  let m := 2 ^ (8 * n)
  if !s.mine pa then (s, 0)
  else if op % 32 == casCode then
    (if old == operand % m then s.writePA pa n (new % m) (s.poisonedPA pa n) else s, old)
  else match AtomOp.of (op % 32) with
    | some o => (s.writePA pa n (atomNew o n old (operand % m)) (s.poisonedPA pa n), old)
    | none => (s, old)

/-- The records of an ATOMIC performed in order: the old values. A CAS.D carries its new value in the record that follows (R119). -/
def State.atomicRecords (f : Flit) : Nat → Nat → State → State × List Nat
  | 0, _, s => (s, [])
  | k + 1, i, s =>
    if f.payload.length / 24 ≤ i then (s, [])
    else
      let op := f.get (24 * i + 16) 8
      let wide := op % 32 == casCode && op / 32 % 4 == 1
      let new := if wide then f.get (24 * i + 32) 8 else op / 2 ^ 32
      let r := s.atomicRecord (f.get (24 * i) 8 % 2 ^ 54) (f.get (24 * i + 8) 8) op new
      let q := State.atomicRecords f k (i + (if wide then 2 else 1)) r.1
      (q.1, r.2 :: q.2)

/-- Drains that wait for chunks of their source are answered once none is under way (R128). -/
def State.ackDrains (s : State) : State :=
  let open_ := fun (d : DrainReq) => s.chunks.any fun c => c.src == d.src && c.via.isNone
  let done := s.drains.filter fun d => !open_ d
  done.foldl (fun s d => s.emit 10 0 (mkFlit s 1 d.src d.tag false (bytesOf 2 d.part))) { s with drains := s.drains.filter open_ }

/-! ### Answers delivered (R100, R126) -/

/-- A remote operation of this package's with a tag. -/
def State.remoteAt (s : State) (tag : Nat) : Option RemoteOp := s.remote.find? fun r => r.tag == tag
/-- It is outstanding no longer. -/
def State.closeRemote (s : State) (tag : Nat) : State := { s with remote := s.remote.filter fun r => r.tag != tag }

/-- The instruction of a group whose last answer has come completes: its destinations are written, unless it has trapped (R127, R332). -/
def State.remoteDone (s : State) (n : Nat) (g : Group) (r : RemoteWait) : State :=
  let s1 := s.setGroup n { g with remote := g.remote.filter fun x => x != r }
  if r.mask == 0 then s1 else
  let full := (r.mask &&& g.all) == g.all
  let got := (List.range 64).filterMap fun i => r.got.find? fun x => x.1 == i
  match s1.writeRegs n r.mask full (Sys2Proof.Machine.deliver r.instr g.w got) with
  | .ok s2 _ => s2.fitAreas n g.inRows
  | .trap _ s2 => s2
  | .wait s2 _ _ => s2

/-- Answers for lanes of a group (R126). What the group loads from now on is not served by lines that its L1 read before (R136, R257). -/
def State.laneAnswer (s : State) (n tag : Nat) (vals : List Got) : State :=
  match s.group n with
  | none => s
  | some g =>
    match g.remote.find? fun r => r.tags.contains tag with
    | none => s
    | some r =>
      let r1 := { r with tags := delNat r.tags tag, got := r.got ++ vals }
      let g1 := { g with remote := g.remote.map (fun x => if x == r then r1 else x), l1Since := s.ticks }
      if r1.tags.isEmpty then s.remoteDone n g1 r1 else s.setGroup n g1

/-- The request of a core that a tag belongs to. -/
def State.copyOfTag (s : State) (tag : Nat) : Option CopyReq := s.copies.find? fun c => c.tags.contains tag

/-- A chunk of a copy request has been performed in its package (R100, R127). -/
def State.copyAcked (s : State) (tag : Nat) : State :=
  match s.copyOfTag tag with
  | none => s
  | some c =>
    let c1 := { c with tags := delNat c.tags tag, sent := c.sent.filter fun x => x.1 != tag }
    if c1.tags.isEmpty then (s.setCopy c (some c1)).copyCredit c1 c1.owed else s.setCopy c (some c1)

/-- Source bytes that a copy request asked for have come (R129). -/
def State.copyBytes (s : State) (tag pa : Nat) (l : List Byte) : State :=
  match s.copyOfTag tag with
  | none => s
  | some c => s.setCopy c (some { c with tags := [], inbuf := c.inbuf ++ l.mapIdx fun k b => (pa + k, b) })

/-- Values that answer a remote operation: data in the order of its requests. -/
def State.valuesCome (s : State) (tag : Nat) (vals : List Nat) : State :=
  match s.remoteAt tag with
  | none => s
  | some r =>
    let s1 := s.closeRemote tag
    let v := vals.headD 0
    match r.for_ with
    | .lanes n lanes => s1.laneAnswer n tag ((lanes.zip vals).map fun x => (x.1, BitVec.ofNat 128 x.2, 0))
    | .reads n k at_ keep =>
      let vs := (at_.zip vals).map fun x => (x.1.2, k, BitVec.ofNat 128 x.2)
      (match s1.group n with
      | some g =>
        let g1 := { g with l1Since := s.ticks }
        s1.setGroup n (if keep then { g1 with kdata := g1.kdata ++ vs } else { g1 with heard := g1.heard ++ vs })
      | none => s1)
    | .packetWait _ slot rd => s1.waitAnswer slot rd v
    | .hub _ pas => { s1 with hubHeard := s1.hubHeard ++ (pas.zip vals).map fun x => (x.1, some (BitVec.ofNat 8 x.2)) }
    | .pod team phase seen => s1.podAnswer team phase seen v
    | _ => s1

/-- An acknowledgement. -/
def State.ackCome (s : State) (tag : Nat) : State :=
  match s.remoteAt tag with
  | none => s
  | some r =>
    let s1 := s.closeRemote tag
    match r.for_ with
    | .lanes n _ => s1.laneAnswer n tag []
    | .copy _ true => s1.copyAcked tag
    | .signal _ msix => { s1 with msix := s1.msix ++ msix.toList }
    | _ => s1

/-! ### Chunks (R129 to R133) -/

/-- The bytes of a complete chunk; none where its block fails its checks (R133). -/
def ChunkIn.bytes (c : ChunkIn) : Option (List Byte) := if c.w then winnowDec c.len c.got else some c.got

/-- A request for a chunk: the bytes from its address, compressed where it asks so (R129, log entry 15). R124 picks the port by the chunk's destination address, which the
request does not carry: the model takes the address that it names, that of the source (DESIGN CHOICE, log entry 78). -/
def State.serveChunk (s : State) (f : Flit) : State :=
  let pa := f.get 0 8
  let len := f.get 8 2
  let l := Mem.readBytes s.mem (paLocal pa) len
  if !(s.mine pa && s.mine (pa + len - 1)) then s else
  (bulkPayloads pa len 0 (if !f.w then l else if f.get 12 4 / rawMark % 2 == 1 then winnowRaw l else winnowEnc (f.get 12 4) l)).foldl (fun s b =>
    s.emit 7 pa (mkFlit s 2 f.from_ f.id f.w b)) s

/-- A chunk that this package sent is asked for again: it goes out raw once, and a second failure is unresolvable (R133). It is no new traffic (R125): a change of the route
waits for it. -/
def State.resendChunk (s : State) (tag : Nat) : State :=
  match s.copyOfTag tag with
  | none => s
  | some c =>
    match c.sent.find? fun x => x.1 == tag with
    | none => s
    | some x =>
      if c.retried.contains tag then s.copyFail c 10
      else match s.sendBulk tag x.2.1 x.2.2.length true 0 (winnowRaw x.2.2) with
        | none => s.copyFail c 10
        | some s1 => s1.setCopy c (some { c with retried := tag :: c.retried })

/-- A chunk that this package asked for has come: its bytes, or a block that fails, which is asked for once again (R133): the mark 65,536 says that the next request is for it. -/
def State.chunkAnswer (s : State) (c : ChunkIn) : State :=
  let s1 := s.closeRemote c.tag
  match c.bytes, s1.copyOfTag c.tag with
  | some l, _ => s1.copyBytes c.tag c.pa l
  | none, some r => if r.retried.contains c.tag then s1.copyFail r 10 else s1.setCopy r (some { r with tags := [], retried := [65536] })
  | none, none => s1

/-- A chunk for memory of this package: performed and acknowledged, asked for again, or refused (R50). -/
def State.chunkStore (s : State) (f : Flit) (c : ChunkIn) : State :=
  match c.bytes with
  | some l =>
    let s1 := { s with mem := Mem.writeBytes s.mem (paLocal c.pa) l, memPoison := poisonAfter s.memPoison (paLocal c.pa) l.length false }
    if s.mine c.pa && s.mine (c.pa + l.length - 1) then s1.answer f 6 [] else s
  | none => s.emit 7 c.pa (mkFlit s 2 f.from_ f.id false ((bulkPayloads c.pa c.len 0 []).headD []))

/-- A BULK flit for this package. -/
def State.bulkCome (s : State) (f : Flit) : State :=
  let mine := (s.remoteAt f.id).filter fun r => r.pkg == f.from_
  match s.openChunk f, f.get 10 2 with
  | none, 0 =>
    (match mine.map RemoteOp.for_ with
    | some (.copy _ true) => s.resendChunk f.id
    | _ => s.serveChunk f)
  | _, _ =>
    let c := s.chunkWith f none
    if c.got.length < c.stream then s.setChunk c false
    else
      let s1 := s.setChunk c true
      ((match mine.map RemoteOp.for_ with
      | some (.copy _ false) => s1.chunkAnswer c
      | _ => s1.chunkStore f c)).ackDrains

/-! ### The flits, one event each (R119) -/

/-- The flit is the next one in order, and only want of room keeps it out (R123). -/
def State.noRoom (s : State) (port type : Nat) (f : Flit) : Bool :=
  s.flitOk type f && f.seq.toNat == (s.port port).expectSeq % 65536 && !s.fits type

/-- A flit arrives: dropped, passed on, or given to its meaning here. -/
def State.arrive (s : State) (port type : Nat) (f : Flit) (here : State → State) : State :=
  match s.accepts port type f with
  | none => s.drops port (s.noRoom port type f)
  | some s1 => if f.dst == s1.pkgId || type == 0 || type == 8 then here s1 else s1.forward type f

/-- IDLE: acknowledgement and rate only. -/
def execIdle (port : Nat) (f : Flit) (s : State) : Host.Outcome State Fault Refusal := .next (s.arrive port 0 f id)
/-- WRITE (R126): performed in record order, then acknowledged. -/
def execWrite (port : Nat) (f : Flit) (s : State) : Host.Outcome State Fault Refusal :=
  .next (s.arrive port 1 f fun s => if s.allMine f 24 then (s.writeRecords f).answer f 6 [] else s.writeRecords f)
/-- READ (R126): the data go back in flits of at most 15 records. -/
def execRead (port : Nat) (f : Flit) (s : State) : Host.Outcome State Fault Refusal :=
  .next (s.arrive port 2 f fun s =>
    if s.allMine f 8 then (chunksOf 2 240 (s.readRecords f)).foldl (fun s l => s.answer f 4 l) s else s)
/-- ATOMIC (R126): performed in record order; old values go back, or an acknowledgement for REDs. -/
def execAtomic (port : Nat) (f : Flit) (s : State) : Host.Outcome State Fault Refusal :=
  .next (s.arrive port 3 f fun s =>
    let r := State.atomicRecords f 10 0 s
    if !s.allMine f 24 then r.1 else if f.isRed then r.1.answer f 6 [] else r.1.answer f 5 (r.2.flatMap (bytesOf 8)))
/-- READ_RESP (R126). -/
def execReadResp (port : Nat) (f : Flit) (s : State) : Host.Outcome State Fault Refusal :=
  .next (s.arrive port 4 f fun s => s.valuesCome f.id ((List.range (f.payload.length / 16)).map fun k => f.get (16 * k) 16))
/-- ATOMIC_RESP (R126). -/
def execAtomicResp (port : Nat) (f : Flit) (s : State) : Host.Outcome State Fault Refusal :=
  .next (s.arrive port 5 f fun s => s.valuesCome f.id ((List.range (f.payload.length / 8)).map fun k => f.get (8 * k) 8))
/-- ACK (R126). -/
def execAck (port : Nat) (f : Flit) (s : State) : Host.Outcome State Fault Refusal := .next (s.arrive port 6 f fun s => s.ackCome f.id)
/-- BULK (R129, R130). -/
def execBulk (port : Nat) (f : Flit) (s : State) : Host.Outcome State Fault Refusal := .next (s.arrive port 7 f fun s => s.bulkCome f)
/-- NAK (R121): everything from ack + 1 onward is sent again. -/
def execNak (port : Nat) (f : Flit) (s : State) : Host.Outcome State Fault Refusal :=
  .next (s.arrive port 8 f fun s => s.setPort port (s.port port).replayAll)
/-- DRAIN (R128): answered once everything accepted before it from its source has been performed. -/
def execDrain (port : Nat) (f : Flit) (s : State) : Host.Outcome State Fault Refusal :=
  .next (s.arrive port 9 f fun s => ({ s with drains := s.drains ++ [(⟨f.from_, f.id, f.get 0 2⟩ : DrainReq)] }).ackDrains)
/-- DRAIN_ACK (R128). -/
def execDrainAck (port : Nat) (f : Flit) (s : State) : Host.Outcome State Fault Refusal := .next (s.arrive port 10 f fun s => s.ackCome f.id)
/-- CRC_FAILURE (R121): the flit is dropped. -/
def execCrcFailure (port : Nat) (s : State) : Host.Outcome State Fault Refusal := .next (s.drops port false)

/-! ### Sending (R120 to R123) -/

/-- The next step up of an advertised rate: its values are 0, 31, 127 and 255 (R123; that one step goes from one of them to the next is DEDUCED, log entry 50). -/
def rateStep (r : Nat) : Nat := if r < 31 then 31 else if r < 127 then 127 else 255

/-- A slot is over; one that started a flit counts against the pace. Every 1,024 slots the rate rises by one step, as far as the buffer's fill has it (R123). -/
def Port.slotUsed (p : Port) (started : Bool) (fill : Nat) : Port :=
  let n := p.slots + 1
  { p with
    recent := (started :: p.recent).take 255
    slots := n % 1024
    rateOut := if n % 1024 == 0 then Nat.max p.rateOut (Nat.min (rateStep p.rateOut) (fillRate fill)) else p.rateOut }

/-- The pace of the latest rate received leaves the slot to a flit other than IDLE (R123). -/
def Port.mayStart (p : Port) : Bool := decide ((p.recent.filter id).length < p.rateIn + 1)

/-- A flit as it goes out at a cycle. -/
def OutFlit.stamp (x : OutFlit) (p : Port) (seq now : Nat) : OutFlit :=
  { x with
    flit := { x.flit with
      seq := BitVec.ofNat 16 seq, ack := BitVec.ofNat 16 (p.expectSeq + 65535), rate := BitVec.ofNat 8 p.rateOut }
    at_ := now }

/-- The number of the flit that a port sends next: while it replays, that of a flit of its replay buffer (R120, R121). -/
def Port.seqNext (p : Port) : Nat := (p.nextSeq + 65536 - p.replay.length % 65536 + p.resend) % 65536

/-- A flit of link control, IDLE or NAK, as it goes out: it carries the number that will be sent next and takes none (R120). Which package its destination names, on a link that
ends at the other side, the spec does not say: a free value. -/
def Port.control (p : Port) (src dst : BitVec 9) : Flit :=
  ⟨3, 0, BitVec.ofNat 16 p.seqNext, BitVec.ofNat 16 (p.expectSeq + 65535), dst, src, 0, 0, BitVec.ofNat 8 p.rateOut, false, []⟩

/-- A slot in which a port starts an IDLE (R123). -/
def Port.idle (p : Port) (src dst : BitVec 9) (fill : Nat) : Port := { p with wire := flitBytes 0 (p.control src dst) }.slotUsed false fill

/-- What a port sends in a slot: an owed NAK, a flit of the replay buffer that goes again, the next flit of its queue, or an IDLE. -/
def Port.send (p : Port) (now : Nat) (src dst : BitVec 9) (fill : Nat) : Port :=
  if !p.mayStart then p.idle src dst fill
  else if p.nakDue then { p with nakDue := false, nakSent := true, wire := flitBytes 8 (p.control src dst) }.slotUsed true fill
  else match p.replay[p.resend]? with
    | some x =>
      let y := x.stamp p p.seqNext now
      { p with replay := p.replay.set p.resend y, resend := p.resend + 1, wire := flitBytes y.type y.flit }.slotUsed true fill
    | none =>
      match p.sendq with
      | [] => p.idle src dst fill
      | x :: rest =>
        if Config.replayFlits ≤ p.replay.length then p.idle src dst fill
        else
          let y := x.stamp p p.nextSeq now
          { p with
            sendq := rest, replay := p.replay ++ [y], resend := p.resend + 1, nextSeq := (p.nextSeq + 1) % 65536
            wire := flitBytes y.type y.flit }.slotUsed true fill

/-- FLIT_SLOT (R117, R120, R123). -/
def execFlitSlot (port : Nat) (s : State) : Host.Outcome State Fault Refusal :=
  let p := s.port port
  .next (if 18 ≤ port || !p.up || p.retraining then s else s.setPort port (p.send s.cycle s.pkgId (Config.linkDst s.ticks) s.fill))

/-- REPLAY_TIMEOUT (R121): the oldest unacknowledged flit has waited 4 µs. -/
def execReplayTimeout (port : Nat) (s : State) : Host.Outcome State Fault Refusal :=
  let p := s.port port
  .next (match p.replay with
    | [] => s
    | x :: _ => if p.up && !p.retraining && p.resend != 0 && x.at_ + 4200 ≤ s.cycle then s.setPort port p.replayAll else s)

/-! ### Ports down (R122, R125) -/

/-- A route entry without a port (R122, R125): a destination whose port it is, or whose bulk mask becomes empty, is unreachable. -/
def routeWithout (port : Nat) (e : DWord) : DWord :=
  let e1 := e &&& ~~~(BitVec.ofNat 64 (2 ^ (40 + port)))
  if e.toNat / 2 ^ 58 % 32 == port || (e1.toNat / 2 ^ 40 % 2 ^ 18 == 0) then e1 &&& 0x7FFFFFFFFFFFFFFF else e1

/-- An access of the first of some lanes that cannot be completed traps PAGE_FATAL with that lane's address, as a fault of R64: what has issued after it and waits in the
group's log is discarded, and the group is woken. Writes of the instruction to other packages that are not acknowledged still hold what R127 has wait for them. -/
def Group.remoteFatal (g : Group) (tag : Nat) (lanes : List Nat) : Group :=
  match g.remote.find? fun r => r.tags.contains tag with
  | none => g
  | some r =>
    let va := ((r.accs.find? fun a => lanes.contains a.lane).map LaneAcc.ea).getD 0
    let left := delNat r.tags tag
    let g1 := { g with
      remote := if globalWrites r.instr && !left.isEmpty then g.remote.map (fun x => if x == r then { r with tags := left, mask := 0, acq := false } else x)
        else g.remote.filter fun x => x != r
      log := g.log.filter fun e => decide (e.seq < r.seq), asleep := none
      deferred := some ⟨Cause.pageFatal, BitVec.ofNat 64 va, r.pc, true⟩ }
    g1.setHusk fun h => if (h.commit.bind Commit.pa).isNone && g.log.any (fun e => decide (r.seq ≤ e.seq)) then { h with commit := none } else h

/-- The path waits for the answer with a tag. -/
def Path.awaits (p : Path) (tag : Nat) : Bool := match p.wait with | some (.remote ts) => ts.contains tag | _ => false

/-- A path of the group waits for the answer with a tag that will not come: PAGE_FATAL at the path, with the address asked for (R64). -/
def Group.readFatal (g : Group) (tag va : Nat) : Option Group :=
  let paths := (g.slotA.toList ++ g.slotB.toList).filter fun p => p.awaits tag
  let gone := fun (p : Path) => if p.awaits tag then { p with wait := none } else p
  paths.head?.map fun p => { g with
    slotA := g.slotA.map gone, slotB := g.slotB.map gone, asleep := none
    deferred := some ⟨Cause.pageFatal, BitVec.ofNat 64 va, p.pc, true⟩ }

/-- A value of another package will not come: the path that waits for it traps, or the entry of the log whose regeneration asked for it. -/
def State.valueFatal (s : State) (n tag va : Nat) : State :=
  match s.resident.findSome? fun e => (e.2.readFatal tag va).map fun g => (e.1, g) with
  | some x => s.setGroup x.1 x.2
  | none =>
    match s.group n with
    | some g =>
      (match g.log.findIdx? fun e => e.kind != .access with
      | some j => s.setGroup n (g.logTrap j Cause.pageFatal va)
      | none => s)
    | none => s

/-- The origin of a request of this package is declared unresolvable (R122): a lane access, or a value that one needs, and a copy request. The rule names these alone; a
signal's update, a DRAIN, the read of a WAIT packet or of a pod barrier is then no longer outstanding, and a WAIT or a pod barrier asks again (DESIGN CHOICE, log entry 69). -/
def State.originFatal (s : State) (tag : Nat) : State :=
  match s.remoteAt tag with
  | none => s
  | some r =>
    let s1 := s.closeRemote tag
    match r.for_ with
    | .lanes n lanes => (match s1.group n with | some g => s1.setGroup n (g.remoteFatal tag lanes) | none => s1)
    | .reads n _ at_ _ => s1.valueFatal n tag ((at_.head?.map Prod.fst).getD 0)
    | .hub _ pas => { s1 with hubHeard := s1.hubHeard ++ pas.map fun pa => (pa, none) }
    | .copy _ _ => (match s1.copyOfTag tag with | some c => s1.copyFail c 10 | none => s1)
    | _ => s1

/-- A port goes down: the origins of the requests that it holds are unresolvable (R122), and the routes that name it are to lose it (R125). -/
def State.portDown (s : State) (port : Nat) : State :=
  let p := s.port port
  let tags := ((p.replay ++ p.sendq).filter OutFlit.own).map fun x => x.flit.id
  tags.foldl State.originFatal (s.setPort port { Port.reset with down := true })

/-- A bit of FABCMD: BUSY 63, OVR 62, ERR 61. -/
def State.fabBit (s : State) (k : Nat) : Bool := s.regs.fabcmd.getLsbD k
/-- The command ends. -/
def State.fabDone (s : State) (err : Bool) : State :=
  let c := s.regs.fabcmd &&& 0x7FFFFFFFFFFFFFFF
  { s with regs := { s.regs with fabcmd := if err then c ||| 0x2000000000000000 else c } }
/-- A command runs on a port. -/
def State.fabRunning (s : State) (cmd : Nat) : Bool := s.fabBit 63 && bitsOf s.regs.fabcmd.toNat 0 4 == cmd

/-- PORT_RETRAIN (R122, R400): a retraining ends, after a number of failures; three leave the port down. -/
def execPortRetrain (port failures : Nat) (s : State) : Host.Outcome State Fault Refusal :=
  let p := s.port port
  let mine := s.fabRunning 1 && bitsOf s.regs.fabcmd.toNat 8 5 == port
  .next (
    if !p.retraining then s
    else if failures < 3 then
      let s1 := s.setPort port { p with
        up := true, down := false, retraining := false, replays := 0, resend := 0, rateIn := 255, rateOut := 255, slots := 0, recent := [] }
      if mine then s1.fabDone false else s1
    else if mine then (s.setPort port { p with retraining := false }).fabDone true
    else s.portDown port)

/-! ### Routes and FABCMD (R124, R125, R400) -/

/-- A route entry is well formed (R400). -/
def routeOk (e : DWord) : Bool :=
  let n := e.toNat
  n % 2 ^ 40 == 0 && decide (n / 2 ^ 58 % 32 ≤ 17) && (n / 2 ^ 63 == 0 || n / 2 ^ 40 % 2 ^ 18 != 0)

/-- A request to a package is outstanding (R125). -/
def State.openTo (s : State) (dest : Nat) : Bool := s.remote.any fun r => r.pkg == dest

/-- ROUTE_UPDATE (R125): an entry changes once nothing is outstanding to its destination, for a ROUTEWR, which it ends, or to leave out a port that is down. -/
def execRouteUpdate (dest : Nat) (entry : DWord) (s : State) : Host.Outcome State Fault Refusal :=
  .next (
    if 512 ≤ dest || s.openTo dest then s
    else
      let s1 := { s with routes := Tbl.set 0 s.routes dest entry }
      if s1.fabRunning 2 && bitsOf s1.regs.fabcmd.toNat 16 9 == dest && entry == s1.regs.fabnow then s1.fabDone false else s1)

/-- A write of FABCMD (R400): while BUSY it is discarded and sets OVR; else the command starts. -/
def State.fabWrite (s : State) (val : DWord) : State :=
  let c := s.regs.fabcmd
  if s.fabBit 63 then { s with regs := { s.regs with fabcmd := c ||| 0x4000000000000000 } }
  else
    let kept := (val &&& 0x01FF1F0F) ||| (if val.getLsbD 62 then 0 else c &&& 0x4000000000000000)
    let s1 := { s with regs := { s.regs with fabcmd := kept ||| 0x8000000000000000, fabnow := s.regs.fabdata } }
    let port := bitsOf val.toNat 8 5
    let dest := bitsOf val.toNat 16 9
    match bitsOf val.toNat 0 4 with
    | 1 =>
      if port ≤ 17 && (s.port port).down then s1.setPort port { s1.port port with retraining := true }
      else s1.fabDone true
    | 2 => if routeOk s.regs.fabdata then s1 else s1.fabDone true
    | 3 => { s1 with regs := { s1.regs with fabdata := s1.route dest } }.fabDone false
    | _ => s1.fabDone true

/-- RETRAIN (R122, R400): a down port is retrained. -/
def execRetrain (val : DWord) (s : State) : Host.Outcome State Fault Refusal := .next (s.fabWrite val)
/-- ROUTEWR (R400): a valid entry waits for ROUTE_UPDATE; an invalid one sets ERR and changes nothing. -/
def execRoutewr (val : DWord) (s : State) : Host.Outcome State Fault Refusal := .next (s.fabWrite val)
/-- ROUTERD (R400): FABDATA receives the entry. -/
def execRouterd (val : DWord) (s : State) : Host.Outcome State Fault Refusal := .next (s.fabWrite val)
/-- FABCMD (R400): other commands set ERR. -/
def execFabcmd (val : DWord) (s : State) : Host.Outcome State Fault Refusal := .next (s.fabWrite val)

end Sys2Proof.Machine
end

