-- ==== Sys2Proof/Machine/Firmware.lean ====
section
/-! DEFINITION. The host's registers (R397 to R400, R426), boot and recovery (R402), the security block (R404, R405), the CXL ports (R396), host
accesses (R143) and the plate sensors. -/

namespace Sys2Proof.Machine

/-! ### Boot (R402) -/

/-- The checks of an image pass: digest, signature, and a version not below the rollback counter. -/
def State.imageOk (s : State) (image : List Byte) : Bool :=
  Config.firmwareSigned image && decide (s.boot.rollback.toNat ≤ (Config.firmwareVersion image).toNat)

/-- The Sheaf runs an image: it brings up the E-ports and sets state 2. -/
def State.bringUp (s : State) (image : List Byte) : State :=
  { s with
    boot := { s.boot with state := 2, fwver := Config.firmwareVersion image, flash := image, window := [] }
    ports := List.replicate 18 { Port.reset with up := true } }

/-- The ROM verifies the image in flash, and starts the Sheaf or opens the recovery window. -/
def State.rom (s : State) : State :=
  if s.imageOk s.boot.flash then s.bringUp s.boot.flash else { s with boot := { s.boot with state := 3, window := [] } }

/-- The package as a reset leaves it: flash, fuses and the identity of the part stay, and so does the host's memory. -/
def State.restarted (s : State) : State :=
  { State.reset with
    hostMem := s.hostMem, pkgId := s.pkgId, ticks := s.ticks, turn := s.turn, inbox := s.inbox, qcbBase := s.qcbBase
    boot := { State.reset.boot with flash := s.boot.flash, rollback := s.boot.rollback, seed := s.boot.seed } }

/-- POWER_ON_RESET (R10, R402). -/
def execPowerOnReset (s : State) : Host.Outcome State Fault Refusal := .next s.restarted.rom

/-- HOST_SIDE_RESET (R10, R354, R402): as a power-on reset, but the cycle counter goes on, memory keeps its contents, and no group key is given out a second time. -/
def execHostSideReset (s : State) : Host.Outcome State Fault Refusal :=
  .next { s.restarted with
    nextKey := s.nextKey, cycle := s.cycle, heartbeats := s.heartbeats, monitorAt := s.cycle + 2 ^ 20, mem := s.mem, memPoison := s.memPoison }.rom

/-- RECOV (R402): the register keeps the length; in recovery wait, the replacement of that length is verified; a second failure ends in state 5. -/
def execRecov (len : DWord) (s : State) : Host.Outcome State Fault Refusal :=
  let s1 := { s with regs := { s.regs with recov := len } }
  .next (
    if s1.boot.state != 3 then s1
    else
      let image := (List.range len.toNat).map fun k => Tbl.get 0 s1.boot.window k
      if s1.imageOk image then s1.bringUp image else { s1 with boot := { s1.boot with state := 5 } })

/-! ### Partition blocks (R398, R399, R405) -/

/-- The TDI that a virtual function is fixes the configuration of its partition (R405). -/
def State.tdiFixes (s : State) (part : Nat) : Bool :=
  let vf := bitsOf (s.part part).cfg.toNat 55 8
  vf != 0 && (s.tdi vf == .locked || s.tdi vf == .run)

/-- PARTCFG as it was last written, in force or not yet (R399). -/
def Part.cfgWritten (p : Part) : DWord := p.cfgNext.getD p.cfg

/-- A quad of a set is guaranteed to another partition that is enabled (R326). -/
def State.quadsTaken (s : State) (part : Nat) (quads : DWord) : Bool :=
  (List.range 16).any fun k => k != part && ((s.part k).cfg.getLsbD 63 || (s.part k).cfgWritten.getLsbD 63) && ((s.part k).quads &&& quads) != 0

/-- A team of the partition's is resident. -/
def State.partBusy (s : State) (part : Nat) : Bool :=
  s.teams.any fun t => match t with
    | some t => t.live && (s.launch t.launch).any fun l => l.part == part
    | none => false

/-- PARTCFG (R398, R399): refused where it would change the binding while EN is set, where a TDI fixes it, or where it would enable a partition that has a quad of another enabled
one (R326 has no quad guaranteed to two; that the write which would make it so is refused is a DESIGN CHOICE, log entry 81). With resident work it takes effect at the partition's
next dispatch decision. EN written to a stopped partition admits work again. -/
def execPartcfg (part : Nat) (val : DWord) (s : State) : Host.Outcome State Fault Refusal :=
  let p := s.part part
  let new : DWord := val &&& 0xFFBFFF8000000000
  let vfChanges := bitsOf p.cfgWritten.toNat 55 8 != bitsOf val.toNat 55 8
  .next (
    if 16 ≤ part || s.tdiFixes part || (p.cfgWritten.getLsbD 63 && vfChanges) || (val.getLsbD 63 && s.quadsTaken part p.quads) then s
    else if s.partBusy part then s.setPart part { p with cfgNext := some new }
    else s.setPart part { p with cfg := new, cfgNext := none, stopped := p.stopped && !val.getLsbD 63 })

/-- PARTQUADS (R398, R399): refused while EN is set, or where a TDI fixes it; and where it names a quad of another enabled partition (R326; DESIGN CHOICE, log entry 81). -/
def execPartquads (part : Nat) (val : DWord) (s : State) : Host.Outcome State Fault Refusal :=
  let p := s.part part
  .next (if 16 ≤ part || s.tdiFixes part || p.cfgWritten.getLsbD 63 || p.cfg.getLsbD 63 || s.quadsTaken part val then s else s.setPart part { p with quads := val })

/-- The timers of the ladder within their limits (R328): grace and kill from 1 µs to 10 ms, kill above grace. A value outside acts as the nearer limit (DESIGN CHOICE, log entry 81). -/
def timerPair (val : DWord) : Nat × Nat :=
  let grace := Nat.min 9999 (Nat.max 1 (bitsOf val.toNat 0 32))
  (grace, Nat.min 10000 (Nat.max (grace + 1) (bitsOf val.toNat 32 32)))

/-- A plain register of a partition block (R398). -/
def State.blockWrite (s : State) (part off : Nat) (val : DWord) : State :=
  let p := s.part part
  match off with
  | 0x08 => s.setPart part { p with grace := (timerPair val).1, kill := (timerPair val).2 }
  | 0x10 => s.setPart part { p with saveBase := val, kept := [] }
  | 0x18 => s.setPart part { p with saveLen := val, kept := [] }
  | 0x20 => { s with regs := { s.regs with ramp := Nat.min 256 (Nat.max 1 val.toNat) } }
  | 0x28 =>
    let s1 := s.setPart part { p with stop := val }
    if val == 1 then s1.beginStop part else s1
  | 0x30 => s.setPart part { p with stopStatus := val }
  | 0x38 => s.setPart part { p with dirtyBase := val &&& 0xFFFFFFFFFFFFFFC0 }
  | 0x40 => s.setPart part { p with dirtyCap := val }
  | _ => s

/-! ### Registers of BAR 0 (R397, R398, R400) -/

/-- Eight bytes written to the recovery window, which is open in state 3 only (R397, R402). -/
def State.windowWrite (s : State) (at_ : Nat) (val : DWord) : State :=
  if s.boot.state != 3 then s
  else
    let bytes := (bytesOf 8 val.toNat).mapIdx fun k b => (k, b)
    { s with boot := { s.boot with window := bytes.foldl (fun w x => Tbl.set 0 w (at_ + x.1) x.2) s.boot.window } }

/-- Eight bytes written to the MSI-X table and pending-bit array (R395, R397: no layout and no effect on the messages is stated; log entry 81). -/
def State.msixWrite (s : State) (at_ : Nat) (val : DWord) : State :=
  { s with regs := { s.regs with msixTable := Mem.writeN s.regs.msixTable at_ 8 val.toNat } }

/-- REGISTER_WRITE (R4, R397): a write to a register without a behaviour of its own is kept in its writable bits; one to a reserved offset is
discarded. -/
def execRegisterWrite (offset : Nat) (val : DWord) (s : State) : Host.Outcome State Fault Refusal :=
  .next (
    if 0x10000 ≤ offset && offset < 0x20000 then s.blockWrite (offset / 4096 - 16) (offset % 4096) val
    else if 0x100000 ≤ offset && offset < 0x200000 then s.msixWrite (offset - 0x100000) val
    else if 0x1000000 ≤ offset && offset < 0x2000000 then s.windowWrite (offset - 0x1000000) val
    else match offset with
      | 0x1000 => { s with regs := { s.regs with astbase := val &&& 0x003FFFFFFFFFF000 } }
      | 0x1008 => { s with regs := { s.regs with invaddr := val &&& 0x0007FFFFFFFF0000 } }
      | 0x3010 => { s with regs := { s.regs with fabdata := val } }
      | 0x3020 => { s with regs := { s.regs with qoscfg := val &&& 0x80000000000007FF } }
      | _ => s)

/-- ORPHTH (R400): applies to waits that begin after the write; a value outside 1 to 10,000 acts as the nearer limit. -/
def execOrphth (val : Word) (s : State) : Host.Outcome State Fault Refusal := .next { s with regs := { s.regs with orphth := val } }

/-- QOSP50 (R400): bits written as 1 are cleared. -/
def execQosp50 (val : DWord) (s : State) : Host.Outcome State Fault Refusal :=
  .next { s with regs := { s.regs with qosp50 := s.regs.qosp50 &&& ~~~val } }
/-- QOSP99 (R400): bits written as 1 are cleared. -/
def execQosp99 (val : DWord) (s : State) : Host.Outcome State Fault Refusal :=
  .next { s with regs := { s.regs with qosp99 := s.regs.qosp99 &&& ~~~val } }

/-! ### Security (R404, R405) -/

/-- SPDM_REQUEST (R404): the device answers from its identity and what its measurements cover; a KEY_EXCHANGE session supplies the IDE keys. -/
def execSpdmRequest (req : List Byte) (s : State) : Host.Outcome State Fault Refusal :=
  .next (
    if s.boot.state != 2 then s
    else { s with boot := { s.boot with
      answers := s.boot.answers ++ [Config.spdmAnswer s.ticks (s.boot.seed ++ Config.romAndFuses ++ s.boot.flash ++ bytesOf 4 s.boot.rollback.toNat) req]
      ideKeys := (Config.sessionKeys s.ticks req).getD s.boot.ideKeys } })

/-- TDISP_TRANSITION (R405): to CONFIG_UNLOCKED or ERROR, the tenant stops first; other transitions take place at once. -/
def execTdispTransition (vf : Nat) (st : TdiState) (s : State) : Host.Outcome State Fault Refusal :=
  .next (
    if vf == 0 || 256 ≤ vf then s
    else if st == .locked || st == .run then s.setTdi vf st
    else match (List.range 16).find? fun p => bitsOf (s.part p).cfg.toNat 55 8 == vf with
      | none => s.setTdi vf st
      | some p => ({ s with boot := { s.boot with tdiNext := s.boot.tdiNext ++ [(vf, st)] } }).beginStop p)

/-! ### The link and the module (R12, R143, R396) -/

/-- CXL_PORT_FAILURE (R50, R396): the port's range is unbacked from now on, and no translation into it is held. -/
def execCxlPortFailure (port : Nat) (s : State) : Host.Outcome State Fault Refusal :=
  .next (
    if 8 ≤ port then s
    else
      let s1 := { s with cxlBacked := Tbl.set 0 s.cxlBacked port 0 }
      let stays := fun (e : DWord) => !s1.isLocal (pteFrame e * 65536) || s1.backed (paLocal (pteFrame e * 65536))
      { s1 with tlb := s1.tlb.filter fun t => stays t.pte, walks := s1.walks.filter fun w => stays w.pte })

/-- The completion of a host read: its bytes, with the indication of poisoned data where a word of them is poisoned (R143, R395). -/
def State.completion (s : State) (pa n : Nat) : List Completion :=
  (List.range n).map fun k => ⟨BitVec.ofNat 64 (pa + k), BitVec.ofNat 8 (s.readPA (pa + k) 1), s.poisonedPA pa n⟩

/-- HOST_MEMORY_ACCESS (R140, R142, R143): a write stores its bytes; a read completes with them, one of poison with the indication, which the Sheaf logs. -/
def execHostMemoryAccess (data : Option (List Byte)) (pa n : Nat) (s : State) : Host.Outcome State Fault Refusal :=
  let len := match data with | some l => l.length | none => n
  .next (
    if len == 0 || !s.backed (paLocal pa) || !s.backed (paLocal pa + len - 1) then s
    else match data with
      | some l => { s with mem := Mem.writeBytes s.mem (paLocal pa) l, memPoison := poisonAfter s.memPoison (paLocal pa) len false }
      | none =>
        let s1 := { s with hostReads := s.hostReads ++ s.completion pa len }
        if s.poisonedPA pa len then s1.sheafNote 6 (paLocal pa) else s1)

/-- PLATE_SENSOR_LIMIT (R12, R329): the ramp rate falls, by how much is open, and the host receives an event. -/
def execPlateSensorLimit (s : State) : Host.Outcome State Fault Refusal :=
  let r := s.regs.ramp
  .next { s with
    regs := { s.regs with ramp := if r ≤ 1 then r else 1 + Config.rampAfterSensor s.ticks % (r - 1) }
    hostEvents := s.hostEvents ++ [1] }

end Sys2Proof.Machine
end

