-- ==== Sys2Proof/Machine/Int.lean ====
section
/-! DEFINITION. The meanings of the integer, predicate, lane and constant instructions (R31, R168 to R182): each is its effect in IntEff.lean,
issued by the group that `cur` names. -/

namespace Sys2Proof.Machine

/-- A register instruction issued (R40, R147, R158). -/
def runReg (i : Instr) (s : State) (eff : Group → Mask → Except Trap Eff) : Host.Outcome State Fault Refusal :=
  issue i s fun c => c.runEff i eff

/-- NOP (R31): no effect. -/
def execNop (s : Bool) (st : State) : Host.Outcome State Fault Refusal := issue (.nop s) st fun c => c.done (.nop s) c.s

/-- IADD (R169). -/
def execIadd (h : Hdr) (vd va : BitVec 6) (pa : BitVec 2) (vb : BitVec 6) (pb : BitVec 2) (s : State) : Host.Outcome State Fault Refusal :=
  runReg (.iadd h vd va pa vb pb) s fun g act => effIadd g act h vd va pa vb pb

/-- ISUB (R169). -/
def execIsub (h : Hdr) (vd va : BitVec 6) (pa : BitVec 2) (vb : BitVec 6) (pb : BitVec 2) (s : State) : Host.Outcome State Fault Refusal :=
  runReg (.isub h vd va pa vb pb) s fun g act => effIsub g act h vd va pa vb pb

/-- IMUL (R169). -/
def execImul (h : Hdr) (vd va : BitVec 6) (pa : BitVec 2) (vb : BitVec 6) (pb : BitVec 2) (s : State) : Host.Outcome State Fault Refusal :=
  runReg (.imul h vd va pa vb pb) s fun g act => effImul g act h vd va pa vb pb

/-- IMULH (R169). -/
def execImulh (h : Hdr) (vd va : BitVec 6) (pa : BitVec 2) (vb : BitVec 6) (pb : BitVec 2) (s : State) : Host.Outcome State Fault Refusal :=
  runReg (.imulh h vd va pa vb pb) s fun g act => effImulh g act h vd va pa vb pb

/-- IMULHU (R169). -/
def execImulhu (h : Hdr) (vd va : BitVec 6) (pa : BitVec 2) (vb : BitVec 6) (pb : BitVec 2) (s : State) : Host.Outcome State Fault Refusal :=
  runReg (.imulhu h vd va pa vb pb) s fun g act => effImulhu g act h vd va pa vb pb

/-- IMAD (R170). -/
def execImad (h : Hdr) (vd va vb : BitVec 6) (vc : BitVec 4) (s : State) : Host.Outcome State Fault Refusal :=
  runReg (.imad h vd va vb vc) s fun g act => effImad g act h vd va vb vc

/-- IADDI (R171). -/
def execIaddi (h : Hdr) (vd va : BitVec 6) (imm : BitVec 10) (s : State) : Host.Outcome State Fault Refusal :=
  runReg (.iaddi h vd va imm) s fun g act => effIaddi g act h vd va imm

/-- AND (R169). -/
def execAnd (h : Hdr) (vd va : BitVec 6) (pa : BitVec 2) (vb : BitVec 6) (pb : BitVec 2) (s : State) : Host.Outcome State Fault Refusal :=
  runReg (.and h vd va pa vb pb) s fun g act => effAnd g act h vd va pa vb pb

/-- OR (R169). -/
def execOr (h : Hdr) (vd va : BitVec 6) (pa : BitVec 2) (vb : BitVec 6) (pb : BitVec 2) (s : State) : Host.Outcome State Fault Refusal :=
  runReg (.or h vd va pa vb pb) s fun g act => effOr g act h vd va pa vb pb

/-- XOR (R169). -/
def execXor (h : Hdr) (vd va : BitVec 6) (pa : BitVec 2) (vb : BitVec 6) (pb : BitVec 2) (s : State) : Host.Outcome State Fault Refusal :=
  runReg (.xor h vd va pa vb pb) s fun g act => effXor g act h vd va pa vb pb

/-- ANDI (R171). -/
def execAndi (h : Hdr) (vd va : BitVec 6) (imm : BitVec 10) (s : State) : Host.Outcome State Fault Refusal :=
  runReg (.andi h vd va imm) s fun g act => effAndi g act h vd va imm

/-- ORI (R171). -/
def execOri (h : Hdr) (vd va : BitVec 6) (imm : BitVec 10) (s : State) : Host.Outcome State Fault Refusal :=
  runReg (.ori h vd va imm) s fun g act => effOri g act h vd va imm

/-- XORI (R171). -/
def execXori (h : Hdr) (vd va : BitVec 6) (imm : BitVec 10) (s : State) : Host.Outcome State Fault Refusal :=
  runReg (.xori h vd va imm) s fun g act => effXori g act h vd va imm

/-- SHF (R172). -/
def execShf (h : Hdr) (vd va vb : BitVec 6) (op : ShfOp) (s : State) : Host.Outcome State Fault Refusal :=
  runReg (.shf h vd va vb op) s fun g act => effShf g act h vd va vb op

/-- SHFI (R172). -/
def execShfi (h : Hdr) (vd va : BitVec 6) (op : ShfOp) (amount : BitVec 5) (s : State) : Host.Outcome State Fault Refusal :=
  runReg (.shfi h vd va op amount) s fun g act => effShfi g act h vd va op amount

/-- MINMAX (R173). -/
def execMinmax (h : Hdr) (vd va vb : BitVec 6) (op : MinMaxOp) (s : State) : Host.Outcome State Fault Refusal :=
  runReg (.minmax h vd va vb op) s fun g act => effMinmax g act h vd va vb op

/-- UNARY (R173). -/
def execUnary (h : Hdr) (vd va : BitVec 6) (op : UnaryOp) (s : State) : Host.Outcome State Fault Refusal :=
  runReg (.unary h vd va op) s fun g act => effUnary g act h vd va op

/-- BFE (R174). -/
def execBfe (h : Hdr) (vd va vb : BitVec 6) (op : BfeOp) (s : State) : Host.Outcome State Fault Refusal :=
  runReg (.bfe h vd va vb op) s fun g act => effBfe g act h vd va vb op

/-- BFI (R174). -/
def execBfi (h : Hdr) (vd va vb : BitVec 6) (vc : BitVec 4) (s : State) : Host.Outcome State Fault Refusal :=
  runReg (.bfi h vd va vb vc) s fun g act => effBfi g act h vd va vb vc

/-- SEL (R176). -/
def execSel (h : Hdr) (vd va vb : BitVec 6) (p : BitVec 3) (inv : Bool) (s : State) : Host.Outcome State Fault Refusal :=
  runReg (.sel h vd va vb p inv) s fun g act => effSel g act h vd va vb p inv

/-- ICMP (R177). -/
def execIcmp (h : Hdr) (pd : BitVec 3) (cond : ICond) (va vb : BitVec 6) (pacc : BitVec 3) (comb : Bool) (s : State) : Host.Outcome State Fault Refusal :=
  runReg (.icmp h pd cond va vb pacc comb) s fun g act => effIcmp g act h pd cond va vb pacc comb

/-- ICMPI (R177). -/
def execIcmpi (h : Hdr) (pd : BitVec 3) (cond : ICond) (va : BitVec 6) (imm : BitVec 10) (s : State) : Host.Outcome State Fault Refusal :=
  runReg (.icmpi h pd cond va imm) s fun g act => effIcmpi g act h pd cond va imm

/-- PCOMB (R178). -/
def execPcomb (h : Hdr) (pd pa pb : BitVec 3) (op : PcombOp) (s : State) : Host.Outcome State Fault Refusal :=
  runReg (.pcomb h pd pa pb op) s fun g act => effPcomb g act h pd pa pb op

/-- MOV (R179). -/
def execMov (h : Hdr) (vd va : BitVec 6) (pa : BitVec 2) (s : State) : Host.Outcome State Fault Refusal :=
  runReg (.mov h vd va pa) s fun g act => effMov g act h vd va pa

/-- MOVI (R179). -/
def execMovi (h : Hdr) (vd : BitVec 6) (imm : BitVec 16) (s : State) : Host.Outcome State Fault Refusal :=
  runReg (.movi h vd imm) s fun g act => effMovi g act h vd imm

/-- MOVHI (R179). -/
def execMovhi (h : Hdr) (vd : BitVec 6) (imm : BitVec 16) (s : State) : Host.Outcome State Fault Refusal :=
  runReg (.movhi h vd imm) s fun g act => effMovhi g act h vd imm

/-- LI (R179). -/
def execLi (h : Hdr) (vd : BitVec 6) (lit : Word) (s : State) : Host.Outcome State Fault Refusal :=
  runReg (.li h vd lit) s fun g act => effLi g act h vd lit

/-- VOTE (R180). -/
def execVote (h : Hdr) (vd : BitVec 6) (p : BitVec 3) (kind : VoteKind) (s : State) : Host.Outcome State Fault Refusal :=
  runReg (.vote h vd p kind) s fun g act => effVote g act vd p kind

/-- SHFL (R181). -/
def execShfl (h : Hdr) (vd va vb : BitVec 6) (pb : BitVec 2) (s : State) : Host.Outcome State Fault Refusal :=
  runReg (.shfl h vd va vb pb) s fun g act => effShfl g act vd va vb pb

/-- INT64 (R175). -/
def execInt64 (h : Hdr) (vd va vb : BitVec 6) (op : Int64Op) (s : State) : Host.Outcome State Fault Refusal :=
  runReg (.int64 h vd va vb op) s fun g act => effInt64 g act h vd va vb op

/-- REDUX (R182). -/
def execRedux (h : Hdr) (vd va : BitVec 6) (op : ReduxOp) (s : State) : Host.Outcome State Fault Refusal :=
  runReg (.redux h vd va op) s fun g act => effRedux g act vd va op

end Sys2Proof.Machine
end

