-- ==== Sys2Proof/Machine/Fp.lean ====
section
/-! DEFINITION. The meanings of the floating, packed, conversion and dot-product instructions (R212 to R229): each is its effect in FpEff.lean. -/

namespace Sys2Proof.Machine

/-- FMTSET's effect (R229): the lowest active lane's word, which must be valid (R199) and free of poison. -/
def effFmtset (g : Group) (act : Mask) (fd : BitVec 2) (va : BitVec 6) : Except Trap Eff :=
  let l := act.lowest.getD 0
  let wd := g.src0 va l
  if wd.2 then .error ⟨Cause.poison, l⟩
  else if !fmtValid wd.1 then .error ⟨Cause.badForm, wd.1.toNat⟩
  else .ok ⟨[.f fd wd.1], []⟩

/-- FADD (R215). -/
def execFadd (h : Hdr) (vd va : BitVec 6) (pa : BitVec 2) (vb : BitVec 6) (pb : BitVec 2) (s : State) : Host.Outcome State Fault Refusal :=
  runReg (.fadd h vd va pa vb pb) s fun g act => effFadd g act h vd va pa vb pb

/-- FSUB (R215). -/
def execFsub (h : Hdr) (vd va : BitVec 6) (pa : BitVec 2) (vb : BitVec 6) (pb : BitVec 2) (s : State) : Host.Outcome State Fault Refusal :=
  runReg (.fsub h vd va pa vb pb) s fun g act => effFsub g act h vd va pa vb pb

/-- FMUL (R215). -/
def execFmul (h : Hdr) (vd va : BitVec 6) (pa : BitVec 2) (vb : BitVec 6) (pb : BitVec 2) (s : State) : Host.Outcome State Fault Refusal :=
  runReg (.fmul h vd va pa vb pb) s fun g act => effFmul g act h vd va pa vb pb

/-- FMA (R215). -/
def execFma (h : Hdr) (vd va vb : BitVec 6) (vc : BitVec 4) (s : State) : Host.Outcome State Fault Refusal :=
  runReg (.fma h vd va vb vc) s fun g act => effFma g act h vd va vb vc

/-- FMAC (R215). -/
def execFmac (h : Hdr) (vd va : BitVec 6) (pa : BitVec 2) (vb : BitVec 6) (pb : BitVec 2) (s : State) : Host.Outcome State Fault Refusal :=
  runReg (.fmac h vd va pa vb pb) s fun g act => effFmac g act h vd va pa vb pb

/-- FMINMAX (R217). -/
def execFminmax (h : Hdr) (vd va vb : BitVec 6) (op : FMinMaxOp) (s : State) : Host.Outcome State Fault Refusal :=
  runReg (.fminmax h vd va vb op) s fun g act => effFminmax g act h vd va vb op

/-- FUN (R218 to R221). -/
def execFunc (h : Hdr) (vd va : BitVec 6) (op : FunOp) (s : State) : Host.Outcome State Fault Refusal :=
  runReg (.func h vd va op) s fun g act => effFunc g act h vd va op

/-- FCMP (R222). -/
def execFcmp (h : Hdr) (pd : BitVec 3) (cond : FCond) (va vb : BitVec 6) (pacc : BitVec 3) (comb : Bool) (s : State) : Host.Outcome State Fault Refusal :=
  runReg (.fcmp h pd cond va vb pacc comb) s fun g act => effFcmp g act h pd cond va vb pacc comb

/-- HADD2 (R214). -/
def execHadd2 (h : Hdr) (vd va : BitVec 6) (pa : BitVec 2) (vb : BitVec 6) (pb : BitVec 2) (s : State) : Host.Outcome State Fault Refusal :=
  runReg (.hadd2 h vd va pa vb pb) s fun g act => effHadd2 g act h vd va pa vb pb

/-- HMUL2 (R214). -/
def execHmul2 (h : Hdr) (vd va : BitVec 6) (pa : BitVec 2) (vb : BitVec 6) (pb : BitVec 2) (s : State) : Host.Outcome State Fault Refusal :=
  runReg (.hmul2 h vd va pa vb pb) s fun g act => effHmul2 g act h vd va pa vb pb

/-- HFMA2 (R214). -/
def execHfma2 (h : Hdr) (vd va vb : BitVec 6) (vc : BitVec 4) (s : State) : Host.Outcome State Fault Refusal :=
  runReg (.hfma2 h vd va vb vc) s fun g act => effHfma2 g act h vd va vb vc

/-- HFMAC2 (R214). -/
def execHfmac2 (h : Hdr) (vd va : BitVec 6) (pa : BitVec 2) (vb : BitVec 6) (pb : BitVec 2) (s : State) : Host.Outcome State Fault Refusal :=
  runReg (.hfmac2 h vd va pa vb pb) s fun g act => effHfmac2 g act h vd va pa vb pb

/-- CVT (R223, R224). -/
def execCvt (h : Hdr) (vd va : BitVec 6) (src dst : CvtTy) (rnd : Rnd) (s : State) : Host.Outcome State Fault Refusal :=
  runReg (.cvt h vd va src dst rnd) s fun g act => effCvt g act h vd va src dst rnd

/-- CVTN (R225). -/
def execCvtn (h : Hdr) (vd va : BitVec 6) (fmt : BitVec 2) (rnd : Rnd) (vb : BitVec 6) (s : State) : Host.Outcome State Fault Refusal :=
  runReg (.cvtn h vd va fmt rnd vb) s fun g act => effCvtn g act h vd va fmt rnd vb

/-- CVTW (R225, R226). -/
def execCvtw (h : Hdr) (vd va : BitVec 6) (fmt : BitVec 2) (rnd : Rnd) (vb : BitVec 6) (s : State) : Host.Outcome State Fault Refusal :=
  runReg (.cvtw h vd va fmt rnd vb) s fun g act => effCvtw g act h vd va fmt rnd vb

/-- FSCALE (R215). -/
def execFscale (h : Hdr) (vd va : BitVec 6) (pa : BitVec 2) (vb : BitVec 6) (pb : BitVec 2) (s : State) : Host.Outcome State Fault Refusal :=
  runReg (.fscale h vd va pa vb pb) s fun g act => effFscale g act h vd va pa vb pb

/-- FREDUX (R228). -/
def execFredux (h : Hdr) (vd va : BitVec 6) (op : FReduxOp) (s : State) : Host.Outcome State Fault Refusal :=
  runReg (.fredux h vd va op) s fun g act => effFredux g act vd va op

/-- FMTSET (R229). -/
def execFmtset (h : Hdr) (fd : BitVec 2) (va : BitVec 6) (s : State) : Host.Outcome State Fault Refusal :=
  runReg (.fmtset h fd va) s fun g act => effFmtset g act fd va

/-- DOT4S (R215). -/
def execDot4s (h : Hdr) (vd va : BitVec 6) (pa : BitVec 2) (vb : BitVec 6) (pb : BitVec 2) (s : State) : Host.Outcome State Fault Refusal :=
  runReg (.dot4s h vd va pa vb pb) s fun g act => effDot4s g act h vd va pa vb pb

/-- DOT4U (R215). -/
def execDot4u (h : Hdr) (vd va : BitVec 6) (pa : BitVec 2) (vb : BitVec 6) (pb : BitVec 2) (s : State) : Host.Outcome State Fault Refusal :=
  runReg (.dot4u h vd va pa vb pb) s fun g act => effDot4u g act h vd va pa vb pb

end Sys2Proof.Machine
end

