-- ==== Sys2Proof/Machine/Dispatch.lean ====
section
/-! DEFINITION. The dispatch of exec: one arm per row of the opcode table, each a direct call of the row's meaning. -/

namespace Sys2Proof.Machine

/-- The effect of one row of the opcode table on the state; an instruction acts for the path that `cur` names. -/
def exec (i : Instr) (s : State) : Host.Outcome State Fault Refusal :=
  match i with
  | .nop sb => Sys2Proof.Machine.execNop sb s
  | .iadd h vd va pa vb pb => Sys2Proof.Machine.execIadd h vd va pa vb pb s
  | .isub h vd va pa vb pb => Sys2Proof.Machine.execIsub h vd va pa vb pb s
  | .imul h vd va pa vb pb => Sys2Proof.Machine.execImul h vd va pa vb pb s
  | .imulh h vd va pa vb pb => Sys2Proof.Machine.execImulh h vd va pa vb pb s
  | .imulhu h vd va pa vb pb => Sys2Proof.Machine.execImulhu h vd va pa vb pb s
  | .imad h vd va vb vc => Sys2Proof.Machine.execImad h vd va vb vc s
  | .iaddi h vd va imm => Sys2Proof.Machine.execIaddi h vd va imm s
  | .and h vd va pa vb pb => Sys2Proof.Machine.execAnd h vd va pa vb pb s
  | .or h vd va pa vb pb => Sys2Proof.Machine.execOr h vd va pa vb pb s
  | .xor h vd va pa vb pb => Sys2Proof.Machine.execXor h vd va pa vb pb s
  | .andi h vd va imm => Sys2Proof.Machine.execAndi h vd va imm s
  | .ori h vd va imm => Sys2Proof.Machine.execOri h vd va imm s
  | .xori h vd va imm => Sys2Proof.Machine.execXori h vd va imm s
  | .shf h vd va vb op => Sys2Proof.Machine.execShf h vd va vb op s
  | .shfi h vd va op amount => Sys2Proof.Machine.execShfi h vd va op amount s
  | .minmax h vd va vb op => Sys2Proof.Machine.execMinmax h vd va vb op s
  | .unary h vd va op => Sys2Proof.Machine.execUnary h vd va op s
  | .bfe h vd va vb op => Sys2Proof.Machine.execBfe h vd va vb op s
  | .bfi h vd va vb vc => Sys2Proof.Machine.execBfi h vd va vb vc s
  | .sel h vd va vb p inv => Sys2Proof.Machine.execSel h vd va vb p inv s
  | .icmp h pd cond va vb pacc comb => Sys2Proof.Machine.execIcmp h pd cond va vb pacc comb s
  | .icmpi h pd cond va imm => Sys2Proof.Machine.execIcmpi h pd cond va imm s
  | .pcomb h pd pa pb op => Sys2Proof.Machine.execPcomb h pd pa pb op s
  | .mov h vd va pa => Sys2Proof.Machine.execMov h vd va pa s
  | .movi h vd imm => Sys2Proof.Machine.execMovi h vd imm s
  | .movhi h vd imm => Sys2Proof.Machine.execMovhi h vd imm s
  | .li h vd lit => Sys2Proof.Machine.execLi h vd lit s
  | .vote h vd p kind => Sys2Proof.Machine.execVote h vd p kind s
  | .shfl h vd va vb pb => Sys2Proof.Machine.execShfl h vd va vb pb s
  | .int64 h vd va vb op => Sys2Proof.Machine.execInt64 h vd va vb op s
  | .redux h vd va op => Sys2Proof.Machine.execRedux h vd va op s
  | .fadd h vd va pa vb pb => Sys2Proof.Machine.execFadd h vd va pa vb pb s
  | .fsub h vd va pa vb pb => Sys2Proof.Machine.execFsub h vd va pa vb pb s
  | .fmul h vd va pa vb pb => Sys2Proof.Machine.execFmul h vd va pa vb pb s
  | .fma h vd va vb vc => Sys2Proof.Machine.execFma h vd va vb vc s
  | .fmac h vd va pa vb pb => Sys2Proof.Machine.execFmac h vd va pa vb pb s
  | .fminmax h vd va vb op => Sys2Proof.Machine.execFminmax h vd va vb op s
  | .func h vd va op => Sys2Proof.Machine.execFunc h vd va op s
  | .fcmp h pd cond va vb pacc comb => Sys2Proof.Machine.execFcmp h pd cond va vb pacc comb s
  | .hadd2 h vd va pa vb pb => Sys2Proof.Machine.execHadd2 h vd va pa vb pb s
  | .hmul2 h vd va pa vb pb => Sys2Proof.Machine.execHmul2 h vd va pa vb pb s
  | .hfma2 h vd va vb vc => Sys2Proof.Machine.execHfma2 h vd va vb vc s
  | .hfmac2 h vd va pa vb pb => Sys2Proof.Machine.execHfmac2 h vd va pa vb pb s
  | .cvt h vd va src dst rnd => Sys2Proof.Machine.execCvt h vd va src dst rnd s
  | .cvtn h vd va fmt rnd vb => Sys2Proof.Machine.execCvtn h vd va fmt rnd vb s
  | .cvtw h vd va fmt rnd vb => Sys2Proof.Machine.execCvtw h vd va fmt rnd vb s
  | .fscale h vd va pa vb pb => Sys2Proof.Machine.execFscale h vd va pa vb pb s
  | .fredux h vd va op => Sys2Proof.Machine.execFredux h vd va op s
  | .fmtset h fd va => Sys2Proof.Machine.execFmtset h fd va s
  | .dot4s h vd va pa vb pb => Sys2Proof.Machine.execDot4s h vd va pa vb pb s
  | .dot4u h vd va pa vb pb => Sys2Proof.Machine.execDot4u h vd va pa vb pb s
  | .aset h an vq => Sys2Proof.Machine.execAset h an vq s
  | .aadvPair h an vp => Sys2Proof.Machine.execAadvPair h an vp s
  | .aadvImm h an imm => Sys2Proof.Machine.execAadvImm h an imm s
  | .aget h vd an sel => Sys2Proof.Machine.execAget h vd an sel s
  | .anarrow h ad as vp clr => Sys2Proof.Machine.execAnarrow h ad as vp clr s
  | .ldB h vt m => Sys2Proof.Machine.execLdB h vt m s
  | .ldH h vt m => Sys2Proof.Machine.execLdH h vt m s
  | .ldW h vt m => Sys2Proof.Machine.execLdW h vt m s
  | .ldD h vt m => Sys2Proof.Machine.execLdD h vt m s
  | .ldQ h vt m => Sys2Proof.Machine.execLdQ h vt m s
  | .stB h vt m => Sys2Proof.Machine.execStB h vt m s
  | .stH h vt m => Sys2Proof.Machine.execStH h vt m s
  | .stW h vt m => Sys2Proof.Machine.execStW h vt m s
  | .stD h vt m => Sys2Proof.Machine.execStD h vt m s
  | .stQ h vt m => Sys2Proof.Machine.execStQ h vt m s
  | .ldkW h vt an vo nt => Sys2Proof.Machine.execLdkW h vt an vo nt s
  | .ldkD h vt an vo nt => Sys2Proof.Machine.execLdkD h vt an vo nt s
  | .ldl h vt vo sz imm => Sys2Proof.Machine.execLdl h vt vo sz imm s
  | .stl h vt vo sz imm => Sys2Proof.Machine.execStl h vt vo sz imm s
  | .atom h vt m op dw vs => Sys2Proof.Machine.execAtom h vt m op dw vs s
  | .atoml h vt vo order nt op dw vs => Sys2Proof.Machine.execAtoml h vt vo order nt op dw vs s
  | .red h m op dw vs => Sys2Proof.Machine.execRed h m op dw vs s
  | .cas h vt m dw vc vn => Sys2Proof.Machine.execCas h vt m dw vc vn s
  | .fence h kind scope => Sys2Proof.Machine.execFence h kind scope s
  | .pref h target an vo nt => Sys2Proof.Machine.execPref h target an vo nt s
  | .cctl h op an => Sys2Proof.Machine.execCctl h op an s
  | .qsub h vd vo imm => Sys2Proof.Machine.execQsub h vd vo imm s
  | .cbinit h vp vo imm => Sys2Proof.Machine.execCbinit h vp vo imm s
  | .cbwait h vo imm => Sys2Proof.Machine.execCbwait h vo imm s
  | .sleepuntil h vp => Sys2Proof.Machine.execSleepuntil h vp s
  | .sleepuntilChk h vp vo imm => Sys2Proof.Machine.execSleepuntilChk h vp vo imm s
  | .publish h an => Sys2Proof.Machine.execPublish h an s
  | .accst h an t ty rnd va => Sys2Proof.Machine.execAccst h an t ty rnd va s
  | .accld h an t ty va => Sys2Proof.Machine.execAccld h an t ty va s
  | .obres h vd ob vp => Sys2Proof.Machine.execObres h vd ob vp s
  | .obrel h ob => Sys2Proof.Machine.execObrel h ob s
  | .bres h vd b vp => Sys2Proof.Machine.execBres h vd b vp s
  | .brel h b => Sys2Proof.Machine.execBrel h b s
  | .mxloop h t ob b vq sp z kc n mob => Sys2Proof.Machine.execMxloop h t ob b vq sp z kc n mob s
  | .mxwait h => Sys2Proof.Machine.execMxwait h s
  | .accz h t => Sys2Proof.Machine.execAccz h t s
  | .acczFree h t => Sys2Proof.Machine.execAcczFree h t s
  | .accrd h vd t ty rnd va => Sys2Proof.Machine.execAccrd h vd t ty rnd va s
  | .accwr h vs t ty add va => Sys2Proof.Machine.execAccwr h vs t ty add va s
  | .mxfrz h => Sys2Proof.Machine.execMxfrz h s
  | .mxfrzThaw h => Sys2Proof.Machine.execMxfrzThaw h s
  | .mxsta h vq => Sys2Proof.Machine.execMxsta h vq s
  | .mkrcp h vd n => Sys2Proof.Machine.execMkrcp h vd n s
  | .rmat h vd => Sys2Proof.Machine.execRmat h vd s
  | .rmatAll h => Sys2Proof.Machine.execRmatAll h s
  | .rstat h vd va => Sys2Proof.Machine.execRstat h vd va s
  | .scopeOpen h vlo vhi => Sys2Proof.Machine.execScopeOpen h vlo vhi s
  | .scopeClose h => Sys2Proof.Machine.execScopeClose h s
  | .bra h p inv off rpo => Sys2Proof.Machine.execBra h p inv off rpo s
  | .jmp h off => Sys2Proof.Machine.execJmp h off s
  | .call h off fs => Sys2Proof.Machine.execCall h off fs s
  | .calli h vp tag fs => Sys2Proof.Machine.execCalli h vp tag fs s
  | .jmpi h vp tag => Sys2Proof.Machine.execJmpi h vp tag s
  | .jmpiDesc h vp tag an => Sys2Proof.Machine.execJmpiDesc h vp tag an s
  | .ret h => Sys2Proof.Machine.execRet h s
  | .pad h tag => Sys2Proof.Machine.execPad h tag s
  | .rjoinSet h j => Sys2Proof.Machine.execRjoinSet h j s
  | .rjoinAdd h j => Sys2Proof.Machine.execRjoinAdd h j s
  | .rjoinWait h j => Sys2Proof.Machine.execRjoinWait h j s
  | .exit h => Sys2Proof.Machine.execExit h s
  | .bar h lvl => Sys2Proof.Machine.execBar h lvl s
  | .waitSleep h imm => Sys2Proof.Machine.execWaitSleep h imm s
  | .waitYield h => Sys2Proof.Machine.execWaitYield h s
  | .loop h vc n => Sys2Proof.Machine.execLoop h vc n s
  | .henter h vd an nres mask => Sys2Proof.Machine.execHenter h vd an nres mask s
  | .hstore h sz vs an vo => Sys2Proof.Machine.execHstore h sz vs an vo s
  | .hexit h => Sys2Proof.Machine.execHexit h s
  | .habort h => Sys2Proof.Machine.execHabort h s
  | .mark h tag off => Sys2Proof.Machine.execMark h tag off s
  | .cut h tag vd regmask => Sys2Proof.Machine.execCut h tag vd regmask s
  | .graft h vh => Sys2Proof.Machine.execGraft h vh s
  | .unmark h tag => Sys2Proof.Machine.execUnmark h tag s
  | .tdrop h vh => Sys2Proof.Machine.execTdrop h vh s
  | .tinfo h vd vh => Sys2Proof.Machine.execTinfo h vd vh s
  | .launch h vp prio => Sys2Proof.Machine.execLaunch h vp prio s
  | .mfs h vd sr => Sys2Proof.Machine.execMfs h vd sr s
  | .mts h vd sr => Sys2Proof.Machine.execMts h vd sr s
  | .trap h imm => Sys2Proof.Machine.execTrap h imm s
  | .tret h => Sys2Proof.Machine.execTret h s
  | .icinv h an => Sys2Proof.Machine.execIcinv h an s
  | .icinvAll h => Sys2Proof.Machine.execIcinvAll h s
  | .bkpt h imm => Sys2Proof.Machine.execBkpt h imm s
  | .pageWalk asid va write => Sys2Proof.Machine.execPageWalk asid va write s
  | .demandFault n pick => Sys2Proof.Machine.execDemandFault n pick s
  | .operandLogReplay g => Sys2Proof.Machine.execOperandLogReplay g s
  | .orphanThreshold g => Sys2Proof.Machine.execOrphanThreshold g s
  | .migration asid va frame => Sys2Proof.Machine.execMigration asid va frame s
  | .copyChunk core => Sys2Proof.Machine.execCopyChunk core s
  | .cbwaitWake g => Sys2Proof.Machine.execCbwaitWake g s
  | .sleepuntilWake g => Sys2Proof.Machine.execSleepuntilWake g s
  | .sleepExpiry g slotB => Sys2Proof.Machine.execSleepExpiry g slotB s
  | .publishFlip g => Sys2Proof.Machine.execPublishFlip g s
  | .heartbeatTick => Sys2Proof.Machine.execHeartbeatTick s
  | .patrolScrub word errors => Sys2Proof.Machine.execPatrolScrub word errors s
  | .idle port f => Sys2Proof.Machine.execIdle port f s
  | .write port f => Sys2Proof.Machine.execWrite port f s
  | .read port f => Sys2Proof.Machine.execRead port f s
  | .atomic port f => Sys2Proof.Machine.execAtomic port f s
  | .readResp port f => Sys2Proof.Machine.execReadResp port f s
  | .atomicResp port f => Sys2Proof.Machine.execAtomicResp port f s
  | .ack port f => Sys2Proof.Machine.execAck port f s
  | .bulk port f => Sys2Proof.Machine.execBulk port f s
  | .nak port f => Sys2Proof.Machine.execNak port f s
  | .drain port f => Sys2Proof.Machine.execDrain port f s
  | .drainAck port f => Sys2Proof.Machine.execDrainAck port f s
  | .replayTimeout port => Sys2Proof.Machine.execReplayTimeout port s
  | .portRetrain port failures => Sys2Proof.Machine.execPortRetrain port failures s
  | .routeUpdate dest entry => Sys2Proof.Machine.execRouteUpdate dest entry s
  | .matrixWorkBegin g => Sys2Proof.Machine.execMatrixWorkBegin g s
  | .matrixBlock g => Sys2Proof.Machine.execMatrixBlock g s
  | .acczClaim g => Sys2Proof.Machine.execAcczClaim g s
  | .registerFold g vd => Sys2Proof.Machine.execRegisterFold g vd s
  | .registerUnspill g vd => Sys2Proof.Machine.execRegisterUnspill g vd s
  | .podBarrierUpdate team => Sys2Proof.Machine.execPodBarrierUpdate team s
  | .podBarrierRelease team => Sys2Proof.Machine.execPodBarrierRelease team s
  | .launchComplete l => Sys2Proof.Machine.execLaunchComplete l s
  | .dispatchDecision core => Sys2Proof.Machine.execDispatchDecision core s
  | .launchAccept g => Sys2Proof.Machine.execLaunchAccept g s
  | .doorbell fn queue => Sys2Proof.Machine.execDoorbell fn queue s
  | .queueMap queue => Sys2Proof.Machine.execQueueMap queue s
  | .packetNop slot => Sys2Proof.Machine.execPacketNop slot s
  | .packetLaunch slot => Sys2Proof.Machine.execPacketLaunch slot s
  | .packetSignal slot => Sys2Proof.Machine.execPacketSignal slot s
  | .packetWait slot => Sys2Proof.Machine.execPacketWait slot s
  | .packetFence slot => Sys2Proof.Machine.execPacketFence slot s
  | .coreRevocation core => Sys2Proof.Machine.execCoreRevocation core s
  | .rescueTimeout part => Sys2Proof.Machine.execRescueTimeout part s
  | .stopRequest l => Sys2Proof.Machine.execStopRequest l s
  | .graceTimer l => Sys2Proof.Machine.execGraceTimer l s
  | .killTimer l => Sys2Proof.Machine.execKillTimer l s
  | .instructionHalt team => Sys2Proof.Machine.execInstructionHalt team s
  | .contextResume k core => Sys2Proof.Machine.execContextResume k core s
  | .coreStateError core group => Sys2Proof.Machine.execCoreStateError core group s
  | .latencyMonitor => Sys2Proof.Machine.execLatencyMonitor s
  | .huskCommit g => Sys2Proof.Machine.execHuskCommit g s
  | .henterWake g => Sys2Proof.Machine.execHenterWake g s
  | .huskOrphanRequest g => Sys2Proof.Machine.execHuskOrphanRequest g s
  | .holderReturn g => Sys2Proof.Machine.execHolderReturn g s
  | .huskPurge key => Sys2Proof.Machine.execHuskPurge key s
  | .tenantStop part => Sys2Proof.Machine.execTenantStop part s
  | .queueReset queue => Sys2Proof.Machine.execQueueReset queue s
  | .invcmd val => Sys2Proof.Machine.execInvcmd val s
  | .invalidationComplete => Sys2Proof.Machine.execInvalidationComplete s
  | .partcfg part val => Sys2Proof.Machine.execPartcfg part val s
  | .partquads part val => Sys2Proof.Machine.execPartquads part val s
  | .retrain val => Sys2Proof.Machine.execRetrain val s
  | .routewr val => Sys2Proof.Machine.execRoutewr val s
  | .routerd val => Sys2Proof.Machine.execRouterd val s
  | .orphth val => Sys2Proof.Machine.execOrphth val s
  | .qosp50 val => Sys2Proof.Machine.execQosp50 val s
  | .qosp99 val => Sys2Proof.Machine.execQosp99 val s
  | .fltrespReplay part val => Sys2Proof.Machine.execFltrespReplay part val s
  | .fltrespUnresolvable part val => Sys2Proof.Machine.execFltrespUnresolvable part val s
  | .fltcfg part val => Sys2Proof.Machine.execFltcfg part val s
  | .fltcons part val => Sys2Proof.Machine.execFltcons part val s
  | .registerWrite offset val => Sys2Proof.Machine.execRegisterWrite offset val s
  | .powerOnReset => Sys2Proof.Machine.execPowerOnReset s
  | .recov len => Sys2Proof.Machine.execRecov len s
  | .spdmRequest req => Sys2Proof.Machine.execSpdmRequest req s
  | .tdispTransition vf st => Sys2Proof.Machine.execTdispTransition vf st s
  | .cxlPortFailure port => Sys2Proof.Machine.execCxlPortFailure port s
  | .reservedMajor w => Sys2Proof.Machine.execReservedMajor w s
  | .fetchFault cause => Sys2Proof.Machine.execFetchFault cause s
  | .reservedPacket slot => Sys2Proof.Machine.execReservedPacket slot s
  | .crcFailure port => Sys2Proof.Machine.execCrcFailure port s
  | .flitSlot port => Sys2Proof.Machine.execFlitSlot port s
  | .fabcmd val => Sys2Proof.Machine.execFabcmd val s
  | .fltbase part val => Sys2Proof.Machine.execFltbase part val s
  | .hostSideReset => Sys2Proof.Machine.execHostSideReset s
  | .hostMemoryAccess data pa n => Sys2Proof.Machine.execHostMemoryAccess data pa n s
  | .plateSensorLimit => Sys2Proof.Machine.execPlateSensorLimit s

end Sys2Proof.Machine
end

