-- ==== Sys2Proof/Machine/Issue.lean ====
section
/-! DEFINITION. Which path issues, and what: the chain at a path's PC (R16 to R19) with the checks of decode (R32), what holds an instruction at
issue (R36, R61, R62, R127, R148, R247), and the moves that the package can make from a state. What is held changes when an instruction
issues, never what it does (log entry 20). -/

namespace Sys2Proof.Machine

/-! ### Issue of a path -/

/-- A scheduler grants a group's slot (R24, R282): the path waits for nothing any more, the group waits for its next grant from now on, and a YIELD of it is over. -/
def State.grant (s : State) (n : Nat) (k : SlotId) : State :=
  match s.group n with
  | none => s
  | some g => s.setGroup n { g.setSlot k ((g.slot k).map fun p => { p with wait := none }) with sched := ⟨s.cycle, s.ticks, k, none⟩ }

/-- What other packages have answered to the instruction at hand is dropped once it has issued, unless a path of the group or a regeneration in its log still waits for such
answers. -/
def Group.forgets (g : Group) : Group :=
  let waits := fun (p : Option Path) => (p.bind Path.wait).isSome
  if waits g.slotA || waits g.slotB || g.log.any (fun e => e.kind != .access) then g else { g with heard := [], kdata := [] }

/-- After an instruction of group n: its answers are dropped where no chain goes on; and what is no register instruction or LDK makes the group's later plain loads take nothing from
its L1 that was read before (R136, R257, R258). -/
def State.heed (s : State) (n : Nat) (i : Instr) : State :=
  match s.group n with
  | none => s
  | some g =>
    let g1 := if s.chain == 0 then g.forgets else g
    s.setGroup n (if inSlice i then g1 else { g1 with l1Since := s.ticks })

/-- An instruction of group n executed, and what follows it. -/
def execHeed (n : Nat) (i : Instr) (s : State) : Host.Outcome State Fault Refusal :=
  match exec i s with
  | .next s1 => .next (s1.heed n i)
  | x => x

/-- The chain of the path that `cur` names, fetched and decoded at a packet of the path's code section, issues. A later word of it on a page without X makes the whole chain
trap ADDR_PERM at its first word, before any member issues: the spec does not say (DESIGN CHOICE, log entry 80). -/
def State.issueChain (s : State) (c : Ctx) (base k : Nat) : Host.Outcome State Fault Refusal :=
  match c.fetchChain base 3 k s with
  | .noExec s1 => exec (.fetchFault .noExec) s1
  | .wait w s1 => .next (c.await s1 w)
  | .ok ms s1 =>
    match c.decodeChain base [] ms with
    | .illegal w => exec (.reservedMajor w) s1
    | .bad t => decodeTrap s1 t
    | .ok is =>
      if is.any c.heldBack then .next s1
      else
        let s2 := if 1 < is.length then (s1.prepareChain c.n c.act c.full is).fitRows c.n c.g.inRows else s1
        match is with
        | [] => .next s2
        | i :: rest => execHeed c.n i { s2 with chain := rest.length }

/-- A path issues (R16, R19): a deferred trap is delivered, a PC that cannot be fetched traps (one that is no multiple of 4 is at no word of a section:
log entry 57), or its chain issues. -/
def State.issuePath (s : State) (n : Nat) (k : SlotId) : Host.Outcome State Fault Refusal :=
  let s0 : State := { s.grant n k with cur := (n, k), chain := 0 }
  match s0.group n, (s0.group n).bind fun g => g.slot k with
  | some g, some p =>
    let c : Ctx := ⟨s0, n, k, g, p⟩
    let base := packetOf (s0.sectsOf g) p.pc.toNat
    let slot := (p.pc.toNat - base) / 4
    match g.deferredAt p with
    | some t => .next (s0.takeTrap n k t)
    | none =>
      if p.pc.toNat % 4 != 0 || (sectOf (s0.sectsOf g) p.pc.toNat).isNone then exec (.fetchFault .outside) s0
      else match c.secondWord base slot s0 with
        | .wait w s1 => .next (c.await s1 w)
        | .is true s1 => exec (.fetchFault .secondWord) s1
        | .is false s1 => s1.issueChain c base slot
  | _, _ => .next s0

/-- The next member of the chain that is issuing (R19), unless what the members before it have left holds it: it then issues by itself once nothing does. -/
def State.issueNext (s : State) : Host.Outcome State Fault Refusal :=
  match s.group s.cur.1, (s.group s.cur.1).bind fun g => g.slot s.cur.2 with
  | some g, some p =>
    let c : Ctx := ⟨s, s.cur.1, s.cur.2, g, p⟩
    let base := packetOf (s.sectsOf g) p.pc.toNat
    (match c.fetchChain base 1 ((p.pc.toNat - base) / 4) s with
    | .ok (m :: _) s1 =>
      (match m.decoded with
      | .ok i => if c.heldBack i then .next { s1 with chain := 0 } else execHeed c.n i { s1 with chain := s1.chain - 1 }
      | .error _ => .next { s1 with chain := 0 })
    | .ok [] s1 | .noExec s1 | .wait _ s1 => .next { s1 with chain := 0 })
  | _, _ => .next { s with chain := 0 }

/-! ### Between issues -/

/-- The group after R276; an MXWAIT sleeps on while the work it waits for goes on (R248). -/
def Group.between (g : Group) : Group :=
  let g1 := g.settle
  match g1.asleep with
  | some (.mxwait _) => if !g1.mxAwaited || (g1.mxFault.isSome && !g1.trap.level) then { g1 with asleep := none } else g1
  | _ => g1

/-- A deferred trap of R64 is delivered to a group whose slots are both empty, as at an issue from slot A. -/
def State.deliverDeferred (s : State) (n : Nat) (g : Group) : State :=
  match g.deferred with
  | some t => if t.df && g.slotA.isNone && g.slotB.isNone then s.takeTrap n .a t else s
  | none => s

/-- What a path waits for has come (R16, R43, R301). -/
def State.waitOver (s : State) (g : Group) : Option Wait → Bool
  | none => true
  | some (.sleep _) | some (.ask _ _) => false
  | some (.page va) => !s.faults.any fun f => f.asid == s.asidOf g && f.page == va / 65536
  | some (.remote tags) => !s.remote.any fun r => tags.contains r.tag

/-- A path of the capsule's lane, in the capsule or in a handler, while the husk unit has not answered or the orphan is not resolved (R359, R362, R365). -/
def Group.huskStalls (g : Group) (p : Path) : Bool :=
  match g.husk with
  | some h => (h.inside || h.adopt) && h.stalled && (g.active p).getLsbD h.lane
  | none => false

/-- A path may issue: nothing that it or its group waits for is outstanding (R24, R60, R301, R362), no GRAFT of the other slot has pinned its slots, and no halt takes it here
(R341), its team having started (R329) and its launch not being reset (R328). -/
def State.pathReady (s : State) (g : Group) (k : SlotId) : Bool :=
  match g.slot k with
  | none => false
  | some p =>
    !s.inKill g && ((s.teamOf g).map fun t => decide (t.started ≤ s.cycle)).getD true &&
    ((g.deferredAt p).isSome ||
    (g.asleep.isNone && s.waitOver g p.wait && !g.standsLogged k p && !g.huskStalls p && !((g.slot k.other).map Path.pinned).getD false &&
      !(s.mustHalt g && !p.pinned && g.deferred.isNone && (isPacket (s.sectsOf g) p.pc.toNat || (sectOf (s.sectsOf g) p.pc.toNat).isNone))))

/-- A group is eligible: one of its paths may issue. -/
def State.eligible (s : State) (g : Group) : Bool := s.pathReady g .a || s.pathReady g .b

/-- The word of code that a path of group n still has to ask another package for is asked for (R43). -/
def State.askFor (s : State) (n : Nat) (k : SlotId) : State :=
  match s.group n, (s.group n).bind fun g => g.slot k with
  | some g, some p =>
    (match p.wait with
    | some (.ask va pa) => (match (⟨s, n, k, g, p⟩ : Ctx).askWord s va pa with | .hold s1 => s1 | _ => s)
    | _ => s)
  | _, _ => s

/-- A group that is not eligible waits for a grant from now on only (R282), and will load nothing from its L1 that was read before (R136). -/
def State.markIdle (s : State) (n : Nat) (g : Group) : State :=
  if s.eligible g then s else s.setGroup n { g with sched := { g.sched with readyAt := s.cycle }, l1Since := s.ticks }

/-- One group settled: R276, a deferred trap, the array's row (R235), the places of its divergence entries (R278), the barriers of its team (R263, R280), the words that its paths
have to ask for, and whether it is eligible (R282). -/
def State.settleGroup (s : State) (n : Nat) (g : Group) : State :=
  let g1 := g.between
  let s1 := ((s.setGroup n g1).deliverDeferred n g1).respill n
  match s1.group n with
  | none => s1
  | some g2 =>
    let s2 := (((s1.arrayLine n g2).barriersTest g2.team).askFor n .a).askFor n .b
    match s2.group n with
    | none => s2
    | some g3 => s2.markIdle n g3

/-- Every group settled. -/
def State.settleAll (s : State) : State := s.resident.foldl (fun s e => match s.group e.1 with | some g => s.settleGroup e.1 g | none => s) s

/-! ### Moves -/

/-- What the package may do next: a path issues, an event of its own units happens, or a request to another package is lost: refused at its home, or
discarded on its way (R50, R124); a core of the Sheaf runs an event of its queue (R403); or an error of storage strikes (R139). -/
inductive Move
  | issue (n : Nat) (k : SlotId)
  | event (i : Instr)
  | lost (tag : Nat)
  | sheaf (k : Nat)
  | upset
  deriving DecidableEq, Repr

/-- An event where a condition holds. -/
def when_ (b : Bool) (i : Instr) : List Move := if b then [.event i] else []

/-- The scheduler of a group (R9, R270): four of each core. -/
def State.schedulerOf (s : State) (g : Group) : Nat := s.coreOf g * 4 + g.hwslot % 4

/-- The priority at which a group is arbitrated (R282, R317). -/
def State.prioOf (s : State) (g : Group) : Nat := ((s.teamOf g).map Team.prio).getD 0

/-- A YIELD lets other eligible groups of its scheduler, of equal or higher priority, be granted once before the group (R301). -/
def State.yields (s : State) (ready : List (Nat × Group)) (e : Nat × Group) : Bool :=
  match e.2.sched.yielded with
  | none => false
  | some t => ready.any fun f => f.1 != e.1 && s.schedulerOf f.2 == s.schedulerOf e.2 && decide (s.prioOf e.2 ≤ s.prioOf f.2) &&
      decide (f.2.sched.granted ≤ t)

/-- In arbitration the first group goes before the second (R282): by priority; among equals the one granted longest ago. -/
def State.beats (s : State) (f e : Nat × Group) : Bool :=
  decide (s.prioOf e.2 < s.prioOf f.2) || (s.prioOf e.2 == s.prioOf f.2 &&
    (decide (f.2.sched.granted < e.2.sched.granted) || (f.2.sched.granted == e.2.sched.granted && decide (f.1 < e.1))))

/-- The slot that a group issues from: where both may, the one that did not issue last (R282). -/
def State.slotTurn (s : State) (g : Group) : SlotId :=
  if s.pathReady g .a && s.pathReady g .b then g.sched.last.other else if s.pathReady g .a then .a else .b

/-- What each scheduler may grant: the winner of its eligible groups (R282). -/
def State.issues (s : State) : List Move :=
  let ready := s.resident.filter fun e => s.eligible e.2
  let field := ready.filter fun e => !s.yields ready e
  (field.filter fun e => !field.any fun f => s.schedulerOf f.2 == s.schedulerOf e.2 && s.beats f e).map fun e => .issue e.1 (s.slotTurn e.2)

/-- The eligible group that has waited longest for a grant, where its 1,024 cycles would be over at a cycle (R282). -/
def State.overdueAt (s : State) (cycle : Nat) : Option (Nat × Group) :=
  (s.resident.filter fun e => s.eligible e.2 && decide (e.2.sched.readyAt + Config.grantCycles ≤ cycle)).foldl (fun b e => match b with
    | none => some e
    | some f => if e.2.sched.readyAt < f.2.sched.readyAt then some e else b) none

/-- The event that ends a group's sleep. -/
def sleepEvent (n : Nat) : Sleep → List Move
  | .cbwait _ _ => [.event (.cbwaitWake n)]
  | .sleepuntil _ _ _ => [.event (.sleepuntilWake n)]
  | .publish _ _ _ => [.event (.publishFlip n)]
  | .launch _ _ _ => [.event (.launchAccept n)]
  | .henter _ => [.event (.henterWake n)]
  | .fenceSC _ | .mxwait _ => []

/-- A path's WAIT.SLEEP has run out. -/
def State.sleepOver (s : State) (p : Option Path) : Bool :=
  match p.bind Path.wait with
  | some (.sleep t) => decide (t ≤ s.cycle)
  | _ => false

/-- Events of a group's matrix work (R234, R244). -/
def Group.mxEvents (n : Nat) (g : Group) : List Move :=
  match g.mxHead with
  | none => []
  | some (_, w) =>
    match w.instr, w.ops with
    | _, none => [.event (.matrixWorkBegin n)]
    | .accz .., some _ => [.event (.acczClaim n)]
    | _, some _ => [.event (.matrixBlock n)]

/-- Events of a group's husk (R360, R362, R363). -/
def Group.huskEvents (n : Nat) (overdue halts : Bool) (g : Group) : List Move :=
  match g.husk with
  | none => []
  | some h =>
    when_ h.commit.isSome (.huskCommit n) ++ when_ h.desched (.huskOrphanRequest n) ++ when_ ((h.orphd || h.waitd) && !halts) (.holderReturn n) ++
      when_ (overdue && !h.desched && !h.orphd && !h.waitd) (.orphanThreshold n)

/-- Folds and unspills that a group may see (R156, R160); `waits` where a node's admission waits. -/
def Group.rowEvents (n : Nat) (waits : Bool) (g : Group) : List Move :=
  (List.range 64).flatMap fun r =>
    when_ (waits && g.foldpol != 0 && g.foldable r) (.registerFold n (BitVec.ofNat 6 r)) ++
    when_ (match (g.vreg r).hold with | .spilled _ _ => true | _ => false) (.registerUnspill n (BitVec.ofNat 6 r))

/-- Events of one group. -/
def State.groupEvents (s : State) (n : Nat) (g : Group) : List Move :=
  when_ (!g.log.isEmpty) (.operandLogReplay n) ++ (g.asleep.map (sleepEvent n)).getD [] ++
  when_ (s.sleepOver g.slotA) (.sleepExpiry n false) ++ when_ (s.sleepOver g.slotB) (.sleepExpiry n true) ++
  g.mxEvents n ++ g.huskEvents n (s.logOverdue g) (s.mustHalt g) ++ g.rowEvents n (!s.items.isEmpty)

/-- Events of the copy engines and the Sheaf's migrations (R66, R100). -/
def State.copyEvents (s : State) : List Move :=
  (s.migrating.map fun m => .event (.migration m.1 m.2.1 m.2.2)) ++
  ((s.copies.map CopyReq.core).eraseDups.map fun core => .event (.copyChunk core))

/-- Events of teams: halts and pod barriers (R325, R340). -/
def State.teamEvents (s : State) : List Move :=
  (List.range s.teams.length).flatMap fun n => match s.team n with
    | none => []
    | some t =>
      when_ (s.haltWanted t) (.instructionHalt n) ++
      when_ ((t.live || !t.podDone) && (s.podTeam n).isSome) (.podBarrierUpdate n) ++
      when_ (t.live && t.podGen.isSome) (.podBarrierRelease n)

/-- Events of launches: completion (R316). -/
def State.launchEvents (s : State) : List Move :=
  (List.range s.launches.length).flatMap fun k => match s.launch k with
    | none => []
    | some l => when_ (l.live && l.finished) (.launchComplete k)

/-- Events of the dispatch hub (R317, R327, R347, R349). -/
def State.hubEvents (s : State) : List Move :=
  let some_ := !s.items.isEmpty || s.parts.any fun p => p.cfgNext.isSome
  (List.range 256).flatMap fun core =>
    when_ (some_ || (s.core core).out) (.dispatchDecision core) ++
    ((List.range s.saved.length).flatMap fun k => when_ (s.savedAt k).isSome (.contextResume k core))

/-- The event that processes a packet of a type. -/
def packetEvent (slot : Nat) : Nat → Instr
  | 0 => .packetNop slot
  | 1 => .packetLaunch slot
  | 2 => .packetSignal slot
  | 3 => .packetWait slot
  | 4 => .packetFence slot
  | _ => .reservedPacket slot

/-- Events of queues (R321, R322, R323, R330). -/
def State.queueEvents (s : State) : List Move :=
  ((List.range s.qslots.length).flatMap fun slot => match s.packetType slot with
    | some t => [.event (packetEvent slot t)]
    | none => []) ++ when_ (decide (s.monitorAt ≤ s.cycle)) .latencyMonitor

/-- The entry of a destination without the ports that are down (R125). -/
def State.routeLess (s : State) (d : Nat) : DWord := ((List.range 18).filter fun k => (s.port k).down).foldl (fun e k => routeWithout k e) (s.route d)

/-- Events of the E-ports (R120 to R125). -/
def State.portEvents (s : State) : List Move :=
  ((List.range s.ports.length).flatMap fun p =>
    let x := s.port p
    if x.retraining then [.event (.portRetrain p (Config.retrainFailures s.ticks % 4))]
    else when_ (!x.replay.isEmpty) (.replayTimeout p) ++ when_ x.up (.flitSlot p))

/-! ### The Sheaf's event queue (R403) -/

/-- An event posted where a condition holds. -/
def post_ (b : Bool) (i : Instr) : List Posting := if b then [⟨i, none, none⟩] else []

/-- Timers of a launch's ladder (R328). -/
def State.ladderPosts (s : State) (k : Nat) (l : Launch) : List Posting :=
  post_ (l.ladder == some .soft || l.ladder == some .halt) (.graceTimer k) ++
    post_ (l.ladder == some .halt || (l.ladder == some .kill && !(s.liveTeams k).isEmpty) || (s.liveTeams k).any fun e => s.haltWanted e.2) (.killTimer k)

/-- Events that hardware agents and the host have for the Sheaf: kicks to unmapped queues (R321), page faults (R60, R425), revocations and rescues (R327), ladder timers (R328), host
commands: stops, resets, invalidations and changes of routes (R53, R125, R267, R400). Those of one user queue carry its number, whose lock they take. -/
def State.toPost (s : State) : List Posting :=
  (s.queues.map fun q => ⟨.queueMap q, some q, none⟩) ++
  ((s.faults.filter fun f => f.at_ == .posted).map fun f => ⟨.demandFault 0 0, none, some (f.asid, f.page)⟩) ++
  ((List.range s.cores.length).flatMap fun core => post_ (s.core core).lentTo.isSome (.coreRevocation core)) ++
  ((List.range 16).flatMap fun p => post_ (!s.saved.isEmpty) (.rescueTimeout p)) ++
  ((List.range s.launches.length).flatMap fun k => match s.launch k with
    | none => []
    | some l => if l.live then s.ladderPosts k l else []) ++
  ((List.range s.parts.length).flatMap fun p => post_ (s.part p).stopping (.tenantStop p)) ++
  (s.resetting.map fun q => ⟨.queueReset q, some q, none⟩) ++
  post_ (s.regs.invcmd.getLsbD 63) .invalidationComplete ++
  post_ (s.fabRunning 2) (.routeUpdate (bitsOf s.regs.fabcmd.toNat 16 9) s.regs.fabnow) ++
  ((List.range s.routes.length).flatMap fun d => post_ (s.routeDoomed d) (.routeUpdate d (s.routeLess d)))

/-- What is to be posted stands in the queue, each event once, as far as there is room: a poster that finds the queue full holds its event. -/
def State.post (s : State) : State :=
  { s with posted := (s.posted ++ s.toPost.filter fun e => !s.posted.contains e).take (Nat.max s.posted.length Config.sheafQueue) }

/-- Places of the queue whose events may run: those whose ordering lock no older event has. -/
def unlocked : Nat → List Nat → List Posting → List Nat
  | _, _, [] => []
  | k, held, e :: rest => match e.queue with
    | none => k :: unlocked (k + 1) held rest
    | some q => if held.contains q then unlocked (k + 1) held rest else k :: unlocked (k + 1) (q :: held) rest

/-- The events that the Sheaf's twelve cores have taken, the oldest first: any of them may be the next that ends. -/
def State.sheafMoves (s : State) : List Move := ((unlocked 0 [] s.posted).take Config.sheafCores).map .sheaf

/-- The event of a place of the queue run to completion. -/
def State.runPosted (s : State) (k : Nat) : Host.Outcome State Fault Refusal :=
  let s1 : State := { s with posted := s.posted.eraseIdx k }
  match s.posted[k]? with
  | none => .next s1
  | some e =>
    match e.page with
    | none => exec e.event s1
    | some x => match s1.faults.findIdx? fun f => f.asid == x.1 && f.page == x.2 with
      | some j => exec (.demandFault j (Config.demandPick s1.ticks)) s1
      | none => .next s1

/-- A port of this package still holds a request: it has not been sent, or the port retrains, and what is routed through it stalls (R122). -/
def State.requestHeld (s : State) (tag : Nat) : Bool :=
  s.ports.any fun p => (if p.retraining then p.sendq ++ p.replay else p.sendq).any fun x => x.own && x.flit.id == tag

/-- Requests of lanes, fetches and copies under way to other packages: any of them may be lost there, refused at its home or discarded on its way (R50, R124). -/
def State.losses (s : State) : List Move :=
  (s.remote.filter fun r => !s.requestHeld r.tag).filterMap fun r => match r.for_ with
    | .lanes _ _ | .copy _ _ | .reads _ _ _ _ | .hub _ _ => some (.lost r.tag)
    | _ => none

/-- Everything that the package may do next. A heartbeat can always come, and so can an error of storage. -/
def State.moves (s : State) : List Move :=
  s.issues ++ (s.resident.flatMap fun e => s.groupEvents e.1 e.2) ++ s.copyEvents ++ s.teamEvents ++ s.launchEvents ++ s.hubEvents ++
    s.queueEvents ++ s.portEvents ++ s.sheafMoves ++ s.losses ++ [.event .heartbeatTick, .upset]

/-- The move that the turn chooses. -/
def State.chosen (s : State) : Move :=
  if s.turn == 0 then (s.moves.head?).getD (.event .heartbeatTick)
  else (s.moves[s.turn % s.moves.length]?).getD (.event .heartbeatTick)

/-- The move that comes: a group whose 1,024 cycles are over, or would be at a heartbeat, is granted first (R282); then a heartbeat whose cycle has come (R10); else the one that
the turn chooses. -/
def State.pick (s : State) : Move :=
  match s.overdueAt (s.cycle + 1) with
  | some e => .issue e.1 (s.slotTurn e.2)
  | none =>
    if Config.heartbeatCycles * (s.heartbeats + 1) ≤ s.cycle + 1 then .event .heartbeatTick
    else if s.chosen == .event .heartbeatTick then
      (match s.overdueAt (Config.heartbeatCycles * (s.heartbeats + 1)) with
      | some e => .issue e.1 (s.slotTurn e.2)
      | none => s.chosen)
    else s.chosen

/-- A move made. -/
def State.play (s : State) : Move → Host.Outcome State Fault Refusal
  | .issue n k => s.issuePath n k
  | .event i => exec i s
  | .lost tag => .next (s.originFatal tag)
  | .sheaf k => s.runPosted k
  | .upset => .next (s.upset (Config.upset s.ticks))

/-- The package with everything done that no choice is left for: its groups settled, words and flits that waited for a route on their way, the ready pool filled (R315), and
what is to be posted to the Sheaf posted (R403). -/
def State.settled (s : State) : State := s.settleAll.sendWords.release.enterPool.post

/-- The package, settled, makes the move that its turn chooses. -/
def State.ownMove (s : State) : Host.Outcome State Fault Refusal := s.settled.play s.settled.pick

/-- A row that only a path brings about: a word, and what a path finds at its PC instead of one. No input is one. -/
def pathOnly (i : Instr) : Bool := i.isWord || match i with | .reservedMajor _ | .fetchFault _ => true | _ => false

/-- A step but for its time: the chain that is issuing goes on; else an input whose time has come is taken; else the package, settled, makes
a move. Before its firmware runs it makes none but the reset and, after it, the passing of time (R402). -/
def State.advance (s : State) : Host.Outcome State Fault Refusal :=
  if s.boot.state == 0 then exec .powerOnReset s
  else if s.chain != 0 then s.issueNext
  else match s.inbox with
    | (t, i) :: rest =>
      if t ≤ s.ticks then (let s1 : State := { s with inbox := rest }; if pathOnly i then .next s1 else exec i s1)
      else if s.boot.state == 2 then s.ownMove else exec .heartbeatTick s
    | [] => if s.boot.state == 2 then s.ownMove else exec .heartbeatTick s

/-- The last cycle that time may reach before a group that waits for a grant has had it (R282). -/
def State.grantBy (s : State) : Option Nat :=
  (s.resident.filter fun e => s.eligible e.2).foldl (fun b e =>
    let d := e.2.sched.readyAt + Config.grantCycles - 1
    match b with | none => some d | some k => some (Nat.min k d)) none

/-- The time that a step takes (R2, R10): at least a cycle, never past the next heartbeat, whose own event brings it, nor past the cycle by which a group is to be granted, at which
groups of several schedulers issue together (R282). -/
def State.tick (s : State) : State :=
  let next := Nat.min (s.cycle + 1 + Config.stepCycles s.ticks) (Config.heartbeatCycles * (s.heartbeats + 1) - 1)
  { s with
    ticks := s.ticks + 1
    turn := Config.nextTurn s.ticks
    fill := Config.receiveFill s.ticks % 4
    cycle := match s.grantBy with | none => next | some d => Nat.max s.cycle (Nat.min next d) }

end Sys2Proof.Machine
end

