-- ==== Sys2Proof/Machine/Step.lean ====
section
/-! DEFINITION. One step of the package: it advances (Issue.lean) and its time passes. And the load that stands for a launch of one program
(log entry 8): `withFetchWord`. -/

namespace Sys2Proof.Machine

/-- One step. -/
def step (s : State) : Host.Outcome State Fault Refusal :=
  match s.advance with
  | .next s1 => .next s1.tick
  | .fault r => .fault r
  | .refused r => .refused r

/-! ### A program in place (log entry 8) -/

/-- The address at which the load places the instruction, in the address space 1 of the launch. -/
def loadVA : Nat := 0x10000
/-- The physical base of the package (R43). -/
def State.pkgBase (s : State) : Nat := s.pkgId.toNat * 2 ^ 45

/-- The one node of the loaded launch: one group of width 32 that begins at the instruction. -/
def loadNode : NodeRec := ⟨loadVA, 1, 32, 1, false, 0, 0, 0, 0, 0, 0, 0, []⟩

/-- The loaded launch: one code section of one packet. -/
def loadLaunch : Launch where
  serial := 0
  img := 0
  asid := 1
  part := 0
  queue := 0
  parent := none
  qprio := some 0
  msix := none
  hdr := ⟨1, false, 0, 1, 1, 0, 0, 0, 0, 0, 0, 4096, 0, 0, 0, 0, 0, 0, 0, 0, 0⟩
  sects := [(loadVA, 12)]
  edges := []
  nodes := [loadNode]
  runs := [⟨.resident, false, 0, 0, 0, none⟩]
  podNodes := []
  podWord := 0
  podTotal := 0
  counts := []
  faulted := none
  children := 0
  slots := [0]
  teamCount := 1
  ladder := none
  stopAt := 0
  told := 0
  live := true

/-- Its team, on core 0. -/
def loadTeam : Team where
  teamId := 0
  launch := 0
  node := 0
  core := 0
  width := 32
  floor := 1
  localBase := 0
  localSize := 0
  localMem := []
  localPoison := []
  counts := []
  safe := true
  prio := 0
  rescue := false
  halting := none
  started := 0
  groups := [0]
  podGen := none
  podDone := false
  live := true

/-- The translation of the code page: the record of address space 1 and one entry of each table (R47 to R50, R320), and the words. -/
def State.loadMemory (s : State) (v : Nat) : State :=
  let p := s.pkgBase
  ((((s.writePA (p + 16) 8 (p + 0x20000) false).writePA (p + 24) 8 0x10001 false).writePA (p + 0x20000) 8 (p + 0x30001) false).writePA
    (p + 0x30000) 8 (p + 0x40001) false).writePA (p + 0x40008) 8 (p + 0x52017) false |>.writePA (p + 0x50000) 12 v false

/-- The state with an instruction of nbits bits as the one program of the package, and its group about to issue it: the firmware runs,
nothing is cached, no input is due and the first move is chosen. -/
def State.withFetchWord (s : State) (nbits w : Nat) : State :=
  let s1 := s.loadMemory (w % 2 ^ nbits)
  { s1 with
    boot := { s.boot with state := 2 }
    regs := { s.regs with astbase := BitVec.ofNat 64 s.pkgBase }
    groups := [some (startGroup loadLaunch loadNode 0 0 0 0 0 1)]
    teams := [some loadTeam]
    launches := [some loadLaunch]
    tlb := []
    walks := []
    icache := []
    l1 := []
    inbox := []
    turn := 0
    chain := 0 }

end Sys2Proof.Machine
end

