-- ==== Sys2Proof/Machine/Bar.lean ====
section
/-! DEFINITION. What the host reads of BAR 0 (R4, R397, R398, R400, R406, R426). No row of the opcode table is a read: these functions say what the
registers of State show, and change nothing. -/

namespace Sys2Proof.Machine

/-! ### The discovery table (R406) -/

/-- A key: its characters from the lowest byte. -/
def discoveryKey (name : List Char) : Nat := (name.map Char.toNat).foldr (fun c n => c + 256 * n) 0

/-- The entries that R406 gives for FL9, sorted by key. -/
def discovery : List (Nat × Nat) :=
  [(discoveryKey ['L', 'M', 'E', 'M'], Config.localBytes), (discoveryKey ['C', 'O', 'R', 'E', 'S'], 256), (discoveryKey ['N', 'P', 'A', 'R', 'T'], 16),
    (discoveryKey ['G', 'R', 'P', '_', 'W'], 32), (discoveryKey ['T', 'I', 'L', 'E', '_', 'M'], 128), (discoveryKey ['T', 'I', 'L', 'E', '_', 'N'], 256),
    (discoveryKey ['C', 'Y', 'C', '_', 'H', 'Z'], 1050000000), (discoveryKey ['R', 'E', 'G', 'D', 'E', 'P', 'T', 'H'], 64)]

/-- Doubleword k of the table: keys and values by turns; a key of zero ends it. -/
def discoveryWord (k : Nat) : DWord :=
  match discovery[k / 2]? with
  | some e => BitVec.ofNat 64 (if k % 2 = 0 then e.1 else e.2)
  | none => 0

/-! ### Registers -/

/-- A bit for each E-port that has a property. -/
def State.portBits (s : State) (f : Port → Bool) : Nat :=
  (List.range 18).foldl (fun n k => if f (s.port k) then n + 2 ^ k else n) 0

/-- QSLOTMAP of a hardware queue slot (R400). -/
def State.slotMap (s : State) (k : Nat) : DWord :=
  match (s.qslot k).queue with
  | some q => BitVec.ofNat 64 (2 ^ 63 + q % 4096)
  | none => 0

/-- A doubleword of the monitors of the hardware queue slots (R330, R397): 1,024 bytes for each slot, the counts of its histogram at 0 and of its last window at 64, of 4 bytes each
(the layout is a DESIGN CHOICE, log entry 81). -/
def State.monitorRead (s : State) (at_ : Nat) : DWord :=
  let q := s.qslot (at_ / 1024)
  let count := fun k => if k < 16 then Tbl.get 0 q.hist k else if k < 32 then Tbl.get 0 q.last (k - 16) else 0
  BitVec.ofNat 64 (count (at_ % 1024 / 4) + count (at_ % 1024 / 4 + 1) * 2 ^ 32)

/-- A register of a partition block (R398, R426); FLTRESP is write-only. -/
def State.blockRead (s : State) (part off : Nat) : DWord :=
  let p := s.part part
  match off with
  | 0x00 => p.cfgWritten
  | 0x08 => BitVec.ofNat 64 (p.grace % 2 ^ 32 + p.kill % 2 ^ 32 * 2 ^ 32)
  | 0x10 => p.saveBase
  | 0x18 => p.saveLen
  | 0x20 => BitVec.ofNat 64 s.regs.ramp
  | 0x28 => p.stop
  | 0x30 => p.stopStatus
  | 0x38 => p.dirtyBase
  | 0x40 => p.dirtyCap
  | 0x48 => p.quads
  | 0x50 => p.fltbase
  | 0x58 => p.fltcfg
  | 0x60 => p.fltcons
  | 0x68 => Config.unstatedRead (0x10068 + 4096 * part)
  | _ => 0

/-- Eight bytes of the recovery window, which reads as zero outside recovery (R397). -/
def State.windowRead (s : State) (at_ : Nat) : DWord :=
  if s.boot.state = 3 then BitVec.ofNat 64 (ofBytes ((List.range 8).map fun k => Tbl.get 0 s.boot.window (at_ + k))) else 0

/-- The doubleword that a host reads at an aligned offset of the physical function's BAR 0 (R397). A reserved offset reads as zero; the identity word, the
write-only DBELL and FLTRESP are not stated, and read as free values. -/
def State.barRead (s : State) (off : Nat) : DWord :=
  if 0x10000 ≤ off && off < 0x20000 then s.blockRead (off / 4096 - 16) (off % 4096)
  else if 0x30000 ≤ off && off < 0x40000 then discoveryWord ((off - 0x30000) / 8)
  else if 0x3100 ≤ off && off < 0x3300 then s.slotMap ((off - 0x3100) / 8)
  else if 0x1000000 ≤ off && off < 0x2000000 then s.windowRead (off - 0x1000000)
  else if 0x20000 ≤ off && off < 0x30000 then s.monitorRead (off - 0x20000)
  else if 0x100000 ≤ off && off < 0x200000 then BitVec.ofNat 64 (Mem.readN s.regs.msixTable (off - 0x100000) 8)
  else match off with
    | 0x0000 => Config.unstatedRead 0
    | 0x0008 => BitVec.ofNat 64 (s.boot.fwver.toNat * 2 ^ 32 + s.boot.state)
    | 0x0010 => s.regs.recov
    | 0x1000 => s.regs.astbase
    | 0x1008 => s.regs.invaddr
    | 0x1010 => s.regs.invcmd
    | 0x2000 => Config.unstatedRead 0x2000
    | 0x3000 => s.regs.orphth.setWidth 64
    | 0x3008 => s.regs.fabcmd
    | 0x3010 => s.regs.fabdata
    | 0x3018 => BitVec.ofNat 64 (s.portBits Port.up + s.portBits Port.down * 2 ^ 32)
    | 0x3020 => s.regs.qoscfg
    | 0x3028 => s.regs.qosp50
    | 0x3030 => s.regs.qosp99
    | _ => 0

/-- BAR 0 of a virtual function holds a doorbell and a copy of the discovery table (R397). -/
def vfRead (off : Nat) : DWord :=
  if off = 0 then Config.unstatedRead 0x2000 else if 0x8000 ≤ off && off < 0x10000 then discoveryWord ((off - 0x8000) / 8) else 0

end Sys2Proof.Machine
end

