-- ==== Sys2Proof/Safety.lean ====
section
/-! DEFINITION. The terms in which claims about the machine are stated: an instruction that issues, the state after an instruction that does no more
than write registers, what such an instruction leaves alone, and the invariant of a run. -/

namespace Sys2Proof.Machine

/-! ### An instruction that issues -/

/-- The path of `c` issues: `cur` names it, and it is the path of its group's slot. -/
abbrev Ctx.Live (c : Ctx) : Prop :=
  c.s.cur = (c.n, c.slot) ∧ c.s.group c.n = some c.g ∧ c.g.slot c.slot = some c.path

/-- Instruction i has its effect where `c` issues it: no deferred trap is delivered instead (R64, R365) and no check of decode stops it (R32,
R151, R303, R357, R358). -/
abbrev Ctx.Issues (c : Ctx) (i : Instr) : Prop :=
  c.Live ∧ c.g.deferredAt c.path = none ∧ c.gate i = none

/-- No register of the group carries a recipe (R153), and none is folded. -/
def Group.plain (g : Group) : Bool := (List.range 64).all fun r => (g.vreg r).recipe.isNone && (g.vreg r).hold != .folded

/-- A width that R273 gives. -/
def Group.widthOk (g : Group) : Bool := g.width == 16 || g.width == 32 || g.width == 64

/-- The issuing group has no recipe, its path records no slice (R150), it runs no capsule (R357), and the instruction at hand has had no answer of another package
(R286). -/
def Ctx.plain (c : Ctx) : Bool := c.g.plain && c.g.widthOk && c.path.slice.isNone && (c.g.capsule c.slot).isNone && c.g.heard.isEmpty

/-- The core of the issuing group can give it a row for each of its registers (R144, R160, R271), and the entries of its divergence stack lie where R278 has
them. -/
def Ctx.roomy (c : Ctx) : Bool :=
  decide (128 ≤ Nat.max (c.s.floorOf c.g) (Config.rowsPerCore - c.s.rowsOthers c.n c.g)) && c.g.spiltNow == c.g.spilt

/-- Nothing but the instruction's own operands has a part in its effect. -/
abbrev Ctx.Quiet (c : Ctx) (i : Instr) : Prop := c.Issues i ∧ c.plain = true ∧ c.roomy = true

/-- The state in which the group is replaced and the path stands behind the instruction (R16). -/
def Ctx.after (c : Ctx) (i : Instr) (g : Group) : State := c.advance i (c.s.setGroup c.n g)

/-! ### What is left alone -/

/-- Nothing but the register files v, p, x, a, f and the poison of p differ. -/
def Group.onlyRegs (g g' : Group) : Prop :=
  g' = { g with v := g'.v, p := g'.p, pPoison := g'.pPoison, x := g'.x, a := g'.a, f := g'.f }

/-- Between g and g' only registers of w differ, v and p registers in the active lanes alone. -/
def Group.SameBut (g g' : Group) (act : Mask) (w : Foot) : Prop :=
  g.onlyRegs g' ∧
  (∀ r, r < 64 → w.v.getLsbD r = false → g'.vreg r = g.vreg r) ∧
  (∀ r i, r < 64 → act.getLsbD i = false → g'.rdp r i = g.rdp r i) ∧
  (∀ r : BitVec 3, w.p.getLsbD r.toNat = false → g'.pred r = g.pred r ∧ g'.predBad r = g.predBad r) ∧
  (∀ (r : BitVec 3) i, act.getLsbD i = false →
    (g'.pred r).getLsbD i = (g.pred r).getLsbD i ∧ (g'.predBad r).getLsbD i = (g.predBad r).getLsbD i) ∧
  (∀ n, n < 3 → w.x.getLsbD n = false → g'.xreg n = g.xreg n) ∧
  (∀ n : BitVec 4, w.a.getLsbD n.toNat = false → g'.areg n = g.areg n) ∧
  (∀ n : BitVec 2, w.f.getLsbD n.toNat = false → g'.freg n = g.freg n)

/-! ### The invariant of a run -/

/-- The package's memory stands in its canonical form. -/
abbrev State.Inv (s : State) : Prop := Memory.wf s.mem = true

end Sys2Proof.Machine
end

