-- ==== Sys2Proof/Certificates/Slice0/Obligations.lean ====
section
/-! DEFINITION. The statements for the provers, and the functions that say what the rules of spec/ give where a statement needs them. `Quiet`,
`after` and `SameBut` stand in Safety.lean. -/

namespace Sys2Proof.Machine

/-! ### What the rules give in a lane: integer instructions (R169 to R179) -/

/-- The word whose bit j is f j. -/
def wordOfBits (f : Nat → Bool) : Word := (Mask.ofFn fun j => decide (j < 32) && f j).setWidth 32

/-- SHF of R172, by arithmetic on the numbers. -/
def ruleShift (op : ShfOp) (a : Word) (s : Nat) : Word :=
  match op with
  | .shl => BitVec.ofNat 32 (a.toNat * 2 ^ s)
  | .shr => BitVec.ofNat 32 (a.toNat / 2 ^ s)
  | .sra => BitVec.ofInt 32 (a.toInt / (2 ^ s : Nat))
  | .rol => wordOfBits fun j => a.getLsbD ((j + 32 - s % 32) % 32)

/-- UNARY of R173. -/
def ruleUnary (op : UnaryOp) (a : Word) : Word :=
  match op with
  | .clz => BitVec.ofNat 32 (((List.range 32).find? fun k => a.getLsbD (31 - k)).getD 32)
  | .popc => BitVec.ofNat 32 ((List.range 32).countP fun k => a.getLsbD k)
  | .brev => wordOfBits fun k => a.getLsbD (31 - k)
  | .abs => BitVec.ofNat 32 a.toInt.natAbs
  | .neg => BitVec.ofInt 32 (-a.toInt)
  | .not => BitVec.ofInt 32 (-1 - a.toInt)

/-- MINMAX of R173. -/
def ruleMinMax (op : MinMaxOp) (a b : Word) : Word :=
  match op with
  | .min => BitVec.ofInt 32 (min a.toInt b.toInt)
  | .max => BitVec.ofInt 32 (max a.toInt b.toInt)
  | .minu => BitVec.ofNat 32 (min a.toNat b.toNat)
  | .maxu => BitVec.ofNat 32 (max a.toNat b.toNat)

/-- BFE of R174, bit by bit: bits of a above bit 31 are its sign or 0, and the field's top bit extends it or not. -/
def ruleBfe (op : BfeOp) (a d : Word) : Word :=
  let pos := d.toNat % 256
  let len := min (d.toNat / 256 % 256) 32
  let ext := fun k => match op with | .zx => a.getLsbD k | .sx => if k < 32 then a.getLsbD k else a.msb
  wordOfBits fun j => decide (0 < len) && match op with
    | .zx => decide (j < len) && ext (pos + j)
    | .sx => ext (pos + min j (len - 1))

/-- BFI of R174, bit by bit. -/
def ruleBfi (a b c : Word) : Word :=
  let pos := c.toNat % 256
  let len := min (c.toNat / 256 % 256) 32
  wordOfBits fun j => if pos ≤ j ∧ j < pos + len then a.getLsbD (j - pos) else b.getLsbD j

/-- INT64 of R175. -/
def ruleInt64 (op : Int64Op) (a b : DWord) : DWord :=
  match op with
  | .add64 => BitVec.ofInt 64 (a.toInt + b.toInt)
  | .sub64 => BitVec.ofInt 64 (a.toInt - b.toInt)
  | .mulw => BitVec.ofInt 64 ((a.setWidth 32).toInt * (b.setWidth 32).toInt)
  | .mulwu => BitVec.ofNat 64 ((a.setWidth 32).toNat * (b.setWidth 32).toNat)

/-- The vector registers that an integer instruction writes in a lane whose operands are those of lane i, with their values and poison marks
(R169 to R176, R179, R142). None for every other instruction. -/
def ruleInt (g : Group) (i : Nat) : Instr → List (Nat × Word × Bool)
  | .iadd _ vd va pa vb pb => [(vd.toNat, lift2 (fun a b => BitVec.ofInt 32 (a.toInt + b.toInt)) (g.srcP va pa i) (g.srcP vb pb i))]
  | .isub _ vd va pa vb pb => [(vd.toNat, lift2 (fun a b => BitVec.ofInt 32 (a.toInt - b.toInt)) (g.srcP va pa i) (g.srcP vb pb i))]
  | .imul _ vd va pa vb pb => [(vd.toNat, lift2 (fun a b => BitVec.ofInt 32 (a.toInt * b.toInt)) (g.srcP va pa i) (g.srcP vb pb i))]
  | .imulh _ vd va pa vb pb =>
    [(vd.toNat, lift2 (fun a b => (BitVec.ofInt 64 (a.toInt * b.toInt)).extractLsb' 32 32) (g.srcP va pa i) (g.srcP vb pb i))]
  | .imulhu _ vd va pa vb pb =>
    [(vd.toNat, lift2 (fun a b => (BitVec.ofNat 64 (a.toNat * b.toNat)).extractLsb' 32 32) (g.srcP va pa i) (g.srcP vb pb i))]
  | .and _ vd va pa vb pb => [(vd.toNat, lift2 (fun a b => a &&& b) (g.srcP va pa i) (g.srcP vb pb i))]
  | .or _ vd va pa vb pb => [(vd.toNat, lift2 (fun a b => a ||| b) (g.srcP va pa i) (g.srcP vb pb i))]
  | .xor _ vd va pa vb pb => [(vd.toNat, lift2 (fun a b => a ^^^ b) (g.srcP va pa i) (g.srcP vb pb i))]
  | .mov _ vd va pa => [(vd.toNat, g.srcP va pa i)]
  | .imad _ vd va vb vc =>
    [(vd.toNat, lift3 (fun a b c => BitVec.ofInt 32 (a.toInt * b.toInt + c.toInt)) (g.src0 va i) (g.src0 vb i) (g.src0 (48 + vc.setWidth 6) i))]
  | .bfi _ vd va vb vc => [(vd.toNat, lift3 ruleBfi (g.src0 va i) (g.src0 vb i) (g.src0 (48 + vc.setWidth 6) i))]
  | .iaddi _ vd va k => [(vd.toNat, lift1 (fun a => BitVec.ofInt 32 (a.toInt + k.toInt)) (g.src0 va i))]
  | .andi _ vd va k => [(vd.toNat, lift1 (fun a => a &&& BitVec.ofInt 32 k.toInt) (g.src0 va i))]
  | .ori _ vd va k => [(vd.toNat, lift1 (fun a => a ||| BitVec.ofNat 32 k.toNat) (g.src0 va i))]
  | .xori _ vd va k => [(vd.toNat, lift1 (fun a => a ^^^ BitVec.ofNat 32 k.toNat) (g.src0 va i))]
  | .shf _ vd va vb op => [(vd.toNat, lift2 (fun a b => ruleShift op a b.toNat) (g.src0 va i) (g.src0 vb i))]
  | .shfi _ vd va op n => [(vd.toNat, lift1 (fun a => ruleShift op a n.toNat) (g.src0 va i))]
  | .minmax _ vd va vb op => [(vd.toNat, lift2 (ruleMinMax op) (g.src0 va i) (g.src0 vb i))]
  | .unary _ vd va op => [(vd.toNat, lift1 (ruleUnary op) (g.src0 va i))]
  | .bfe _ vd va vb op => [(vd.toNat, lift2 (ruleBfe op) (g.src0 va i) (g.src0 vb i))]
  | .sel _ vd va vb p inv =>
    [(vd.toNat, if (g.pred p).getLsbD i = inv then (g.src0 vb i).1 else (g.src0 va i).1,
      (g.src0 va i).2 || (g.src0 vb i).2 || (g.predBad p).getLsbD i)]
  | .movi _ vd k => [(vd.toNat, BitVec.ofInt 32 k.toInt, false)]
  | .movhi _ vd k => [(vd.toNat, lift1 (fun a => BitVec.ofNat 32 (k.toNat * 65536 + a.toNat % 65536)) (g.src0 vd i))]
  | .li _ vd w => [(vd.toNat, w, false)]
  | .int64 _ vd va vb op =>
    let r := ruleInt64 op (g.rd2 va i) (g.rd2 vb i)
    let n := match op with | .add64 | .sub64 => 2 | .mulw | .mulwu => 1
    let bad := g.badN va n i || g.badN vb n i
    [(vd.toNat, r.extractLsb' 0 32, bad), ((vd + 1).toNat, r.extractLsb' 32 32, bad)]
  | _ => []

/-- Source selects of an instruction, in the order in which a reserved pattern is reported (R35). -/
def rulePatterns : Instr → List (BitVec 2)
  | .iadd _ _ _ pa _ pb | .isub _ _ _ pa _ pb | .imul _ _ _ pa _ pb | .imulh _ _ _ pa _ pb | .imulhu _ _ _ pa _ pb
  | .and _ _ _ pa _ pb | .or _ _ _ pa _ pb | .xor _ _ _ pa _ pb | .fadd _ _ _ pa _ pb | .fsub _ _ _ pa _ pb | .fmul _ _ _ pa _ pb
  | .fmac _ _ _ pa _ pb | .hadd2 _ _ _ pa _ pb | .hmul2 _ _ _ pa _ pb | .hfmac2 _ _ _ pa _ pb | .fscale _ _ _ pa _ pb
  | .dot4s _ _ _ pa _ pb | .dot4u _ _ _ pa _ pb => [pa, pb]
  | .mov _ _ _ pa => [pa]
  | .shfl _ _ _ _ pb => [pb]
  | _ => []

/-- No source names a pattern register that holds a reserved kind (R35). -/
def Ctx.patternsOk (c : Ctx) (i : Instr) : Bool := (rulePatterns i).all fun sel => (patternLane (c.g.pattern sel) c.g.w 0).isSome

/-- The lane whose operands lane l works on: the lowest active lane under U, else itself (R20, R40). -/
def Ctx.laneOf (c : Ctx) (i : Instr) (l : Nat) : Nat := if i.hdr.u then c.low else l

/-- A predicate instruction's result in a lane (R177, R178, R142), with its poison mark. None for every other instruction. -/
def rulePred (g : Group) (i : Nat) : Instr → Option (BitVec 3 × Bool × Bool)
  | .icmp _ pd cond va vb pacc comb =>
    let t := ruleCond cond (g.src0 va i).1 (g.src0 vb i).1
    let q := (g.pred pacc).getLsbD i
    some (pd, if comb then t || q else t && q, (g.src0 va i).2 || (g.src0 vb i).2 || (g.predBad pacc).getLsbD i)
  | .icmpi _ pd cond va k => some (pd, ruleCond cond (g.src0 va i).1 (BitVec.ofInt 32 k.toInt), (g.src0 va i).2)
  | .pcomb _ pd pa pb op =>
    let a := (g.pred pa).getLsbD i
    let b := (g.pred pb).getLsbD i
    some (pd, (match op with | .and => a && b | .or => a || b | .xor => Bool.xor a b | .andn => a && !b),
      (g.predBad pa).getLsbD i || (g.predBad pb).getLsbD i)
  | _ => none
where
  /-- A condition of R177. -/
  ruleCond (c : ICond) (a b : Word) : Bool :=
    match c with
    | .eq => decide (a = b)
    | .ne => decide (a ≠ b)
    | .lt => decide (a.toInt < b.toInt)
    | .le => decide (a.toInt ≤ b.toInt)
    | .gt => decide (a.toInt > b.toInt)
    | .ge => decide (a.toInt ≥ b.toInt)
    | .ltu => decide (a.toNat < b.toNat)
    | .geu => decide (a.toNat ≥ b.toNat)

/-- What an across-lane integer instruction writes in lane l (R180 to R182, R142). None for every other instruction. -/
def ruleAcross (g : Group) (act : Mask) (l : Nat) : Instr → Option (Nat × Word × Bool)
  | .vote _ vd p kind =>
    let m := (List.range 64).filter fun j => act.getLsbD j && (g.pred p).getLsbD j
    let bad := (List.range 64).any fun j => act.getLsbD j && (g.predBad p).getLsbD j
    let n := ((List.range 64).filter fun j => act.getLsbD j).length
    some (vd.toNat, (match kind with
      | .all => if m.length = n then 1 else 0
      | .any => if m.length ≠ 0 then 1 else 0
      | .ballot => wordOfBits fun j => m.contains (if l < 32 then j else 32 + j)
      | .count => BitVec.ofNat 32 m.length
      | .eq => if m.length = 0 ∨ m.length = n then 1 else 0), bad)
  | .shfl _ vd va vb pb =>
    let s := g.srcP vb pb l
    let x := g.src0 va (s.1.toNat % g.w)
    some (vd.toNat, x.1, x.2 || s.2)
  | .redux _ vd va op =>
    let xs := ((List.range 64).filter fun j => act.getLsbD j).map fun j => g.src0 va j
    some (vd.toNat, (match op with
      | .radd => BitVec.ofInt 32 ((xs.map fun x => x.1.toInt).foldl (· + ·) 0)
      | .rmin => BitVec.ofInt 32 ((xs.map fun x => x.1.toInt).foldl min 2147483647)
      | .rmax => BitVec.ofInt 32 ((xs.map fun x => x.1.toInt).foldl max (-2147483648))
      | .rand => wordOfBits fun k => xs.all fun x => x.1.getLsbD k
      | .ror => wordOfBits fun k => xs.any fun x => x.1.getLsbD k
      | .rxor => wordOfBits fun k => (xs.countP fun x => x.1.getLsbD k) % 2 == 1), xs.any fun x => x.2)
  | _ => none

end Sys2Proof.Machine

section
open Sys2Proof Sys2Proof.Machine

/-! ### Integer instructions -/

/-- R40, R169 to R176, R179: in every active lane of an integer instruction each destination receives what the rule gives from the lane's operands (the lowest
active lane's under U), the path stands behind the instruction, and nothing else changes. -/
def Obligations.IntegerLaneResults : Prop :=
  ∀ (c : Ctx) (i : Instr), c.Quiet i → c.act ≠ 0 → c.patternsOk i = true → i.wellFormed = true → ruleInt c.g 0 i ≠ [] →
    ∃ g', exec i c.s = .next (c.after i g') ∧ c.g.SameBut g' c.act (writes i) ∧
      ∀ l, l < c.g.width → c.act.getLsbD l = true → ∀ x ∈ ruleInt c.g (c.laneOf i l) i, g'.rdp x.1 l = x.2

/-- R177, R178, R33: in every active lane the destination predicate receives the rule's bit and poison mark; a write of p7 is discarded. Nothing else
changes, and the path stands behind the instruction. -/
def Obligations.PredicateLaneResults : Prop :=
  ∀ (c : Ctx) (i : Instr) (pd : BitVec 3) (b q : Bool), c.Quiet i → c.act ≠ 0 → rulePred c.g 0 i = some (pd, b, q) →
    ∃ g', exec i c.s = .next (c.after i g') ∧ c.g.SameBut g' c.act (writes i) ∧
      (∀ l x, l < 64 → c.act.getLsbD l = true → pd ≠ 7 → rulePred c.g (c.laneOf i l) i = some x →
        (g'.pred pd).getLsbD l = x.2.1 ∧ (g'.predBad pd).getLsbD l = x.2.2) ∧
      (pd = 7 → g'.p = c.g.p ∧ g'.pPoison = c.g.pPoison)

/-- R180 to R182: VOTE, SHFL and REDUX write the rule's value in every active lane, from the values before the instruction; nothing else changes. -/
def Obligations.AcrossLaneResults : Prop :=
  ∀ (c : Ctx) (i : Instr), c.Quiet i → c.patternsOk i = true → (ruleAcross c.g c.act 0 i).isSome = true →
    ∃ g', exec i c.s = .next (c.after i g') ∧ c.g.SameBut g' c.act (writes i) ∧
      ∀ l x, l < c.g.width → c.act.getLsbD l = true → ruleAcross c.g c.act l i = some x → g'.rdp x.1 l = x.2

end

namespace Sys2Proof.Machine

/-! ### What the rules give in a lane: floating instructions (R213 to R229) -/

/-- The BF16 values of the two elements of a word (R214). -/
def bfPair (a : Word) : Val × Val := (bf16.decode (a.toNat % 65536), bf16.decode (a.toNat / 65536))
/-- Two BF16 elements, each rounded to nearest even (R214). -/
def bfWord (lo hi : Val) : Word := BitVec.ofNat 32 (bf16.rne hi) <<< 16 ||| BitVec.ofNat 32 (bf16.rne lo)
/-- Byte k of a word, signed or unsigned (R215). -/
def byteOf (signed : Bool) (a : Word) (k : Nat) : Int :=
  let b := a.toNat / 256 ^ k % 256
  if signed && 128 ≤ b then (b : Int) - 256 else b
/-- d plus the sum of the four byte products, modulo 2^32 (R215). -/
def ruleDot (signed : Bool) (a b d : Word) : Word :=
  BitVec.ofInt 32 (d.toInt + ((List.range 4).map fun k => byteOf signed a k * byteOf signed b k).foldl (· + ·) 0)

/-- The vector register that a floating instruction writes in a lane whose operands are those of lane i (R213 to R221, R142): exact arithmetic, rounded once
to nearest even. None for every other instruction. -/
def ruleFloat (g : Group) (i : Nat) : Instr → Option (Nat × Word × Bool)
  | .fadd _ vd va pa vb pb => some (vd.toNat, lift2 (fun a b => toF32 ((f32 a).add (f32 b))) (g.srcP va pa i) (g.srcP vb pb i))
  | .fsub _ vd va pa vb pb => some (vd.toNat, lift2 (fun a b => toF32 ((f32 a).add (f32 b).negate)) (g.srcP va pa i) (g.srcP vb pb i))
  | .fmul _ vd va pa vb pb => some (vd.toNat, lift2 (fun a b => toF32 ((f32 a).mul (f32 b))) (g.srcP va pa i) (g.srcP vb pb i))
  | .fma _ vd va vb vc =>
    some (vd.toNat, lift3 (fun a b c => toF32 (((f32 a).mul (f32 b)).add (f32 c))) (g.src0 va i) (g.src0 vb i) (g.src0 (48 + vc.setWidth 6) i))
  | .fmac _ vd va pa vb pb =>
    some (vd.toNat, lift3 (fun a b c => toF32 (((f32 a).mul (f32 b)).add (f32 c))) (g.srcP va pa i) (g.srcP vb pb i) (g.src0 vd i))
  | .fminmax _ vd va vb op => some (vd.toNat, lift2 (fMinMax op) (g.src0 va i) (g.src0 vb i))
  | .func _ vd va op => some (vd.toNat, lift1 (funOp op) (g.src0 va i))
  | .hadd2 _ vd va pa vb pb => some (vd.toNat, lift2 (fun a b =>
      bfWord ((bfPair a).1.add (bfPair b).1) ((bfPair a).2.add (bfPair b).2)) (g.srcP va pa i) (g.srcP vb pb i))
  | .hmul2 _ vd va pa vb pb => some (vd.toNat, lift2 (fun a b =>
      bfWord ((bfPair a).1.mul (bfPair b).1) ((bfPair a).2.mul (bfPair b).2)) (g.srcP va pa i) (g.srcP vb pb i))
  | .hfma2 _ vd va vb vc => some (vd.toNat, lift3 ruleBfMad (g.src0 va i) (g.src0 vb i) (g.src0 (48 + vc.setWidth 6) i))
  | .hfmac2 _ vd va pa vb pb => some (vd.toNat, lift3 ruleBfMad (g.srcP va pa i) (g.srcP vb pb i) (g.src0 vd i))
  | .fscale _ vd va pa vb pb => some (vd.toNat, lift2 fScale (g.srcP va pa i) (g.srcP vb pb i))
  | .dot4s _ vd va pa vb pb => some (vd.toNat, lift3 (ruleDot true) (g.srcP va pa i) (g.srcP vb pb i) (g.src0 vd i))
  | .dot4u _ vd va pa vb pb => some (vd.toNat, lift3 (ruleDot false) (g.srcP va pa i) (g.srcP vb pb i) (g.src0 vd i))
  | _ => none
where
  /-- A product and a sum in each BF16 element, rounded once. -/
  ruleBfMad (a b c : Word) : Word :=
    bfWord (((bfPair a).1.mul (bfPair b).1).add (bfPair c).1) (((bfPair a).2.mul (bfPair b).2).add (bfPair c).2)

/-- Position k of level n of the pairwise tree over lane values (R206). -/
def treeAt (f : Word → Word → Word) (x : Nat → Word) : Nat → Nat → Word
  | 0, k => x k
  | n + 1, k => f (treeAt f x n (2 * k)) (treeAt f x n (2 * k + 1))

/-- The words that a conversion writes in a lane, and whether the lane converts (R224, R225); `x` is the lane's generator after its step. -/
def ruleConvert (g : Group) (i : Nat) (x : Word) : Instr → Option (Nat × (Word × Bool) × Bool × Rnd)
  | .cvt _ vd va src dst rnd => some (vd.toNat, lift1 (cvtOp src dst rnd x) (g.src0 va i), true, rnd)
  | .cvtn _ vd va fmt rnd vb =>
    let f := NFmt.of (g.freg fmt)
    let ok := decide ((ctlSlot (g.src0 vb i).1 + 1) * f.width ≤ 32)
    let bad := (g.src0 vd i).2 || (g.src0 va i).2 || (g.src0 vb i).2
    some (vd.toNat, ((cvtnOp f rnd x (g.src0 vd i).1 (g.src0 va i).1 (g.src0 vb i).1).1, bad), ok, rnd)
  | .cvtw _ vd va fmt rnd vb =>
    let f := NFmt.of (g.freg fmt)
    let ok := decide ((ctlSlot (g.src0 vb i).1 + 1) * f.width ≤ 32)
    some (vd.toNat, ((cvtwOp f rnd x (g.src0 va i).1 (g.src0 vb i).1).1, (g.src0 va i).2 || (g.src0 vb i).2), ok, rnd)
  | _ => none

/-- The format register that a conversion reads, if any. -/
def convertFormat : Instr → Option (BitVec 2)
  | .cvtn _ _ _ fmt _ _ | .cvtw _ _ _ fmt _ _ => some fmt
  | _ => none

/-- The lanes that an instruction computes for (R20): the active ones, the lowest alone under U. -/
def Ctx.computes (c : Ctx) (i : Instr) (l : Nat) : Bool := if i.hdr.u then l == c.low else c.act.getLsbD l

/-- Nothing but exception counts of teams differs (R210, R211). -/
def State.sameButCounts (s t : State) : Prop :=
  t = { s with teams := t.teams } ∧ ∀ n, (s.team n).map (fun x => { x with counts := [] }) = (t.team n).map fun x => { x with counts := [] }

end Sys2Proof.Machine

section
open Sys2Proof Sys2Proof.Machine

/-! ### Floating instructions -/

/-- R213 to R221: in every active lane of a floating or dot-product instruction the destination receives the rule's word, computed from the lane's operands (the
lowest active lane's under U); the path stands behind it, and nothing else changes, exception counts included. -/
def Obligations.FloatLaneResults : Prop :=
  ∀ (c : Ctx) (i : Instr), c.Quiet i → c.act ≠ 0 → c.patternsOk i = true → (ruleFloat c.g 0 i).isSome = true →
    ∃ g', exec i c.s = .next (c.after i g') ∧ c.g.SameBut g' c.act (writes i) ∧
      ∀ l x, l < c.g.width → c.act.getLsbD l = true → ruleFloat c.g (c.laneOf i l) i = some x → g'.rdp x.1 l = x.2

/-- R222: FCMP writes its condition, gated by pacc, with its poison mark in every active lane of pd. Neither a signed zero nor a NaN is equal to or below or above anything it
should not be: EQ and the ordered conditions fail on a NaN, NE holds on one, and −0 equals +0. A write of p7 is discarded (R33). Nothing else changes. -/
def Obligations.FloatCompareResults : Prop :=
  ∀ (c : Ctx) (h : Hdr) (pd : BitVec 3) (cond : FCond) (va vb : BitVec 6) (pacc : BitVec 3) (comb : Bool),
    let i := Instr.fcmp h pd cond va vb pacc comb
    c.Quiet i → c.act ≠ 0 →
    ∃ g', exec i c.s = .next (c.after i g') ∧ c.g.SameBut g' c.act (writes i) ∧ (pd = 7 → g'.p = c.g.p ∧ g'.pPoison = c.g.pPoison) ∧
      ∀ l, l < 64 → c.act.getLsbD l = true → pd ≠ 7 →
        let k := c.laneOf i l
        let a := f32 (c.g.src0 va k).1
        let b := f32 (c.g.src0 vb k).1
        let n := a.isNan || b.isNan
        let t := match cond with
          | .eq => !n && !a.lt b && !b.lt a
          | .ne => n || a.lt b || b.lt a
          | .lt => !n && a.lt b
          | .le => !n && !b.lt a
          | .gt => !n && b.lt a
          | .ge => !n && !a.lt b
          | .num => !n
          | .nan => n
        let q := (c.g.pred pacc).getLsbD k
        (g'.pred pd).getLsbD l = (if comb then t || q else t && q) ∧
          (g'.predBad pd).getLsbD l = ((c.g.src0 va k).2 || (c.g.src0 vb k).2 || (c.g.predBad pacc).getLsbD k)

/-- R223 to R227, R196: CVT, CVTN and CVTW write the converted word in every active lane. Under SR the generator of each lane that converts advances by one
step and no other does. Nothing changes beside them but exception counts. -/
def Obligations.ConversionResults : Prop :=
  ∀ (c : Ctx) (i : Instr), c.Quiet i → c.act ≠ 0 → (∀ f, convertFormat i = some f → fmtValid (c.g.freg f) = true) →
    (ruleConvert c.g 0 0 i).isSome = true →
    ∃ s' g', exec i c.s = .next (c.advance i (s'.setGroup c.n g')) ∧ c.s.sameButCounts s' ∧
      c.g.SameBut { g' with rngs := c.g.rngs } c.act (writes i) ∧
      (∀ l x, l < c.g.width → c.act.getLsbD l = true →
        ruleConvert c.g (c.laneOf i l) (rngNext (c.g.rng (c.laneOf i l))) i = some x → g'.rdp x.1 l = x.2.1) ∧
      ∀ l x, l < 64 → ruleConvert c.g l (rngNext (c.g.rng l)) i = some x →
        g'.rng l = if x.2.2.2 = .sr ∧ x.2.2.1 = true ∧ c.computes i l = true then rngNext (c.g.rng l) else c.g.rng l

/-- R228, R206: FREDUX writes to every active lane the value at the root of the pairwise tree over the lanes in ascending order, inactive lanes giving the neutral
element, each combine rounded to FP32. Nothing else changes. -/
def Obligations.FloatReductionResults : Prop :=
  ∀ (c : Ctx) (h : Hdr) (vd va : BitVec 6) (op : FReduxOp),
    let i := Instr.fredux h vd va op
    c.Quiet i →
    ∃ g', exec i c.s = .next (c.after i g') ∧ c.g.SameBut g' c.act (writes i) ∧
      ∀ l, l < c.g.width → c.act.getLsbD l = true →
        (g'.rdp vd.toNat l).1 = treeAt (freduxOp op) (fun k => if c.act.getLsbD k then (c.g.src0 va k).1 else freduxNeutral op)
          (if c.g.width = 64 then 6 else 5) 0

/-- R195: rounding a magnitude m × 2^e to a multiple of 2^q to nearest gives a multiple at least as near as every other, and an even one of two that are equally near.
(e is taken as 0 here and q as positive: only their difference has a part.) R191, R195: rounding the value of an FP32 word that is no NaN to FP32 gives the word back. -/
def Obligations.SingleRounding : Prop :=
  (∀ (x : Word) (m d k : Nat), 0 < d →
      let n := roundAt .rne x m 0 false (d : Int)
      (Int.natAbs ((n : Int) * 2 ^ d - m) ≤ Int.natAbs ((k : Int) * 2 ^ d - m)) ∧
        (k ≠ n → Int.natAbs ((n : Int) * 2 ^ d - m) = Int.natAbs ((k : Int) * 2 ^ d - m) → n % 2 = 0)) ∧
  (∀ w : Word, isNan32 w = false → toF32 (f32 w) = w)

/-- R35, R332: where a lane is active, a source that names a pattern register holding a reserved kind traps BAD_FORM; TRAPINFO holds the pattern register's value, that of
the pa source where both are reserved. R199, R225, R229: CVTN and CVTW through a format register that holds no valid format word trap BAD_FORM with the word, before any lane acts.
R20: with U set and no active lane these instructions have no effect and raise no trap: the path goes on. -/
def Obligations.ReservedFormsTrap : Prop :=
  (∀ (c : Ctx) (i : Instr) (sel : BitVec 2), c.Issues i → c.plain = true → c.act ≠ 0 →
      (rulePatterns i).find? (fun x => (patternLane (c.g.pattern x) c.g.w 0).isNone) = some sel →
      exec i c.s = .next (c.s.takeTrap c.n c.slot ⟨Cause.badForm, BitVec.ofNat 64 (c.g.pattern sel).toNat, c.pc, false⟩)) ∧
  (∀ (c : Ctx) (i : Instr) (f : BitVec 2), c.Issues i → c.plain = true → convertFormat i = some f → fmtValid (c.g.freg f) = false →
      (i.hdr.u = true → c.act ≠ 0) →
      exec i c.s = .next (c.s.takeTrap c.n c.slot ⟨Cause.badForm, BitVec.ofNat 64 (c.g.freg f).toNat, c.pc, false⟩)) ∧
  ∀ (c : Ctx) (i : Instr), c.Quiet i → i.hdr.u = true → c.act = 0 →
      (ruleInt c.g 0 i ≠ [] ∨ (ruleFloat c.g 0 i).isSome = true ∨ (convertFormat i).isSome = true) → exec i c.s = .next (c.after i c.g)

end

section
open Sys2Proof Sys2Proof.Machine

/-! ### Encodings (R17, R25 to R32) -/

/-- Words written out from the encoding tables decode to the instructions that they stand for: two of each family. -/
def Obligations.SampleWordsDecode : Prop :=
  decode 0x01820410 0 = .ok (.imad ⟨false, false, false⟩ 2 1 1 0) ∧
  decode 0x46700007 0 = .ok (.movi ⟨false, true, false⟩ 48 7) ∧
  decode 0x07042C00 0 = .ok (.vote ⟨false, false, false⟩ 4 1 .count) ∧
  decode 0x08082428 0 = .ok (.fadd ⟨false, false, false⟩ 8 9 0 10 0) ∧
  decode 0x00000000 0 = .ok (.nop false) ∧
  decode 0x1BCC3E00 0 = .ok (.scopeOpen ⟨false, false, false⟩ 24 31) ∧
  decode 0x1F441D40 0xE = .ok (.cut ⟨false, false, false⟩ 7 20 14) ∧
  decode 0x9FC10000 0 = .ok (.mfs ⟨true, false, false⟩ 1 .laneid) ∧
  decode 0x1B142000 0 = .ok (.mkrcp ⟨false, false, false⟩ 20 1) ∧
  decode 0x1E000000 0 = .ok (.exit ⟨false, false, false⟩)

/-- R25 to R32: the words of every well-formed instruction decode to it, with every operand at every value that its encoding admits. -/
def Obligations.EncodedInstructionsDecodeBack : Prop :=
  ∀ i : Instr, i.isWord = true → i.wellFormed = true → decode (encode1 i) (encode2 i) = .ok i

/-- R29, R32: a word that decodes gives one well-formed instruction, of the length that the first word alone has, and no other words are that instruction's. -/
def Obligations.WordsHaveOneMeaning : Prop :=
  ∀ (w e : Word) (i : Instr), decode w e = .ok i →
    i.isWord = true ∧ i.wellFormed = true ∧ i.words = wordsOf w ∧ encode1 i = w ∧ (i.words = 2 → encode2 i = e)

/-- R30, R32, R337: a word of a reserved major, or of major 0x7F with an operation above 5, is ILLEGAL_OP whatever its other bits are, and traps with the word in
TRAPINFO where a path finds it at its PC. R16, R81: a PC outside every section, or on a page without X, traps ADDR_PERM with the PC; one at the second word of an
instruction traps BAD_FORM with the word there. -/
def Obligations.ReservedMajorsAreIllegal : Prop :=
  (∀ (w e : Word), (Instr.reservedMajor w).wellFormed = true → decode w e = .error .illegalOp) ∧
  ∀ (s : State) (g : Group) (p : Path), s.group s.cur.1 = some g → g.slot s.cur.2 = some p → g.deferredAt p = none →
    (∀ w : Word, (Instr.reservedMajor w).wellFormed = true →
      exec (.reservedMajor w) s = .next (s.takeTrap s.cur.1 s.cur.2 ⟨0x01, w.setWidth 64, p.pc, false⟩)) ∧
    exec (.fetchFault .outside) s = .next (s.takeTrap s.cur.1 s.cur.2 ⟨0x05, p.pc, p.pc, false⟩) ∧
    exec (.fetchFault .noExec) s = .next (s.takeTrap s.cur.1 s.cur.2 ⟨0x05, p.pc, p.pc, false⟩) ∧
    ∀ w s1, (⟨s, s.cur.1, s.cur.2, g, p⟩ : Ctx).fetchWord s p.pc.toNat = .ok w s1 → s1.cur = s.cur → s1.group s.cur.1 = some g →
      exec (.fetchFault .secondWord) s = .next (s1.takeTrap s.cur.1 s.cur.2 ⟨0x02, w.setWidth 64, p.pc, false⟩)

/-! ### Steps -/

/-- R16, R19, R24: when a path is chosen to issue, the one instruction at its PC (C clear) decodes, and nothing holds it, the step is that instruction's exec in
the state in which the path is named as the issuing one, followed by `heed` (what other packages have answered to it is dropped, and, but after a register instruction, its group's plain loads take nothing older from the L1: log entries 6, 7) and the passing of time; its words are the path's own fetches. R19: while members of a chain are left, the step is exec of the next one at the path's PC, unless something holds it, followed by the same. -/
def Obligations.StepRunsDecodedInstruction : Prop :=
  (∀ (s : State) (n : Nat) (k : SlotId) (g : Group) (p : Path) (w e : Word) (i : Instr) (s1 s2 s3 : State),
      s.boot.state = 2 → s.chain = 0 → s.inbox = [] → s.settled.pick = .issue n k →
      let s0 : State := { s.settled.grant n k with cur := (n, k), chain := 0 }
      let base := packetOf (s0.sectsOf g) p.pc.toNat
      let j := (p.pc.toNat - base) / 4
      let c : Ctx := ⟨s0, n, k, g, p⟩
      s0.group n = some g → g.slot k = some p → g.deferredAt p = none → (sectOf (s0.sectsOf g) p.pc.toNat).isSome = true →
      p.pc.toNat % 4 = 0 → c.secondWord base j s0 = .is false s1 → p.pc.toNat = base + 4 * j →
      c.fetchWord s1 p.pc.toNat = .ok w s2 → w.getLsbD 31 = false →
      (if wordsOf w = 2 then j < 2 ∧ c.fetchWord s2 (p.pc.toNat + 4) = .ok e s3 else s3 = s2 ∧ e = 0) →
      decode w e = .ok i → c.gate i = none → c.heldBack i = false →
      step s = match exec i { s3 with chain := 0 } with
        | .next t => .next (t.heed n i).tick
        | .fault r => .fault r
        | .refused r => .refused r) ∧
  (∀ (s : State) (g : Group) (p : Path) (m : Member) (ms : List Member) (s1 : State) (i : Instr),
      s.boot.state ≠ 0 → s.chain ≠ 0 → s.group s.cur.1 = some g → g.slot s.cur.2 = some p →
      let base := packetOf (s.sectsOf g) p.pc.toNat
      let c : Ctx := ⟨s, s.cur.1, s.cur.2, g, p⟩
      c.fetchChain base 1 ((p.pc.toNat - base) / 4) s = .ok (m :: ms) s1 → m.decoded = .ok i → c.heldBack i = false →
      step s = match exec i { s1 with chain := s1.chain - 1 } with
        | .next t => .next (t.heed s.cur.1 i).tick
        | .fault r => .fault r
        | .refused r => .refused r)

/-- The package goes on from every state: no state makes a step stop with a fault or a refusal, whatever its memory holds. -/
def Obligations.EveryStepGoesOn : Prop := ∀ s : State, ∃ t, step s = .next t

/-! ### Reset and memory -/

/-- R10, R58, R65, R328, R398, R400, R402: what power-on reset leaves: no group, team or launch, both counters at 0, the boot state before the ROM; ORPHTH
10, quota 8, grace 20, kill 200, ramp rate 16, as the host reads them too. That no byte of memory is listed is the model's choice (log entry 1). R406: the
discovery table begins with the key LMEM and ends behind eight entries. -/
def Obligations.ResetState : Prop :=
  let s := State.reset
  s.resident = [] ∧ s.cycle = 0 ∧ s.heartbeats = 0 ∧ s.boot.state = 0 ∧ s.regs.orphth = 10 ∧ s.regs.ramp = 16 ∧
    (s.part 3).cfg = 0x0008000000000000 ∧ (s.part 3).grace = 20 ∧ (s.part 3).kill = 200 ∧ s.mem = [] ∧ s.Inv ∧
    s.barRead 0x3000 = 10 ∧ s.barRead 0x13000 = 0x0008000000000000 ∧ s.barRead 0x13008 = 0x000000C800000014 ∧ s.barRead 0x3018 = 0 ∧
    s.barRead 0x30000 = 0x4D454D4C ∧ s.barRead 0x30008 = 393216 ∧ s.barRead 0x30080 = 0

/-- The package's memory keeps its canonical form over every step from every state in which it has it: equal memories are equal data. The form is the model's own
(log entry 1). -/
def Obligations.StepsKeepMemoryCanonical : Prop :=
  ∀ s s' : State, s.Inv → step s = .next s' → s'.Inv

/-- R3, R78: n bytes written at a physical address read back as written, the lowest byte at the lowest address, and every other byte of memory reads
as before. R15, R54, R81: a fetch of a word that its core has not cached gives the four bytes at the physical address, the lowest byte first; a page without X
permits no fetch. -/
def Obligations.MemoryReadsBack : Prop :=
  (∀ (s : State) (pa n v : Nat) (bad : Bool), s.Inv →
      let t := s.writePA pa n v bad
      t.Inv ∧ t.readPA pa n = v % 256 ^ n ∧
      (∀ k, k < n → (t.mem.get (paLocal pa + k)).toNat = v / 256 ^ k % 256) ∧
      ∀ a, a < paLocal pa ∨ paLocal pa + n ≤ a → t.mem.get a = s.mem.get a) ∧
  (∀ (s : State) (g : Group) (va pa : Nat) (pte : DWord) (big : Bool) (s1 : State),
      s.translate (s.coreOf g) (s.asidOf g) va false = (.ok pa pte big, s1) → s1.isLocal pa = true →
      (pteX pte = false → s.fetchWord g va = .noExec s1) ∧
      (pteX pte = true → s1.cached (s.coreOf g) (s.asidOf g) va = none → ∃ s2, s.fetchWord g va =
        .ok (wordOfBytes (s1.mem.get (paLocal pa)) (s1.mem.get (paLocal pa + 1)) (s1.mem.get (paLocal pa + 2)) (s1.mem.get (paLocal pa + 3))) s2))

end

namespace Sys2Proof.Machine

/-! ### What the rules give: address registers (R71 to R74) -/

/-- The descriptor that an address instruction gives its destination from the operands of lane l, where none of its checks fails. -/
def ruleDesc (g : Group) (l : Nat) : Instr → Option (BitVec 4 × Desc)
  | .aset _ an vq =>
    let base := (g.rd2 vq l).toNat
    let len := (g.rd2 (vq + 2) l).toNat % 2 ^ 48
    let perm := (g.rd2 (vq + 2) l).toNat / 2 ^ 48
    if g.badN vq 4 l = false ∧ perm < 32 ∧ base < 2 ^ 51 ∧ base + len ≤ 2 ^ 51 then
      some (an, ⟨g.rd2 vq l, g.rd2 vq l, BitVec.ofNat 48 len, BitVec.ofNat 16 perm⟩)
    else none
  | .aadvPair _ an vp => if g.badN vp 2 l then none else moved (g.areg an) (g.rd2 vp l).toInt an
  | .aadvImm _ an imm => moved (g.areg an) imm.toInt an
  | .anarrow _ ad as vp clr =>
    let d := g.areg as
    let len := (g.rd2 vp l).toNat
    if g.badN vp 2 l = false ∧ len < 2 ^ 48 ∧ d.pointer.toNat + len ≤ d.base.toNat + d.length.toNat then
      some (ad, ⟨d.pointer, d.pointer, BitVec.ofNat 48 len, d.perm &&& ~~~(clr.setWidth 16)⟩)
    else none
  | _ => none
where
  /-- A descriptor with its pointer moved inside [base, base + length). -/
  moved (d : Desc) (delta : Int) (an : BitVec 4) : Option (BitVec 4 × Desc) :=
    let p := (d.pointer.toNat : Int) + delta
    if (d.base.toNat : Int) ≤ p ∧ p < (d.base.toNat : Int) + d.length.toNat then some (an, { d with pointer := BitVec.ofInt 64 p }) else none

/-- The cause and TRAPINFO of an address instruction whose checks fail (R71, R72, R74, R143). -/
def ruleDescTrap (g : Group) (l : Nat) : Instr → Option (BitVec 8 × Nat)
  | .aset _ _ vq =>
    let base := (g.rd2 vq l).toNat
    let len := (g.rd2 (vq + 2) l).toNat % 2 ^ 48
    let perm := (g.rd2 (vq + 2) l).toNat / 2 ^ 48
    if g.badN vq 4 l then some (0x0A, l)
    else if 32 ≤ perm then some (0x05, perm)
    else if 2 ^ 51 ≤ base ∨ 2 ^ 51 < base + len then some (0x04, base)
    else none
  | .aadvPair _ an vp => if g.badN vp 2 l then some (0x0A, l) else left (g.areg an) (g.rd2 vp l).toInt
  | .aadvImm _ an imm => left (g.areg an) imm.toInt
  | .anarrow _ _ as vp _ =>
    let d := g.areg as
    let len := (g.rd2 vp l).toNat
    if g.badN vp 2 l then some (0x0A, l)
    else if 2 ^ 48 ≤ len ∨ d.base.toNat + d.length.toNat < d.pointer.toNat + len then some (0x04, len)
    else none
  | _ => none
where
  /-- The moved pointer leaves [base, base + length): TRAPINFO is its 64-bit value. -/
  left (d : Desc) (delta : Int) : Option (BitVec 8 × Nat) :=
    let p := (d.pointer.toNat : Int) + delta
    if p < (d.base.toNat : Int) ∨ (d.base.toNat : Int) + d.length.toNat ≤ p then some (0x04, (BitVec.ofInt 64 p).toNat) else none

/-! ### Memory instructions -/

/-- The address register and the offset register of a global memory instruction. -/
def globalForm : Instr → Option (BitVec 4 × BitVec 6)
  | .ldB _ _ m | .ldH _ _ m | .ldW _ _ m | .ldD _ _ m | .ldQ _ _ m | .stB _ _ m | .stH _ _ m | .stW _ _ m | .stD _ _ m
  | .stQ _ _ m | .atom _ _ m .. | .red _ m .. | .cas _ _ m .. => some (m.an, m.vo)
  | .ldkW _ _ an vo _ | .ldkD _ _ an vo _ => some (an, vo)
  | _ => none

/-- The accesses of a global instruction pass the checks of R75 up to check 6, its pages translate, and every one of them lies in this package: `at_` pairs each
lane's access with its physical address, and `s1` is the state as translation leaves it. -/
def Ctx.Reaches (c : Ctx) (i : Instr) (o : MemOp) (s1 : State) (at_ : List (LaneAcc × Nat)) : Prop :=
  ∃ an vo accs, globalForm i = some (an, vo) ∧ memOpOf i = some o ∧
    c.s.checkGlobal c.g (partLanes i.hdr c.act) (c.g.areg an) vo o (memData i c.g) = .ok accs ∧
    c.s.resolve (c.s.coreOf c.g) (c.s.asidOf c.g) o.need accs = .ok s1 at_ ∧ ∀ a ∈ at_, s1.isLocal a.2 = true

/-- Word k of the answer of n bytes that a lane's load gives. -/
def answerWord (v k : Nat) : Word := BitVec.ofNat 32 (v / 2 ^ (32 * k))

/-- Nothing but bytes of memory, their poison and the lines that L1s hold differ. -/
def State.sameButMemory (s t : State) : Prop := t = { s with mem := t.mem, memPoison := t.memPoison, l1 := t.l1 }

/-- Nothing but translations and L1 lines held, and the bytes of memory that walks have written, differ. -/
def State.sameButTables (s t : State) : Prop := t = { s with mem := t.mem, memPoison := t.memPoison, tlb := t.tlb, walks := t.walks, l1 := t.l1 }

/-- What a load of n bytes at a physical address of this package may give a lane (R136): what memory holds there; or, unless the load is an acquire, what a line of
its core's L1 holds that was read since its group last waited for something (log entry 7). -/
def Ctx.Loaded (c : Ctx) (i : Instr) (s : State) (pa n : Nat) (v : Nat × Marks) : Prop :=
  v = (s.readPA pa n, s.marksPA pa n) ∨ (acquires i = false ∧ ∃ x ∈ s.l1, x.core = c.s.coreOf c.g ∧ x.line = paLocal pa / 64 ∧ c.g.l1Since ≤ x.at_ ∧ v = x.read pa n)

/-- What stores of n bytes at physical addresses leave: nothing but memory differs; each one's bytes are its data, a later one's over an earlier one's; and every other byte
is as before. -/
def State.storedAt (s t : State) (n : Nat) (at_ : List (LaneAcc × Nat)) : Prop :=
  s.sameButMemory t ∧ (∀ b, (∀ a ∈ at_, b < paLocal a.2 ∨ paLocal a.2 + n ≤ b) → t.mem.get b = s.mem.get b) ∧
    ∀ a before later, at_ = before ++ a :: later → (∀ x ∈ later, paLocal a.2 + n ≤ paLocal x.2 ∨ paLocal x.2 + n ≤ paLocal a.2) →
      t.readPA a.2 n = a.1.data.toNat % 2 ^ (8 * n)

/-- R84 by arithmetic: the value that an atomic of n bytes leaves, from the old value and its operand. -/
def ruleAtomic (op : AtomOp) (n old x : Nat) : Nat :=
  let top := 2 ^ (8 * n)
  let num := fun (v : Nat) => if 2 * v < top then (v : Int) else (v : Int) - (top : Int)
  match op with
  | .add => (old + x) % top
  | .and => old &&& x
  | .or => old ||| x
  | .xor => old ^^^ x
  | .min => if num x < num old then x else old
  | .max => if num old < num x then x else old
  | .minu => min old x
  | .maxu => max old x
  | .xchg => x
  | .incw => if old < x then old + 1 else 0
  | .decw => if old = 0 ∨ x < old then x else old - 1
  | .fadd => (toF32 ((f32 (BitVec.ofNat 32 old)).add (f32 (BitVec.ofNat 32 x)))).toNat
  | .fmin => (fMinMax .fmin (BitVec.ofNat 32 old) (BitVec.ofNat 32 x)).toNat
  | .fmax => (fMinMax .fmax (BitVec.ofNat 32 old) (BitVec.ofNat 32 x)).toNat

end Sys2Proof.Machine

section
open Sys2Proof Sys2Proof.Machine

/-! ### Address registers and format registers -/

/-- R71, R72, R74: ASET, both forms of AADV and ANARROW give their destination the descriptor of the rule; nothing else changes but the PC. R71, R72, R74, R143: where a check of these instructions fails, the trap with the rule's cause and TRAPINFO is taken, and no descriptor has changed. R73: AGET writes the chosen field of an address register, zero-extended to 64 bits, to its pair in every active lane: the pointer, the base, the length, the
permissions, or what is left from the pointer to the end (modulo 2^64). Nothing else changes. R229, R199: FMTSET gives a format register the lowest active lane's word where it is a valid format word; an invalid one traps BAD_FORM with the word. -/
def Obligations.AddressRegisters : Prop :=
  ((∀ (c : Ctx) (i : Instr) (an : BitVec 4) (d : Desc), c.Quiet i → ruleDesc c.g c.low i = some (an, d) →
        exec i c.s = .next (c.after i (c.g.setAreg an d))) ∧
    (∀ (c : Ctx) (i : Instr) (cause : BitVec 8) (info : Nat), c.Issues i → c.plain = true → ruleDescTrap c.g c.low i = some (cause, info) →
        exec i c.s = .next (c.s.takeTrap c.n c.slot ⟨cause, BitVec.ofNat 64 info, c.pc, false⟩))) ∧
  ((∀ (c : Ctx) (h : Hdr) (vd : BitVec 6) (an : BitVec 4) (sel : AgetSel),
        let i := Instr.aget h vd an sel
        c.Quiet i → i.wellFormed = true →
        ∃ g', exec i c.s = .next (c.after i g') ∧ c.g.SameBut g' c.act (writes i) ∧
          ∀ l, l < c.g.width → c.act.getLsbD l = true →
            let d := c.g.areg an
            g'.rd2 vd l = match sel with
              | .ptr => d.pointer
              | .base => d.base
              | .len => BitVec.ofNat 64 d.length.toNat
              | .perm => BitVec.ofNat 64 d.perm.toNat
              | .rem => BitVec.ofInt 64 ((d.base.toNat : Int) + d.length.toNat - d.pointer.toNat)) ∧
    (∀ (c : Ctx) (h : Hdr) (fd : BitVec 2) (va : BitVec 6),
        let i := Instr.fmtset h fd va
        let x := c.g.rd va c.low
        c.Quiet i → c.act ≠ 0 → c.g.bad va c.low = false →
        if fmtValid x then exec i c.s = .next (c.after i { c.g with f := Tbl.set 0 c.g.f fd.toNat x })
        else exec i c.s = .next (c.s.takeTrap c.n c.slot ⟨0x02, BitVec.ofNat 64 x.toNat, c.pc, false⟩)))

/-! ### Memory -/

/-- R70, R77, R82, R136: a load or LDK whose pages translate to this package gives every active lane the bytes at its address (under U, those at the lowest active lane's), as memory
has them or, for a load that is no acquire, as its core's L1 does, zero-extended, the low word in the lowest register, each register with the poison of the 8 bytes it comes from (R142). Registers but the
destinations, and all else that translation leaves but lines of the L1, stay. -/
def Obligations.LoadResults : Prop :=
  ∀ (c : Ctx) (i : Instr) (o : MemOp) (vt : BitVec 6) (n : Nat) (s1 : State) (at_ : List (LaneAcc × Nat)),
    c.Quiet i → i.wellFormed = true → o.isLoad = true → memDest i = some (vt, n) → c.Reaches i o s1 at_ →
    ∃ g' lines, ∃ v : Nat → Nat × Marks, exec i c.s = .next (c.advance i { s1.setGroup c.n g' with l1 := lines }) ∧ c.g.SameBut g' c.act (writes i) ∧
      (∀ a ∈ at_, (∃ an vo, globalForm i = some (an, vo) ∧
        (a.1.ea : Int) = effAddr (c.g.areg an) (c.s.wsOf c.g) a.1.lane (c.g.offset vo a.1.lane)) ∧ c.Loaded i s1 a.2 o.bytes (v a.1.lane)) ∧
      ∀ l, l < c.g.width → c.act.getLsbD l = true → ∀ a ∈ at_, a.1.lane = c.laneOf i l → ∀ k, k < n →
        g'.rdp (vt.toNat + k) l = (answerWord (v a.1.lane).1 k, (v a.1.lane).2.getLsbD (k / 2))

/-- R70, R77, R78: a store whose pages translate to this package leaves each lane's data at the lane's address, a later lane's over an earlier one's; every
byte outside the bytes stored to reads as translation left it, and nothing else changes but the PC and the lines that L1s hold. -/
def Obligations.StoreResults : Prop :=
  ∀ (c : Ctx) (i : Instr) (n : Nat) (s1 : State) (at_ : List (LaneAcc × Nat)),
    c.Quiet i → i.wellFormed = true → c.s.Inv → c.Reaches i (.store n) s1 at_ →
    ∃ t, exec i c.s = .next (c.advance i t) ∧ s1.sameButMemory t ∧
      (∀ a ∈ at_, ∃ an vo, globalForm i = some (an, vo) ∧
        (a.1.ea : Int) = effAddr (c.g.areg an) (c.s.wsOf c.g) a.1.lane (c.g.offset vo a.1.lane) ∧ a.1.data = (memData i c.g a.1.lane).1) ∧
      (∀ b, (∀ a ∈ at_, b < paLocal a.2 ∨ paLocal a.2 + n ≤ b) → t.mem.get b = s1.mem.get b) ∧
      ∀ a before later, at_ = before ++ a :: later → (∀ x ∈ later, paLocal a.2 + n ≤ paLocal x.2 ∨ paLocal x.2 + n ≤ paLocal a.2) →
        t.readPA a.2 n = a.1.data.toNat % 2 ^ (8 * n)

/-- R84, R86, R87: ATOM, RED and CAS whose pages translate to this package act lane by lane in ascending order on the bytes at the lanes' addresses; ATOM and CAS give
every active lane the value before its own change (under U, the one access's). Memory outside those bytes and every other register stay (lines of the L1 may go); the team's run is no longer restart-safe (R349). R84: one atomic access leaves the value of its rule, from the value at the address and the lane's operand; CAS leaves the new value where the value there
equals the compare value, and what was there elsewhere. -/
def Obligations.AtomicResults : Prop :=
  (∀ (c : Ctx) (i : Instr) (o : MemOp) (s1 : State) (at_ : List (LaneAcc × Nat)),
      c.Quiet i → i.wellFormed = true → c.s.Inv → o.need = .atomic → c.Reaches i o s1 at_ →
      let r := s1.performList c.n false o at_
      ∃ g', exec i c.s = .next (c.advance i ((r.1.setGroup c.n g').endSafe c.g)) ∧ s1.sameButMemory r.1 ∧ c.g.SameBut g' c.act (writes i) ∧
        (∀ b, (∀ a ∈ at_, b < paLocal a.2 ∨ paLocal a.2 + o.bytes ≤ b) → r.1.mem.get b = s1.mem.get b) ∧
        ∀ vt n, memDest i = some (vt, n) → ∀ l, l < c.g.width → c.act.getLsbD l = true →
          ∀ a before later, at_ = before ++ a :: later → a.1.lane = c.laneOf i l → ∀ k, k < n →
            (g'.rdp (vt.toNat + k) l).1 = answerWord ((s1.performList c.n false o before).1.readPA a.2 o.bytes) k) ∧
  (∀ (s : State) (a : LaneAcc) (pa : Nat) (dw : Bool), s.Inv →
      let n := if dw then 8 else 4
      let old := s.readPA pa n
      (∀ op ret, (dw = true → op.floating = false) →
        (s.performAt (.atomic op dw ret) a pa).1.readPA pa n = ruleAtomic op n old (a.data.toNat % 2 ^ (8 * n))) ∧
      (s.performAt (.cas dw) a pa).1.readPA pa n =
        (if old = a.data.toNat % 2 ^ (8 * n) then a.data.toNat / 2 ^ 64 % 2 ^ (8 * n) else old))

/-- R75, R76, R81, R87, R143: the checks of a global access in their order, each over the participating lanes, the lowest lane that fails giving TRAPINFO: a poisoned offset, or poisoned
data of a store, atomic, RED or CAS whose address is in another package (POISON, the lane), a permission that the descriptor lacks (ADDR_PERM), the bounds (ADDR_LIMIT), the alignment (MISALIGN), the last three with the address. -/
def Obligations.AccessTraps : Prop :=
  ∀ (c : Ctx) (i : Instr) (o : MemOp) (an : BitVec 4) (vo : BitVec 6) (l : Nat),
    c.Issues i → c.plain = true → globalForm i = some (an, vo) → memOpOf i = some o →
    let lanes := partLanes i.hdr c.act
    let d := c.g.areg an
    let ea := fun k => effAddr d (c.s.wsOf c.g) k (c.g.offset vo k)
    let poisons := fun k => c.g.offsetBad vo k || ((memData i c.g k).2 != 0 && c.s.leaves (c.s.coreOf c.g) (c.s.asidOf c.g) (ea k))
    let clean := ∀ k ∈ lanes, poisons k = false
    let inside := ∀ k ∈ lanes, inBounds d (c.s.wsOf c.g) k o.bytes (ea k) = true
    let traps := fun (cause : BitVec 8) (info : BitVec 64) => exec i c.s = .next (c.s.takeTrap c.n c.slot ⟨cause, info, c.pc, false⟩)
    (lanes.find? poisons = some l → traps 0x0A (BitVec.ofNat 64 l)) ∧
    (clean → lanes.head? = some l → o.permitted d.perm = false → traps 0x05 (BitVec.ofInt 64 (ea l))) ∧
    (clean → o.permitted d.perm = true → lanes.find? (fun k => !inBounds d (c.s.wsOf c.g) k o.bytes (ea k)) = some l →
      traps 0x04 (BitVec.ofInt 64 (ea l))) ∧
    (clean → o.permitted d.perm = true → inside → lanes.find? (fun k => (ea k).toNat % o.bytes != 0) = some l →
      traps 0x06 (BitVec.ofInt 64 (ea l)))

/-- R83: LDL gives every active lane the bytes at its local address (the offset register zero-extended, plus the immediate times 4), the low word in the lowest
register, each with the poison of the 8 bytes it comes from; nothing else changes. R83, R78: STL leaves each lane's data at its local address, a later lane's over an earlier one's; every other byte of the team's local memory reads as
before, and nothing else changes but the PC. R84, R85: ATOML acts lane by lane in ascending order on the team's local memory and gives every active lane the value before its own change; bytes of local memory that no lane
names, and every other register, stay; the team's run is no longer restart-safe. -/
def Obligations.LocalMemoryResults : Prop :=
  (∀ (c : Ctx) (t : Team) (h : Hdr) (vt vo : BitVec 6) (sz : LmSize) (imm : BitVec 8),
      let i := Instr.ldl h vt vo sz imm
      let n := lmBytes sz
      let la := fun k => (if vo = 63 then 0 else (c.g.rd vo k).toNat) + 4 * imm.toNat
      c.Quiet i → i.wellFormed = true → c.team = some t →
      (∀ k ∈ partLanes h c.act, c.g.offsetBad vo k = false ∧ la k + n ≤ t.localSize ∧ la k % n = 0) →
      ∃ g', exec i c.s = .next (c.after i g') ∧ c.g.SameBut g' c.act (writes i) ∧
        ∀ l, l < c.g.width → c.act.getLsbD l = true → ∀ k, k < n / 4 →
          g'.rdp (vt.toNat + k) l = (answerWord (t.readLocal (la (c.laneOf i l)) n).1 k, (t.localMarks (la (c.laneOf i l)) n).getLsbD (k / 2))) ∧
  (∀ (c : Ctx) (t : Team) (h : Hdr) (vt vo : BitVec 6) (sz : LmSize) (imm : BitVec 8),
      let i := Instr.stl h vt vo sz imm
      let n := lmBytes sz
      let lanes := partLanes h c.act
      let la := fun k => (if vo = 63 then 0 else (c.g.rd vo k).toNat) + 4 * imm.toNat
      c.Quiet i → i.wellFormed = true → c.team = some t → Memory.wf t.localMem = true →
      (∀ k ∈ lanes, c.g.offsetBad vo k = false ∧ la k + n ≤ t.localSize ∧ la k % n = 0) →
      ∃ t', exec i c.s = .next (c.advance i (c.s.setTeam c.g.team t')) ∧ t' = { t with localMem := t'.localMem, localPoison := t'.localPoison } ∧
        (∀ b, (∀ k ∈ lanes, b < la k ∨ la k + n ≤ b) → t'.localMem.get b = t.localMem.get b) ∧
        ∀ l ∈ lanes, (∀ k ∈ lanes, l < k → la l + n ≤ la k ∨ la k + n ≤ la l) →
          (t'.readLocal (la l) n).1 = ((storeData c.g vt n l).1).toNat % 2 ^ (8 * n)) ∧
  (∀ (c : Ctx) (t : Team) (h : Hdr) (vt vo : BitVec 6) (order : Order) (nt : Bool) (op : AtomOp) (dw : Bool) (vs : BitVec 6),
      let i := Instr.atoml h vt vo order nt op dw vs
      let n := if dw then 8 else 4
      let lanes := partLanes h c.act
      let la := fun k => if vo = 63 then 0 else (c.g.rd vo k).toNat
      let accs := lanes.map fun k => ((⟨k, 0, (memData i c.g k).1, (memData i c.g k).2⟩ : LaneAcc), la k)
      let u : Team := { t with safe := false }
      let r := u.atomicList op dw accs
      c.Quiet i → i.wellFormed = true → c.team = some t → Memory.wf t.localMem = true →
      (∀ k ∈ lanes, c.g.offsetBad vo k = false ∧ la k + n ≤ t.localSize ∧ la k % n = 0) →
      ∃ g', exec i c.s = .next (c.advance i ((c.s.setGroup c.n g').setTeam c.g.team r.1)) ∧ c.g.SameBut g' c.act (writes i) ∧
        r.1 = { u with localMem := r.1.localMem, localPoison := r.1.localPoison } ∧
        (∀ b, (∀ k ∈ lanes, b < la k ∨ la k + n ≤ b) → r.1.localMem.get b = t.localMem.get b) ∧
        ∀ l, l < c.g.width → c.act.getLsbD l = true →
          ∀ a before later, accs = before ++ a :: later → a.1.lane = c.laneOf i l → ∀ k, k < (if dw then 2 else 1) →
            (g'.rdp (vt.toNat + k) l).1 = answerWord ((u.atomicList op dw before).1.readLocal a.2 n).1 k)

/-- R31, R88 to R90, R136, R295, R301: NOP, PAD, FENCE but for FENCE.SC, CCTL.L2WB and CCTL.L2EVICT and a WAIT.SLEEP of 0 cycles only take the path on. CCTL.L1INV leaves its core's L1 without a line. WAIT.YIELD
leaves a note of its time for the scheduler. PREF takes the path on and may bring translations into TLBs, whose walks set bits in entries, and lines into its L1; CCTL.ICPF may also bring words of code into instruction
caches. FENCE.SC leaves its group asleep at the fence until a heartbeat. -/
def Obligations.HintsTakeThePathOn : Prop :=
  ∀ (c : Ctx) (i : Instr), c.Quiet i →
    match i with
    | .nop _ | .pad .. | .fence _ .acq _ | .fence _ .rel _ | .fence _ .full _ | .cctl _ .l2wb _
    | .cctl _ .l2evict _ => exec i c.s = .next (c.advance i c.s)
    | .cctl _ .l1inv _ => exec i c.s = .next (c.advance i { c.s with l1 := c.s.l1.filter fun x => x.core != c.s.coreOf c.g })
    | .waitSleep _ k => k = 0 → exec i c.s = .next (c.advance i c.s)
    | .waitYield _ => exec i c.s = .next (c.after i { c.g with sched := { c.g.sched with yielded := some c.s.ticks } })
    | .pref .. => ∃ t, exec i c.s = .next (c.advance i t) ∧ c.s.sameButTables t
    | .cctl _ .icpf _ => ∃ t words, exec i c.s = .next (c.advance i { t with icache := words }) ∧ c.s.sameButTables t
    | .fence _ .sc _ => exec i c.s = .next { c.s.setGroup c.n { c.g with asleep := some (.fenceSC c.slot) } with chain := 0 }
    | _ => True

end

namespace Sys2Proof.Machine

/-- The value that MFS reads in lane l (R188, R189, R370). -/
def ruleSpecial (s : State) (g : Group) (l : Nat) : SReg → Nat
  | .laneid => l
  | .groupid => g.gid
  | .teamid => ((s.team g.team).map fun t => t.teamId.toNat).getD 0
  | .nodeid => ((s.team g.team).map Team.node).getD 0
  | .core => core
  | .quad => core / 4
  | .die => core / 64
  | .pkg => s.pkgId.toNat
  | .nlanes => ((List.range 64).filter fun k => g.alive.getLsbD k).length
  | .cycle => s.cycle
  | .heartbeat => s.heartbeats
  | .foldpol => g.foldpol.toNat
  | .matcnt => g.matcnt.toNat
  | .rngs => (g.rng l).toNat
  | .x0 => (g.xreg 0).toNat
  | .x1 => (g.xreg 1).toNat
  | .x2 => (g.xreg 2).toNat
  | .trapcause => if g.trap.level then g.trap.cause.toNat else 0
  | .trappc => if g.trap.level then g.trap.pc.toNat else 0
  | .trapinfo => if g.trap.level then g.trap.info.toNat else 0
  | .huskstat =>
    let flag := fun (b : Bool) k => if b then 2 ^ k else 0
    flag g.deliv 2 + flag g.abort 3 + match g.husk with
      | some h => if h.inside || h.adopt then flag h.inside 0 + flag h.adopt 1 + 256 * h.step + 65536 * h.icount else 0
      | none => 0
where
  /-- The core of the group's team. -/
  core : Nat := ((s.team g.team).map Team.core).getD 0

/-- The group after a write of a special register that holds one value for the group, from the lowest active lane's value x (R188, R189); none
where the value is refused. -/
def ruleSetSpecial (g : Group) (x : DWord) : SReg → Option Group
  | .foldpol => if x.toNat < 3 then some { g with foldpol := x.setWidth 32 } else none
  | .matcnt => some { g with matcnt := x.setWidth 32 }
  | .x0 => some { g with x := Tbl.set 0 g.x 0 (x.setWidth 16) }
  | .x1 => some { g with x := Tbl.set 0 g.x 1 (x.setWidth 16) }
  | .x2 => some { g with x := Tbl.set 0 g.x 2 (x.setWidth 16) }
  | .trappc => some (if g.trap.level then { g with trap := { g.trap with pc := x } } else g)
  | .trapinfo => some (if g.trap.level then { g with trap := { g.trap with info := x } } else g)
  | _ => none

/-- The matrix instructions that enter the queue (R234). -/
def mxQueued : Instr → Bool
  | .obres .. | .obrel .. | .bres .. | .brel .. | .mxloop .. | .accz .. | .acczFree .. | .accrd .. | .accwr .. | .accst .. | .accld .. => true
  | _ => false

/-- The path records no slice and runs no capsule, and the core has room for the group's rows: an instruction is followed by nothing. -/
abbrev Ctx.settled (c : Ctx) : Prop := c.path.slice = none ∧ c.g.capsule c.slot = none ∧ c.roomy = true

end Sys2Proof.Machine

section
open Sys2Proof Sys2Proof.Machine

/-! ### Special registers -/

/-- R188, R189, R370: MFS writes the special register's value to its destination in every active lane (the lowest active lane's under U), a register of 64 bits to
a pair; nothing else changes. R188 to R190: MTS gives FOLDPOL, MATCNT, X0 to X2, TRAPPC and TRAPINFO the lowest active lane's value (the last two are discarded at trap level 0), and the generator of every
active lane the lane's own (under U the lowest's); nothing else changes. FOLDPOL refuses a value above 2 with BAD_FORM and the value. -/
def Obligations.SpecialRegisters : Prop :=
  (∀ (c : Ctx) (h : Hdr) (vd : BitVec 6) (sr : SReg),
      let i := Instr.mfs h vd sr
      c.Quiet i → i.wellFormed = true →
      ∃ g', exec i c.s = .next (c.after i g') ∧ c.g.SameBut g' c.act (writes i) ∧
        ∀ l, l < c.g.width → c.act.getLsbD l = true →
          let v := ruleSpecial c.s c.g (c.laneOf i l) sr
          if sr.wide then g'.rd2 vd l = BitVec.ofNat 64 v else g'.rd vd l = BitVec.ofNat 32 v) ∧
  (∀ (c : Ctx) (h : Hdr) (vd : BitVec 6) (sr : SReg),
      let i := Instr.mts h vd sr
      let x : DWord := if sr.wide then c.g.rd2 vd c.low else (c.g.rd vd c.low).setWidth 64
      c.Quiet i → i.wellFormed = true → c.act ≠ 0 → (∀ l, l < 64 → c.act.getLsbD l = true → c.g.badN vd 2 l = false) →
      (sr ≠ .rngs → match ruleSetSpecial c.g x sr with
        | some g' => exec i c.s = .next (c.after i g')
        | none => exec i c.s = .next (c.s.takeTrap c.n c.slot ⟨0x02, x, c.pc, false⟩)) ∧
      (sr = .rngs → ∃ g', exec i c.s = .next (c.after i g') ∧ g' = { c.g with rngs := g'.rngs } ∧
        ∀ l, l < 64 → g'.rng l = if c.act.getLsbD l then c.g.rd vd (c.laneOf i l) else c.g.rng l))

/-! ### Recipes and scopes -/

/-- R150, R183: a MKRCP whose slice lies in its code section, outside no loop body, and ends with an instruction that writes vd, begins to record: the lanes of M are
the active ones, nothing is pinned yet, and nothing else changes but what fetching leaves, words of a loop's body in its buffer among it (R305). -/
def Obligations.RecipeBegins : Prop :=
  ∀ (c : Ctx) (h : Hdr) (vd : BitVec 6) (n : BitVec 3) (ws : List Word) (s1 : State),
    let i := Instr.mkrcp h vd n
    let first := c.pc.toNat + 4
    let len := n.toNat + 1
    c.Quiet i → sliceInSection (c.s.sectsOf c.g) first len = true → slicePastLoop c.path.loop first len = false →
    c.fetchWords len first c.s = .ok ws s1 → sliceEnds (c.s.sectsOf c.g) first ws vd = true →
    ∃ g1 l, s1.group c.n = some g1 ∧ g1 = c.g.setSlot c.slot (some { c.path with loop := l }) ∧ (c.path.loop = none → l = none) ∧
      exec i c.s = .next (s1.setGroup c.n (g1.setSlot c.slot (some { c.path with
        loop := l, pc := c.pc + 4, slice := some ⟨c.pc, c.pc + 4, ws, vd, c.act, Pins.none, Pins.none, true⟩ })))

/-- R157, R158, R184: RMAT of a folded register leaves in a row what the words of its recipe give over the group's registers, in the lanes of M and 0 in the others, without poison there, releases the record
and raises MATCNT by 1; RMAT of any other register only takes its recipe away. RMAT.ALL does so for every folded register, in ascending order, and leaves every other register as it is; MATCNT rises by their number. R147, R185: RSTAT writes to every active lane how
a register is held (0 EMPTY, 1 in a row, 2 UNIFORM, 3 FOLDED, 4 SPILLED), 8 more where it carries a recipe, 16 more where it is locked; where no recipe stands at its destination or pins it, nothing else changes. R149, R158, R187: SCOPE.OPEN pushes its range, and traps BAD_FORM with
8 where 8 stand open. SCOPE.CLOSE, where no register of the range is owed or locked, materializes the folded registers that pin one, pops the range and leaves its registers EMPTY; where no recipe pins one nothing else changes. With no range open it traps BAD_FORM with 0. -/
def Obligations.RegisterStates : Prop :=
  (∀ (c : Ctx) (h : Hdr) (vd : BitVec 6),
      (∀ s1 g1, c.Issues (.rmat h vd) → c.settled → (c.g.vreg vd.toNat).hold = .folded → c.s.formReg c.g vd.toNat = .ok s1 g1 →
        exec (.rmat h vd) c.s = .next ((c.advance (.rmat h vd) (s1.setGroup c.n
          { g1.setVreg vd.toNat { g1.vreg vd.toNat with recipe := none } with matcnt := g1.matcnt + 1 })).fitAreas c.n c.g.inRows)) ∧
      (c.Issues (.rmat h vd) → c.settled → (c.g.vreg vd.toNat).hold ≠ .folded →
        exec (.rmat h vd) c.s = .next (c.after (.rmat h vd) (c.g.setVreg vd.toNat { c.g.vreg vd.toNat with recipe := none }))) ∧
      (∀ s1 g1, c.Issues (.rmatAll h) → c.settled → c.s.materializeAll c.g (List.range 64) = .ok s1 g1 →
        exec (.rmatAll h) c.s = .next ((c.advance (.rmatAll h) (s1.setGroup c.n g1)).fitAreas c.n c.g.inRows) ∧
          g1 = { c.g with v := g1.v, matcnt := c.g.matcnt + BitVec.ofNat 32 ((List.range 64).countP fun r => (c.g.vreg r).hold == .folded) } ∧
          ∀ r, r < 64 → (c.g.vreg r).hold ≠ .folded → g1.vreg r = c.g.vreg r)) ∧
  (∀ (s : State) (g : Group) (r : Nat) (rs : List Nat),
      ((g.vreg r).hold ≠ .folded → s.materializeAll g (r :: rs) = s.materializeAll g rs) ∧
      (∀ s1 g1, (g.vreg r).hold = .folded → s.formReg g r = .ok s1 g1 → s.materializeAll g (r :: rs) =
        s1.materializeAll { g1.setVreg r { g1.vreg r with recipe := none } with matcnt := g1.matcnt + 1 } rs) ∧
      ∀ rc s1 view, r < 64 → g.widthOk = true → (g.vreg r).hold = .folded → (g.vreg r).recipe = some rc →
        s.regenRun rc.m r 8 rc.words (g.setVreg r VReg.empty) = .ok s1 view →
        ∃ vals ps, s.formReg g r = .ok s1 (g.setVreg r { g.vreg r with hold := .rows vals ps }) ∧
          ∀ l, l < g.width → (g.setVreg r { g.vreg r with hold := .rows vals ps }).rdp r l = if rc.m.getLsbD l then view.rdp r l else (0, false)) ∧
  (∀ (c : Ctx) (h : Hdr),
      (∀ vd va, c.Issues (.rstat h vd va) → c.settled → c.g.widthOk = true → (c.g.vreg vd.toNat).recipe = none →
        (∀ r rc, r < 64 → (c.g.vreg r).recipe = some rc → rc.pinsAny (Foot.v1 vd) = false) →
        ∃ g', exec (.rstat h vd va) c.s = .next (c.after (.rstat h vd va) g') ∧ c.g.SameBut g' c.act (writes (.rstat h vd va)) ∧
          ∀ l, l < c.g.width → c.act.getLsbD l = true →
            (g'.rd vd l).toNat = (match (c.g.vreg va.toNat).hold with
              | .empty => 0 | .rows _ _ => 1 | .uniform _ _ => 2 | .folded => 3 | .spilled _ _ => 4)
              + (if (c.g.vreg va.toNat).recipe = none then 0 else 8) + if (c.g.vreg va.toNat).locks = 0 then 0 else 16) ∧
      (∀ lo hi, c.Issues (.scopeOpen h lo hi) → c.settled → c.g.scopes.length < 8 →
        exec (.scopeOpen h lo hi) c.s = .next (c.after (.scopeOpen h lo hi) { c.g with scopes := (lo, hi) :: c.g.scopes })) ∧
      (∀ lo hi, c.Issues (.scopeOpen h lo hi) → c.g.scopes.length = 8 →
        exec (.scopeOpen h lo hi) c.s = .next (c.s.takeTrap c.n c.slot ⟨0x02, 8, c.pc, false⟩)) ∧
      (c.Issues (.scopeClose h) → c.g.scopes = [] → exec (.scopeClose h) c.s = .next (c.s.takeTrap c.n c.slot ⟨0x02, 0, c.pc, false⟩)) ∧
      ∀ lo hi rest, c.Issues (.scopeClose h) → c.settled → c.g.scopes = (lo, hi) :: rest → ((rangeFoot lo hi).v &&& c.g.busyV) = 0 →
        (∀ s1 g1, c.s.prepareWrite c.g (rangeFoot lo hi) c.g.all true = .ok s1 g1 →
          ∃ g', exec (.scopeClose h) c.s = .next ((c.advance (.scopeClose h) (s1.setGroup c.n g')).fitAreas c.n c.g.inRows) ∧
            g' = { g1 with v := g'.v, scopes := rest } ∧
            ∀ r, r < 64 → g'.vreg r = if lo.toNat ≤ r ∧ r ≤ hi.toNat then VReg.empty else g1.vreg r) ∧
        ((∀ r rc, r < 64 → (c.g.vreg r).recipe = some rc → rc.pinsAny (rangeFoot lo hi) = false) →
          c.s.prepareWrite c.g (rangeFoot lo hi) c.g.all true = .ok c.s c.g ∧ ∃ g', exec (.scopeClose h) c.s = .next (c.after (.scopeClose h) g')))

/-! ### Copy engine instructions -/

/-- R91, R101, R103: a QSUB whose request block passes every static check, on an engine with a free record, appends the request to the core's engine with the
512 bits read at the local address, nothing yet credited, and writes the promised cycle, at least 96 from now, to its pair in every active lane. R99, R104: CBINIT makes 16 bytes of local memory a barrier that expects the pair's bytes, without a fault; every other byte of local memory stays. -/
def Obligations.CopyEngineInstructions : Prop :=
  (∀ (c : Ctx) (t : Team) (h : Hdr) (vd vo : BitVec 6) (imm : BitVec 10),
      let i := Instr.qsub h vd vo imm
      let la := (if vo = 63 then 0 else (c.g.rd vo c.low).toNat) + 64 * imm.toNat
      let blk : BitVec 512 := BitVec.ofNat 512 (t.readLocal la 64).1
      c.Quiet i → i.wellFormed = true → c.team = some t → c.g.offsetBad vo c.low = false → la + 64 ≤ t.localSize → la % 64 = 0 →
      (t.readLocal la 64).2 = false → blkLcnt blk = 0 → copyCheck c.g t.localSize blk [] = 0 →
      (c.s.copies.filter fun r => r.core == t.core).length < 32 → c.g.remoteWrites = false → c.g.mxUses blk = false →
      ∃ g' r, exec i c.s = .next (c.advance i { c.s.setGroup c.n g' with copies := c.s.copies ++ [r] }) ∧ c.g.SameBut g' c.act (writes i) ∧
        r.core = t.core ∧ r.team = c.g.team ∧ r.group = c.n ∧ r.block = blk ∧ r.list = [] ∧ r.done = 0 ∧ c.s.cycle + 96 ≤ r.promise ∧
        ∀ l, l < c.g.width → c.act.getLsbD l = true → g'.rd2 vd l = BitVec.ofNat 64 r.promise) ∧
  (∀ (c : Ctx) (t : Team) (h : Hdr) (vp vo : BitVec 6) (imm : BitVec 9),
      let i := Instr.cbinit h vp vo imm
      let la := (if vo = 63 then 0 else (c.g.rd vo c.low).toNat) + 16 * imm.toNat
      c.Quiet i → c.team = some t → c.g.badN vp 2 c.low = false → c.g.offsetBad vo c.low = false → la + 16 ≤ t.localSize → la % 16 = 0 →
      Memory.wf t.localMem = true →
      ∃ t', exec i c.s = .next (c.advance i (c.s.setTeam c.g.team t')) ∧ t' = { t with localMem := t'.localMem, localPoison := t'.localPoison } ∧
        barCount (t'.barrier la) = (c.g.rd2 vp c.low).toNat ∧ barFault (t'.barrier la) = false ∧
        ∀ b, b < la ∨ la + 16 ≤ b → t'.localMem.get b = t.localMem.get b)

/-- R105, R106, R107: CBWAIT completes at a barrier that expects nothing, shows no fault and is not poisoned, SLEEPUNTIL at or after its cycle, SLEEPUNTIL.CHK then too where its barrier expects nothing, shows no fault
and is not poisoned, PUBLISH of an empty region at once: only the PC changes. Before its time each of the first three leaves its group asleep. -/
def Obligations.WaitsComplete : Prop :=
  ∀ (c : Ctx) (t : Team) (h : Hdr) (vp vo : BitVec 6) (imm : BitVec 9) (an : BitVec 4), c.team = some t →
    let la := (if vo = 63 then 0 else (c.g.rd vo c.low).toNat) + 16 * imm.toNat
    let placed := c.g.offsetBad vo c.low = false ∧ la + 16 ≤ t.localSize ∧ la % 16 = 0
    let sound := barFault (t.barrier la) = false ∧ (t.readLocal la 16).2 = false
    let clean := c.g.badN vp 2 c.low = false
    let asleep := fun (z : Sleep) => Host.Outcome.next (φ := Fault) (ρ := Refusal) { c.s.setGroup c.n { c.g with asleep := some z } with chain := 0 }
    (c.Quiet (.cbwait h vo imm) → placed → sound → barCount (t.barrier la) = 0 →
      exec (.cbwait h vo imm) c.s = .next (c.advance (.cbwait h vo imm) c.s)) ∧
    (c.Quiet (.cbwait h vo imm) → placed → sound → barCount (t.barrier la) ≠ 0 → exec (.cbwait h vo imm) c.s = asleep (.cbwait c.slot la)) ∧
    (c.Quiet (.sleepuntil h vp) → clean → (c.g.rd2 vp c.low).toNat ≤ c.s.cycle →
      exec (.sleepuntil h vp) c.s = .next (c.advance (.sleepuntil h vp) c.s)) ∧
    (c.Quiet (.sleepuntil h vp) → clean → c.s.cycle < (c.g.rd2 vp c.low).toNat →
      exec (.sleepuntil h vp) c.s = asleep (.sleepuntil c.slot (c.g.rd2 vp c.low) none)) ∧
    (c.Quiet (.sleepuntilChk h vp vo imm) → clean → placed → sound → barCount (t.barrier la) = 0 → (c.g.rd2 vp c.low).toNat ≤ c.s.cycle →
      exec (.sleepuntilChk h vp vo imm) c.s = .next (c.advance (.sleepuntilChk h vp vo imm) c.s)) ∧
    (c.Quiet (.sleepuntilChk h vp vo imm) → clean → placed → c.s.cycle < (c.g.rd2 vp c.low).toNat →
      exec (.sleepuntilChk h vp vo imm) c.s = asleep (.sleepuntil c.slot (c.g.rd2 vp c.low) (some la))) ∧
    (c.Quiet (.publish h an) → (c.g.areg an).perm.getLsbD 7 = true → (c.g.areg an).base.toNat % 65536 = 0 → (c.g.areg an).length = 0 →
      c.g.remoteWrites = false → exec (.publish h an) c.s = .next (c.advance (.publish h an) c.s))

/-! ### Matrix instructions -/

/-- R148, R234: a matrix instruction enters the end of its group's queue with the lanes active at issue, its vector sources locked once more each; no register changes
its value, and nothing else changes but the PC. -/
def Obligations.MatrixInstructionsQueue : Prop :=
  ∀ (c : Ctx) (i : Instr), mxQueued i = true → c.Quiet i → c.g.mxTrap = none → c.g.mx.length < 8 → c.s.mxOnCore (c.s.coreOf c.g) < 16 →
    ∃ g' w, exec i c.s = .next (c.after i g') ∧ g' = { c.g with v := g'.v, mx := c.g.mx ++ [w] } ∧
      w.instr = i ∧ w.pc = c.pc ∧ w.mask = c.act ∧ w.ops = none ∧ w.it = 0 ∧ w.k = 0 ∧
      ∀ r, r < 64 → g'.vreg r = { c.g.vreg r with locks := (c.g.vreg r).locks + if (reads i).v.getLsbD r then 1 else 0 }

/-- R248 to R250: where no deferred fault is to be delivered, MXWAIT completes when no matrix work is awaited (frozen work is not), and else leaves its group asleep; MXFRZ at trap level freezes the group's matrix work
and MXFRZ.THAW thaws it, and at trap level 0 both trap BAD_FORM with the word; MXSTA writes the state of the work to its quad in every active lane, as the table of R250 gives it: the number of instructions, whether they are
frozen, whether a deferred fault is pending and its reason; the iteration and the local K of the loop that runs, or 0; what tiles and slots are held; zeros elsewhere. R236: a pending fault of reason 0 is delivered at trap level 0 as POISON and any other as MATRIX_FAULT, with the reason, the slot or tile, and bits [50:2] of the PC of the instruction that failed; it is pending no more. -/
def Obligations.MatrixControl : Prop :=
  (∀ (c : Ctx) (h : Hdr), c.g.mxTrap = none →
    (c.Quiet (.mxwait h) → c.g.mxAwaited = false → exec (.mxwait h) c.s = .next (c.after (.mxwait h) { c.g with asleep := none })) ∧
    (c.Issues (.mxwait h) → c.g.mxAwaited = true →
      exec (.mxwait h) c.s = .next { c.s.setGroup c.n { c.g with asleep := some (.mxwait c.slot) } with chain := 0 }) ∧
    (c.g.frozen = false → (c.g.mxAwaited = true ↔ c.g.mx ≠ [])) ∧ (c.g.frozen = true → (c.g.mxAwaited = true ↔ ∃ w ∈ c.g.mx, w.ahead = true)) ∧
    (c.Quiet (.mxfrz h) → c.g.trap.level = true → exec (.mxfrz h) c.s = .next (c.after (.mxfrz h) { c.g with frozen := true })) ∧
    (c.Quiet (.mxfrzThaw h) → c.g.trap.level = true → exec (.mxfrzThaw h) c.s = .next (c.after (.mxfrzThaw h) { c.g with frozen := false })) ∧
    ∀ i ∈ [Instr.mxfrz h, .mxfrzThaw h], c.Issues i → c.g.trap.level = false →
      exec i c.s = .next (c.s.takeTrap c.n c.slot ⟨0x02, BitVec.ofNat 64 (encode1 i).toNat, c.pc, false⟩)) ∧
  (∀ (c : Ctx) (h : Hdr) (vq : BitVec 6),
    let i := Instr.mxsta h vq
    let loop := c.g.mx.find? fun w => (match w.instr with | .mxloop .. => true | _ => false) && w.ops.isSome
    c.Quiet i → i.wellFormed = true → c.g.mxTrap = none → c.g.mx.length ≤ 16 → (∀ f, c.g.mxFault = some f → f.reason < 256) →
    ∃ g', exec i c.s = .next (c.after i g') ∧ c.g.SameBut g' c.act (writes i) ∧
      ∀ l, l < c.g.width → c.act.getLsbD l = true →
        let w := fun k => g'.rd (vq + BitVec.ofNat 6 k) l
        (w 0).toNat % 32 = c.g.mx.length ∧ (w 0).getLsbD 8 = c.g.frozen ∧ (w 0).getLsbD 9 = c.g.mxFault.isSome ∧
          (w 0).toNat / 65536 = (match c.g.mxFault with | some f => f.reason | none => 0) ∧ w 0 &&& 0x0000FCE0 = 0 ∧
          w 1 = BitVec.ofNat 32 (match loop with | some x => x.it | none => 0) ∧ w 2 = BitVec.ofNat 32 (match loop with | some x => x.k | none => 0) ∧
          (∀ t, t < 2 → (w 3).getLsbD t = (c.g.tileAt t).isSome) ∧ (∀ j, j < 8 → (w 3).getLsbD (8 + j) = (c.g.obAt j).isSome) ∧
          (∀ j, j < 4 → (w 3).getLsbD (16 + j) = (c.g.bAt j).isSome) ∧ w 3 &&& 0xFFF000FC = 0) ∧
  ∀ (c : Ctx) (i : Instr) (f : MxFault), c.Issues i → c.g.trap.level = false → c.g.mxFault = some f → f.reason < 256 → f.what < 128 →
    (mxQueued i = true ∨ match i with | .mxwait _ | .mxfrz _ | .mxfrzThaw _ | .mxsta .. => True | _ => False) →
    let t : TrapReq := ⟨if f.reason = 0 then 0x0A else 0x1A, BitVec.ofNat 64 (f.reason + 256 * f.what + 32768 * (f.pc.toNat / 4 % 2 ^ 49)), c.pc, false⟩
    exec i c.s = .next (c.s.takeTrap c.n c.slot t) ∧ ∀ pc, (c.g.enter c.slot t pc).mxFault = none

end

namespace Sys2Proof.Machine

/-- The path of `c` at another PC. -/
def Ctx.at_ (c : Ctx) (pc : DWord) : Path := { c.path with pc := pc }

/-- The address of a packet a signed number of packets away (R16). -/
def Ctx.packetAt (c : Ctx) (off : Int) : DWord := BitVec.ofInt 64 ((c.packet : Int) + 12 * off)

/-- A target that R288 accepts without a PAD: below 2^51 and the start of a packet of a code section. -/
abbrev Ctx.targetOk (c : Ctx) (t : DWord) : Prop := t.toNat < 2 ^ 51 ∧ isPacket (c.s.sectsOf c.g) t.toNat = true

/-- The stack of lane l can take n more bytes (R292). -/
abbrev Ctx.stackTakes (c : Ctx) (l n : Nat) : Prop :=
  (c.g.rd 63 l).toNat % 16 = 0 ∧ c.s.inWindow c.g l (c.g.rd 63 l).toNat n = true ∧ c.g.stackW = true ∧ c.g.bad 63 l = false

/-- The header that a call or MARK leaves at the old stack offset of lane l (R284, R292, R384). -/
def Ctx.header (c : Ctx) (ret : DWord) (tag flags l : Nat) : Nat × Nat × Frame :=
  (l, (c.g.rd 63 l).toNat, ⟨ret, (c.g.rd 63 l - c.g.rd 62 l).toNat, 0, tag, flags, c.g.bad 62 l⟩)

/-- In the lanes of m, v62 and v63 hold what two functions of the lane give; every other register, and every other lane, is as in g. -/
def Group.frameMoved (g g' : Group) (m : Mask) (fp sp : Nat → Word) : Prop :=
  g.SameBut g' m (Foot.vs 62 2) ∧
  ∀ l, l < g.width → m.getLsbD l = true → g'.rdp 62 l = (fp l, false) ∧ g'.rdp 63 l = (sp l, false)

end Sys2Proof.Machine

section
open Sys2Proof Sys2Proof.Machine

/-! ### Control flow -/

/-- R291: the word of JMP is its major and a signed offset in packets; JMP moves the path's PC to the packet address plus 12 times the offset. The mask and rpc, and everything else, stay. -/
def Obligations.JumpsGoToTheirTarget : Prop :=
  (∀ w e : Word, w.extractLsb' 22 7 = 0x71#7 → w.getLsbD 30 = false →
    decode w e = .ok (.jmp ⟨w.getLsbD 31, false, w.getLsbD 29⟩ (w.extractLsb' 0 22))) ∧
  ∀ (c : Ctx) (h : Hdr) (off : BitVec 22), c.Quiet (.jmp h off) → c.targetOk (c.packetAt off.toInt) →
    exec (.jmp h off) c.s = .next (c.s.setGroup c.n (c.g.setSlot c.slot (some { c.path with pc := BitVec.ofInt 64 ((c.packet : Int) + 12 * off.toInt) })))

/-- R275, R278, R288, R290: BRA goes to the next packet where no active lane takes it, to its target where every active lane does; otherwise it pushes what the other slot holds as a PARKED entry, then a JOIN entry, keeps the lanes that do not
take it at the next packet and gives the others the other slot at the target; without room for these entries it traps DIV_STACK with the stack's depth. What follows is only the moving of stack entries and rows (R160, R278). R288, R289, R295, R296: JMPI, with room for the entries that its targets need, sends
each of its lanes to the lane's target, where a PAD of its tag stands; through a descriptor the targets also lie in its range, which has X and no S. With one target for all its lanes it goes there, and nothing changes but what the fetch of the PAD leaves. With several, the set of the lowest lane stays in the
slot, and the others are PARKED, the next one uppermost. -/
def Obligations.JumpsThroughRegistersAndBranches : Prop :=
  (∀ (c : Ctx) (h : Hdr) (p : BitVec 3) (inv : Bool) (off : BitVec 18) (rpo : BitVec 24),
      let i := Instr.bra h p inv off rpo
      let taking := (if inv then ~~~(c.g.pred p) else c.g.pred p) &&& c.act
      let target := c.packetAt off.toInt
      let next := c.packetAt 1
      let r := if rpo = 0 then c.path.rpc else c.packetAt rpo.toInt
      let to_ := fun (pc : DWord) => Host.Outcome.next (φ := Fault) (ρ := Refusal) (c.s.setGroup c.n (c.g.setSlot c.slot (some (c.at_ pc))))
      let pushes : List DivEntry := (match c.g.slot c.slot.other with | some y => [⟨.parked, y.pc, y.mask, y.rpc⟩] | none => []) ++
        [⟨.join, r, c.path.mask, c.path.rpc⟩]
      let room := c.g.stackCap (((c.s.launchOf c.g).map fun l => l.hdr.d).getD 0)
      (c.Quiet i → c.g.predBad p &&& c.act = 0 → taking = 0 → exec i c.s = to_ next) ∧
      (c.Quiet i → c.g.predBad p &&& c.act = 0 → c.act ≠ 0 → c.targetOk target → taking = c.act → exec i c.s = to_ target) ∧
      (c.Quiet i → c.g.predBad p &&& c.act = 0 → c.targetOk target → taking ≠ 0 → taking ≠ c.act → c.g.curStack.length + pushes.length ≤ room →
        (∀ y, c.g.slot c.slot.other = some y → y.loop = none) →
        exec i c.s = .next ((c.s.setGroup c.n (((c.g.setStack (c.g.curStack ++ pushes)).setSlot c.slot
          (some ⟨next, c.act &&& ~~~taking, r, none, none, none, false⟩)).setSlot c.slot.other (some ⟨target, taking, r, none, none, none, false⟩))).fitAreas c.n c.g.inRows)) ∧
      (c.Issues i → c.g.predBad p &&& c.act = 0 → c.targetOk target → taking ≠ 0 → taking ≠ c.act → room < c.g.curStack.length + pushes.length →
        exec i c.s = .next (c.s.takeTrap c.n c.slot ⟨0x15, BitVec.ofNat 64 c.g.curStack.length, c.pc, false⟩))) ∧
  (∀ (c : Ctx) (h : Hdr) (vp : BitVec 6) (tag : BitVec 8) (an : BitVec 4) (s1 : State),
      let ts := c.g.pairTargets c.act vp
      let sets := groupTargets 64 ts
      let d := c.g.areg an
      let done := Host.Outcome.next (φ := Fault) (ρ := Refusal) ((s1.setGroup c.n (c.g.spread c.slot c.path sets none)).fitAreas c.n c.g.inRows)
      c.act ≠ 0 → (∀ l, l < 64 → c.act.getLsbD l = true → c.g.badN vp 2 l = false) →
      c.s.checkTargets c.g ts (some tag) = .ok () s1 → s1.stackRoom c.g (pushCount sets false) = true →
      (c.Quiet (.jmpi h vp tag) → exec (.jmpi h vp tag) c.s = done) ∧
      (c.Quiet (.jmpiDesc h vp tag an) → d.perm.getLsbD 2 = true → d.perm.getLsbD 5 = false →
        (∀ x ∈ ts, d.base.toNat ≤ x.2.toNat ∧ x.2.toNat < d.base.toNat + d.length.toNat) → exec (.jmpiDesc h vp tag an) c.s = done) ∧
      ∀ t, (∀ l, l < 64 → c.act.getLsbD l = true → c.g.rd2 vp l = t) →
        (∀ i ∈ [Instr.jmpi h vp tag, .jmpiDesc h vp tag an], c.Quiet i → done = .next (s1.setGroup c.n (c.g.setSlot c.slot (some (c.at_ t)))))) ∧
  (∀ (ts : List (Nat × DWord)) (l : Nat) (t : DWord), ts.length ≤ 64 → (∀ x ∈ ts, x.1 < 64) → (ts.map Prod.fst).Nodup → (l, t) ∈ ts →
      ∃ m, (t, m) ∈ groupTargets 64 ts ∧ m.getLsbD l = true ∧ ∀ x ∈ groupTargets 64 ts, x.1 ≠ t → x.2.getLsbD l = false) ∧
  ∀ (g : Group) (k : SlotId) (p : Path) (t : DWord) (m : Mask) (rest : List (DWord × Mask)), rest ≠ [] →
    g.spread k p ((t, m) :: rest) none = (g.setStack (g.curStack ++ rest.reverse.map fun x => (⟨.parked, x.1, x.2, p.rpc⟩ : DivEntry))).setSlot k
      (some ⟨t, m, p.rpc, none, none, none, false⟩)

/-- R43, R284, R292, R293: CALL and CALLI write in every active lane a header at the old stack offset (the next packet as return PC, the distance to the caller's frame), move v62 to that offset and v63 up by 16 fs, and go to the target; CALLI sends
each lane to its own, a JOIN of the next packet below where there are several. R384: MARK leaves in every active lane a marker's header at the old stack offset, with the label as its return PC and its tag, moves v62 to that offset and v63 up by 16, and takes the path on. The headers' bytes are stored
where the lanes' stack windows lie, here in this package; no other byte changes. R284, R294: RET reads in every active lane the header at the frame offset, past markers. Where all of them have return PCs, v63 becomes the frame offset of the header that is no marker, v62 that offset less its distance, and each lane goes to its return PC. Where
all of them have return PC 0, the path's lanes exit, its slot empties and memory stays, while others of the group have not exited. -/
def Obligations.CallsAndReturns : Prop :=
  (∀ (c : Ctx) (h : Hdr) (off : BitVec 16) (vp : BitVec 6) (tag : BitVec 8) (fs : BitVec 6) (s1 s2 : State) (at_ : List (LaneAcc × Nat)),
      let hs := c.act.lanes.map (c.header (c.packetAt 1) 0 0)
      let sp' := fun l => c.g.rd 63 l + 16 * fs.setWidth 32
      let t := c.packetAt off.toInt
      let ts := c.g.pairTargets c.act vp
      let sets := groupTargets 64 ts
      c.s.Inv → c.act ≠ 0 → (∀ l, l < 64 → c.act.getLsbD l = true → c.stackTakes l (16 * fs.toNat)) → (∀ a ∈ at_, s1.isLocal a.2 = true) →
      (c.Quiet (.call h off fs) → c.targetOk t → c.s.writeFrames c.g hs = .ok at_ s1 →
        ∃ u g', exec (.call h off fs) c.s = .next (u.setGroup c.n (g'.setSlot c.slot (some (c.at_ t)))) ∧ s1.storedAt u 16 at_ ∧
          c.g.frameMoved g' c.act (c.g.rd 63) sp') ∧
      (c.Quiet (.calli h vp tag fs) → (∀ l, l < 64 → c.act.getLsbD l = true → c.g.badN vp 2 l = false) →
        c.s.checkTargets c.g ts (some tag) = .ok () s2 → s2.stackRoom c.g (pushCount sets true) = true → s2.writeFrames c.g hs = .ok at_ s1 →
        ∃ u g', exec (.calli h vp tag fs) c.s = .next ((u.setGroup c.n (g'.spread c.slot c.path sets (some (c.packetAt 1)))).fitAreas c.n c.g.inRows) ∧
          s1.storedAt u 16 at_ ∧ c.g.frameMoved g' c.act (c.g.rd 63) sp')) ∧
  (∀ (s s1 : State) (g : Group) (hs : List (Nat × Nat × Frame)) (at_ : List (LaneAcc × Nat)), s.writeFrames g hs = .ok at_ s1 →
      at_.map (fun a => (a.1.lane, a.1.ea, a.1.data)) = hs.map fun x => (x.1, s.stackEA g x.1 x.2.1, x.2.2.bits)) ∧
  (∀ (c : Ctx) (h : Hdr) (tag : BitVec 8) (off : Word) (s1 : State) (at_ : List (LaneAcc × Nat)),
      let i := Instr.mark h tag off
      let label := c.packetAt off.toInt
      c.Quiet i → c.s.Inv → c.act ≠ 0 → isPacket (c.s.sectsOf c.g) label.toNat = true → (∀ l, l < 64 → c.act.getLsbD l = true → c.stackTakes l 16) →
      c.s.writeFrames c.g (c.act.lanes.map (c.header label tag.toNat 1)) = .ok at_ s1 → (∀ a ∈ at_, s1.isLocal a.2 = true) →
      ∃ u g', exec i c.s = .next (c.advance i (u.setGroup c.n g')) ∧ s1.storedAt u 16 at_ ∧ c.g.frameMoved g' c.act (c.g.rd 63) fun l => c.g.rd 63 l + 16) ∧
  (∀ (c : Ctx) (h : Hdr) (rs : List Returned) (s1 : State),
      let i := Instr.ret h
      let back := (c.act.lanes.zip rs).filterMap fun x => x.2.target.map fun t => (x.1, t)
      c.Quiet i → c.act ≠ 0 → (∀ l, l < 64 → c.act.getLsbD l = true → c.g.bad 62 l = false) →
      (c.s.retReach c.g c.act.lanes).bind (fun _ s =>
        Chk.each (fun l s => State.retLane c.g l c.g.frameBound (c.g.rd 62 l).toNat (c.g.rd 63 l).toNat false s) c.act.lanes s) = .ok rs s1 →
      (∀ r ∈ rs, r.bad = false) →
      ((∀ r ∈ rs, ∃ t, r.target = some t ∧ c.targetOk t) → s1.stackRoom c.g (pushCount (groupTargets 64 back) false) = true →
        ∃ g', exec i c.s = .next ((s1.setGroup c.n (g'.spread c.slot c.path (groupTargets 64 back) none)).fitAreas c.n c.g.inRows) ∧
          c.g.SameBut g' c.act (Foot.vs 62 2) ∧
          ∀ x ∈ c.act.lanes.zip rs, x.1 < c.g.width → g'.rd 62 x.1 = BitVec.ofNat 32 x.2.fp ∧ g'.rd 63 x.1 = BitVec.ofNat 32 x.2.sp) ∧
      ((∀ r ∈ rs, r.target = none) → c.g.alive &&& ~~~c.act ≠ 0 → c.g.stack = [] →
        ∃ t g', exec i c.s = .next t ∧ t.group c.n = some g' ∧ g'.exited = c.g.exited ||| c.act ∧ g'.slot c.slot = none ∧ t.mem = s1.mem)) ∧
  ∀ (g : Group) (l k fp sp : Nat) (bad : Bool) (s : State) (f : Frame) (s' : State), fp % 16 = 0 → fp + 16 ≤ sp → s.readFrame g l fp sp = .ok f s' →
    (f.marker = true → f.distOk fp = true → State.retLane g l (k + 1) fp sp bad s = State.retLane g l k (fp - f.dist) fp (bad || f.bad) s') ∧
    (f.marker = false → f.distOk fp = true → f.retpc ≠ 0 → State.retLane g l (k + 1) fp sp bad s = .ok ⟨some f.retpc, fp - f.dist, fp, bad || f.bad⟩ s') ∧
    (f.marker = false → f.retpc = 0 → State.retLane g l (k + 1) fp sp bad s = .ok ⟨none, fp - f.dist, fp, bad || f.bad⟩ s')

/-- R297, R298: RJOIN.SET gives jN the active lanes and RJOIN.ADD adds them. RJOIN.WAIT with lanes of jN's mask still missing empties its slot and holds the path in an entry that resumes at the next word. With every lane there it
takes the held entries of jN that resume where it does, with its reconvergence PC, off the stack and their lanes into its mask, releases every other held entry of jN, empties jN and goes on. R280, R299: a BAR of a level that the node may wait at empties its slot and holds the path in an entry of the level that resumes at the next word; the barrier is then tested. At a level
that the node may not wait at it traps LAUNCH_FAULT with the level's number. At trap level BAR and RJOIN.WAIT trap BAD_FORM with the word. What follows each push or pop is only the moving of stack entries and rows (R160, R278). -/
def Obligations.JoinsAndBarriers : Prop :=
  (∀ (c : Ctx) (h : Hdr) (j : BitVec 3),
      let i := Instr.rjoinWait h j
      let missing := c.g.jreg j.toNat &&& ~~~(c.act ||| c.g.heldAt j.toNat ||| c.g.exited)
      let twin := fun (e : DivEntry) => (e.kind = .held j.toNat true ∨ e.kind = .held j.toNat false) ∧ e.pc = c.pc + 4 ∧ e.rpc = c.path.rpc
      (c.Quiet (.rjoinSet h j) → exec (.rjoinSet h j) c.s = .next (c.after (.rjoinSet h j) { c.g with j := Tbl.set 0 c.g.j j.toNat c.act })) ∧
      (c.Quiet (.rjoinAdd h j) →
        exec (.rjoinAdd h j) c.s = .next (c.after (.rjoinAdd h j) { c.g with j := Tbl.set 0 c.g.j j.toNat (c.g.jreg j.toNat ||| c.act) })) ∧
      (c.Quiet i → c.g.trap.level = false → missing ≠ 0 → c.s.stackRoom c.g 1 = true →
        exec i c.s = .next ((c.s.setGroup c.n
          (Group.setSlot { c.g with stack := c.g.stack ++ [⟨.held j.toNat false, c.pc + 4, c.path.mask, c.path.rpc⟩] } c.slot none)).fitAreas c.n c.g.inRows)) ∧
      (c.Quiet i → c.g.trap.level = false → missing = 0 →
        ∃ rest m, exec i c.s = .next ((c.s.setGroup c.n (Group.setSlot { c.g with stack := rest, j := Tbl.set 0 c.g.j j.toNat 0 } c.slot
            (some { c.path with pc := c.pc + 4, mask := m }))).fitAreas c.n c.g.inRows) ∧
          (∀ l, l < 64 → (m.getLsbD l = true ↔ c.path.mask.getLsbD l = true ∨ ∃ e ∈ c.g.stack, twin e ∧ e.mask.getLsbD l = true)) ∧
          rest = (c.g.stack.filter fun e => !joinsPath j.toNat (c.pc + 4) c.path.rpc e).map (fun e =>
            if e.kind = .held j.toNat false then { e with kind := .held j.toNat true } else e) ∧
          ∀ e, joinsPath j.toNat (c.pc + 4) c.path.rpc e = true ↔ twin e)) ∧
  (∀ (c : Ctx) (h : Hdr) (lvl : Level), c.Quiet (.bar h lvl) → c.g.trap.level = false →
      (c.s.barAllowed c.g (levelNum lvl) = true → c.s.stackRoom c.g 1 = true →
        exec (.bar h lvl) c.s = .next (((c.s.setGroup c.n (Group.setSlot { c.g with stack := c.g.stack ++
          [⟨.held (8 + levelNum lvl) false, c.pc + 4, c.path.mask, c.path.rpc⟩] } c.slot none)).barrierTest c.g.team (8 + levelNum lvl)).fitAreas c.n c.g.inRows)) ∧
      (c.s.barAllowed c.g (levelNum lvl) = false →
        exec (.bar h lvl) c.s = .next (c.s.takeTrap c.n c.slot ⟨0x1B, BitVec.ofNat 64 (levelNum lvl), c.pc, false⟩))) ∧
  ∀ (c : Ctx) (h : Hdr) (j : BitVec 3) (lvl : Level), ∀ i ∈ [Instr.rjoinWait h j, .bar h lvl], c.Issues i → c.g.trap.level = true →
    exec i c.s = .next (c.s.takeTrap c.n c.slot ⟨0x02, BitVec.ofNat 64 (encode1 i).toNat, c.pc, false⟩)

/-- R279, R281, R298, R300: EXIT of some lanes of a group marks them exited and empties their slot; the other slot, registers and memory stay. EXIT of a group's last lanes, with nothing of it in the operand log, under way to other packages, in the copy engine or in the matrix queue, and no fault of its work to be delivered, frees the group: it is
no longer resident, and memory stays where it holds no husk. While something of it is outstanding there the EXIT waits. R301: WAIT.SLEEP of k cycles leaves its path waiting at the instruction until k cycles from now, and the end of the sleep takes the path to the next word. -/
def Obligations.ExitsAndSleeps : Prop :=
  (∀ (c : Ctx) (h : Hdr) (t : Team), c.Quiet (.exit h) → c.team = some t →
      (c.g.alive &&& ~~~c.act ≠ 0 →
        ∃ s' g', exec (.exit h) c.s = .next s' ∧ s'.group c.n = some g' ∧ g'.exited = c.g.exited ||| c.act ∧ g'.slot c.slot = none ∧
          g'.slot c.slot.other = c.g.slot c.slot.other ∧ g'.v = c.g.v ∧ g'.p = c.g.p ∧ g'.a = c.g.a ∧ s'.mem = c.s.mem) ∧
      (c.g.alive &&& ~~~c.act = 0 → (c.g.trap.level = false ∨ c.g.trap.df = false) → c.g.log = [] → c.g.remote = [] → (∀ r ∈ c.s.copies, r.group ≠ c.n) →
        (∀ la ∈ c.g.copyFaults, barFault (t.barrier la) = false) → c.g.mxTrap = none → c.g.mx = [] →
        ∃ s', exec (.exit h) c.s = .next s' ∧ s'.group c.n = none ∧ (c.g.husk = none → s'.mem = c.s.mem)) ∧
      (c.g.alive &&& ~~~c.act = 0 → (c.g.log ≠ [] ∨ c.g.remote ≠ [] ∨ ∃ r ∈ c.s.copies, r.group = c.n) →
        exec (.exit h) c.s = .next { c.s with chain := 0 })) ∧
  (∀ (c : Ctx) (h : Hdr) (k : BitVec 16) (s : State) (n : Nat) (b : Bool) (g : Group) (p : Path) (t : Nat),
      let slot := if b then SlotId.b else SlotId.a
      (c.Quiet (.waitSleep h k) → k ≠ 0 → exec (.waitSleep h k) c.s =
        .next { c.s.setGroup c.n (c.g.setSlot c.slot (some { c.path with wait := some (.sleep (c.s.cycle + k.toNat)) })) with chain := 0 }) ∧
      (s.group n = some g → g.slot slot = some p → p.wait = some (.sleep t) → t ≤ s.cycle →
        exec (.sleepExpiry n b) s = .next (s.setGroup n (g.setSlot slot (some { p with pc := p.pc + 4, wait := none })))))

/-- R302, R305: LOOP with a count of n in the lowest active lane goes to the next packet and records the body's bounds with n turns left and an empty loop buffer; with a count of 0 it goes behind the body; a body that does not end
inside the code section traps ADDR_PERM with its end. A path that comes to the body's end leaves the loop after its last turn, and else goes back to its start with one turn less; its loop buffer is emptied then if ICINV has made its words old. -/
def Obligations.LoopsTurn : Prop :=
  ∀ (c : Ctx) (h : Hdr) (vc : BitVec 6) (n : BitVec 4),
    let i := Instr.loop h vc n
    let start := c.packetAt 1
    let stop := c.packetAt ((n.toNat : Int) + 2)
    let inside := ∃ sc, sectOf (c.s.sectsOf c.g) c.packet = some sc ∧ stop.toNat < sc.1 + sc.2
    (c.Quiet i → c.g.bad vc c.low = false → inside → c.g.rd vc c.low ≠ 0 →
      exec i c.s = .next (c.s.setGroup c.n (c.g.setSlot c.slot
        (some { c.path with pc := start, loop := some ⟨start, stop, c.g.rd vc c.low, [], false⟩ })))) ∧
    (c.Quiet i → c.g.bad vc c.low = false → inside → c.g.rd vc c.low = 0 →
      exec i c.s = .next (c.s.setGroup c.n (c.g.setSlot c.slot (some (c.at_ stop))))) ∧
    (c.Quiet i → c.g.bad vc c.low = false → ¬ inside → exec i c.s = .next (c.s.takeTrap c.n c.slot ⟨0x05, stop, c.pc, false⟩)) ∧
    ∀ (p : Path) (l : LoopRec), p.loop = some l → p.pc = l.stop →
      p.turn = some (if l.remaining = 1 then { p with loop := none }
        else { p with pc := l.start, loop := some ⟨l.start, l.stop, l.remaining - 1, if l.old then [] else l.buf, false⟩ })

/-! ### Traps and system instructions -/

/-- R334: in a state where the checks of a14 let a handler be entered, a trap saves both paths without what they wait for, a slice that they record and the words of a loop buffer, saves TRAPPC, TRAPINFO and the cause, raises the level, and begins the handler in slot A at a14's pointer with
every lane that has not exited; slot B is empty, a sleep ends, and memory stays as the check of the handler's page left it. R333, R335, R336: a trap at trap level ends the group: the Sheaf logs both causes in order, the group is no longer resident, and its launch has its node faulted with reason 0x18, unless an earlier node faulted first; so does a
trap for which a14 has no handler, whose own cause is logged twice (the model's reading: log entry 53). R335, R369: at trap level HENTER, HSTORE and HEXIT are double faults: the group ends. -/
def Obligations.TrapEntry : Prop :=
  (∀ (s : State) (n : Nat) (slot : SlotId) (g : Group) (t : TrapReq) (pc : DWord) (s1 : State),
      let kept := fun (p : Path) => { p with slice := none, wait := none, loop := p.loop.map fun (l : LoopRec) => { l with buf := [], old := false } }
      s.group n = some g → g.trap.level = false → s.handlerOf g = .enter pc s1 →
      ∃ g', s.takeTrap n slot t = State.setGroup { s1 with chain := 0 } n g' ∧
        g'.trap.level = true ∧ g'.trap.slot = slot ∧ g'.trap.cause = t.cause ∧ g'.trap.pc = t.pc ∧ g'.trap.info = t.info ∧
        g'.trap.savedA = g.slotA.map kept ∧ g'.trap.savedB = g.slotB.map kept ∧
        pc = (g.areg 14).pointer ∧ g'.slotA = some ⟨pc, g.alive, 0, none, none, none, false⟩ ∧ g'.slotB = none ∧ g'.asleep = none ∧
        g'.v = g.v ∧ g'.p = g.p ∧ g'.a = g.a ∧ g'.x = g.x ∧ g'.f = g.f ∧ g'.stack = g.stack ∧ g'.log = g.log ∧ g'.mx = g.mx) ∧
  (∀ (s : State) (n : Nat) (slot : SlotId) (g : Group) (t : TrapReq), s.group n = some g →
      let s' := s.takeTrap n slot t
      let ends := fun (c1 : BitVec 8) (pc1 info1 : DWord) => s'.group n = none ∧
        s'.sheafLog = s.sheafLog ++ [⟨1, c1, pc1, info1⟩, ⟨2, t.cause, t.pc, t.info⟩] ∧
        ∀ x l, s.team g.team = some x → s.launch x.launch = some l →
          (s'.launch x.launch).map Launch.faulted = some (some (l.faulted.getD (x.node, 0x18)))
      (g.trap.level = true → ends g.trap.cause g.trap.pc g.trap.info) ∧
      (g.trap.level = false → s.handlerOf g = .refused → ends t.cause t.pc t.info)) ∧
  (∀ (c : Ctx) (i : Instr), c.Issues i → c.g.trap.level = true →
      (match i with | .henter .. | .hstore .. | .hexit _ => True | _ => False) →
      ∃ t, exec i c.s = .next t ∧ t.group c.n = none)

/-- R337: TRAP takes a USER trap (0x16) with TRAPPC at the next word, BKPT a BKPT trap (0x17) with TRAPPC at itself, both with the immediate in TRAPINFO; without an active lane they only take the path on. A word of either
with a nonzero vd is BAD_FORM. -/
def Obligations.SoftwareTraps : Prop :=
  (∀ (w e : Word), w.extractLsb' 22 7 = 0x7F#7 → w.getLsbD 30 = false → w.extractLsb' 12 4 = 2#4 ∨ w.extractLsb' 12 4 = 5#4 →
    decode w e = if w.extractLsb' 16 6 = 0#6 then
        .ok ((if w.extractLsb' 12 4 = 2#4 then Instr.trap else Instr.bkpt) ⟨w.getLsbD 31, false, w.getLsbD 29⟩ (w.extractLsb' 0 12))
      else .error .badForm) ∧
  ∀ (c : Ctx) (h : Hdr) (k : BitVec 12),
    (c.Issues (.trap h k) → c.act ≠ 0 → exec (.trap h k) c.s = .next (c.s.takeTrap c.n c.slot ⟨0x16, k.setWidth 64, c.pc + 4, false⟩)) ∧
    (c.Issues (.bkpt h k) → c.act ≠ 0 → exec (.bkpt h k) c.s = .next (c.s.takeTrap c.n c.slot ⟨0x17, k.setWidth 64, c.pc, false⟩)) ∧
    (c.Quiet (.trap h k) → c.act = 0 → exec (.trap h k) c.s = .next (c.advance (.trap h k) c.s)) ∧
    (c.Quiet (.bkpt h k) → c.act = 0 → exec (.bkpt h k) c.s = .next (c.advance (.bkpt h k) c.s))

/-- R338: TRET at trap level puts the saved paths back, less lanes that have exited, the trapping one at TRAPPC, which stays in its loop where that lies in the body, lowers the level, and thaws the matrix work (R249). R64: after a deferred fault it ends the group instead. Outside
trap level it traps BAD_FORM with its word. -/
def Obligations.TrapReturns : Prop :=
  ∀ (c : Ctx) (h : Hdr), c.Issues (.tret h) →
    let back := fun (k : SlotId) (p : Option Path) => p.bind fun (q : Path) =>
      if q.mask &&& c.g.alive = 0 then none
      else some (if k = c.g.trap.slot then
          { q with
            mask := q.mask &&& c.g.alive
            pc := c.g.trap.pc
            loop := q.loop.bind fun (l : LoopRec) => if l.start.toNat ≤ c.g.trap.pc.toNat ∧ c.g.trap.pc.toNat < l.stop.toNat then some l else none }
        else { q with mask := q.mask &&& c.g.alive })
    (c.g.trap.level = true → c.g.trap.df = false → c.settled →
      exec (.tret h) c.s = .next (c.s.setGroup c.n { c.g with
        slotA := back .a c.g.trap.savedA, slotB := back .b c.g.trap.savedB, tstack := [], frozen := false,
        trap := { c.g.trap with level := false, df := false, savedA := none, savedB := none } })) ∧
    (c.g.trap.level = true → c.g.trap.df = true → c.path.slice = none → ∃ t, exec (.tret h) c.s = .next t ∧ t.group c.n = none) ∧
    (c.g.trap.level = false →
      exec (.tret h) c.s = .next (c.s.takeTrap c.n c.slot ⟨0x02, BitVec.ofNat 64 (encode1 (.tret h)).toNat, c.pc, false⟩))

/-- R165, R268, R305, R339: where the group's stores have performed, ICINV takes the recipes over the range (all code, for ICINV.ALL) away from the groups of its address space, drops the words of the range from every instruction cache, and marks what paths of the address space have taken of the range: a loop's buffer over it is old, a
slice over it yields no recipe. Where no group of the address space holds a recipe over the range nothing else changes. R323: LAUNCH with a 256-aligned image address leaves its group asleep at the instruction, asking for the image with the smaller of its priority and its node's; the hub's acceptance there of an image that it can read takes the path to the next word in
the state in which the launch stands accepted. A misaligned address traps MISALIGN with the address; with no active lane LAUNCH only takes the path on. -/
def Obligations.CacheInvalidationAndLaunch : Prop :=
  (∀ (c : Ctx) (h : Hdr) (an : BitVec 4),
      let asid := c.s.asidOf c.g
      let base := (c.g.areg an).base.toNat
      let dropped := fun (s : State) (lo hi : Nat) =>
        State.staleCode { s with icache := s.icache.filter fun x => !(x.2.1 == asid && decide (lo < x.2.2.1 + 4) && decide (x.2.2.1 < hi)) } (fun _ => true) asid lo hi
      c.g.storesDone = true →
      ∀ x ∈ [(Instr.icinv h an, base, base + (c.g.areg an).length.toNat), (.icinvAll h, 0, 2 ^ 64)], let i := x.1; let lo := x.2.1; let hi := x.2.2
        (∀ m s1 g1, c.Issues i → c.settled → c.s.dropCode asid lo hi (List.range c.s.groups.length) = (m, .ok s1 g1) →
          exec i c.s = .next ((c.advance i (dropped s1 lo hi)).fitAreas c.n c.g.inRows)) ∧
        (c.Issues i → c.settled → (∀ e ∈ c.s.resident, c.s.asidOf e.2 = asid → e.2.recipesIn lo hi = []) →
          exec i c.s = .next (c.advance i (dropped c.s lo hi)))) ∧
  (∀ (s : State) (asid lo hi n : Nat) (g : Group), s.group n = some g → g.live = true →
      (s.staleCode (fun _ => true) asid lo hi).group n = some (if s.asidOf g = asid then
        { g with slotA := g.slotA.map (Path.staleCode lo hi), slotB := g.slotB.map (Path.staleCode lo hi) } else g)) ∧
  (∀ (p : Path) (lo hi : Nat), Path.staleCode lo hi p = { p with
      loop := p.loop.map fun (l : LoopRec) => { l with old := l.old || decide (lo < l.stop.toNat ∧ l.start.toNat < hi) }
      slice := p.slice.map fun (r : SliceRun) =>
        { r with ok := r.ok && !decide (lo < r.first.toNat + 4 * r.words.length ∧ r.first.toNat < hi) } }) ∧
  (∀ (c : Ctx) (h : Hdr) (vp : BitVec 6) (prio : BitVec 8) (t : Team) (l : Launch) (r : NodeRun),
      let i := Instr.launch h vp prio
      let img := c.g.rd2 vp c.low
      let q := min prio.toNat r.prio
      let asleep : State := { ((c.s.endSafe c.g).setGroup c.n { c.g with asleep := some (.launch c.slot img q) }) with chain := 0 }
      c.Quiet i → c.team = some t → c.s.launchOf c.g = some l → l.runs[t.node]? = some r →
      (c.act ≠ 0 → c.g.badN vp 2 c.low = false → img.toNat % 256 = 0 → exec i c.s = .next asleep ∧
        ∀ x s1, c.s.launchRuns l = true → asleep.readImage l.asid c.s.launches.length img.toNat (some t.launch) = .ok x s1 →
          exec (.launchAccept c.n) asleep = .next ((s1.hubDone.accept x l.asid l.part l.queue img.toNat (some t.launch) q none).wake c.n c.slot 1)) ∧
      (c.act ≠ 0 → c.g.badN vp 2 c.low = false → img.toNat % 256 ≠ 0 → exec i c.s = .next (c.s.takeTrap c.n c.slot ⟨0x06, img, c.pc, false⟩)) ∧
      (c.act = 0 → exec i c.s = .next (c.advance i c.s)))

end

namespace Sys2Proof.Machine

/-- The issuing path runs the capsule of h in a group whose rows fit and whose registers carry no recipe (R357). -/
abbrev Ctx.InCapsule (c : Ctx) (i : Instr) (h : Husk) : Prop :=
  c.Issues i ∧ c.g.plain = true ∧ c.g.widthOk = true ∧ c.path.slice = none ∧ c.roomy = true ∧ c.g.capsule c.slot = some h ∧ c.g.husk = some h ∧
    c.huskHolds = false

/-- Nothing of a state but its memory, teams, translations and list of lock blocks, and group n, differs. -/
def State.onlyGroup (s t : State) (n : Nat) : Prop :=
  t = { s with
    mem := t.mem, memPoison := t.memPoison, teams := t.teams, groups := t.groups, tlb := t.tlb, huskLocks := t.huskLocks } ∧
    ∀ k, k ≠ n → t.group k = s.group k

end Sys2Proof.Machine

section
open Sys2Proof Sys2Proof.Machine

/-! ### Husks -/

/-- R356: HENTER by one lane on a lock block that is free and well formed acquires it: the block shows HELD, step 0, the next epoch, the group's key, the capsule's first PC, and the mask, the result count, p0 to p3, a count of 0 and the address space; the group is inside
its husk at the word after the extension word, and vd counts the adoptions so far. On a block that another holds the group falls asleep at the HENTER, and a malformed one traps HUSK_FORBIDDEN with its address. R363: HENTER on an orphan that it may adopt loads the checkpoint into the capsule's registers of its lane and goes
to the checkpoint's PC; the block shows the next epoch, ADOPTING and the adopter's key, and where a result slot is named without a key, the slot has the holder's. -/
def Obligations.HusksAreEntered : Prop :=
  ∀ (c : Ctx) (h : Hdr) (vd : BitVec 6) (an : BitVec 4) (nres : BitVec 3) (mask : Word) (l pa : Nat) (pte : DWord) (big : Bool) (s1 : State),
    let i := Instr.henter h vd an nres mask
    let d := c.g.areg an
    let ea := effAddr d (c.s.wsOf c.g) l 0
    c.Quiet i → i.wellFormed = true → c.s.Inv → c.g.trap.level = false → c.huskHolds = false → c.g.inHusk = false → l < c.g.width → c.act = Mask.bit l →
    d.perm.getLsbD 0 = true → d.perm.getLsbD 1 = true → d.perm.getLsbD 3 = true → d.perm.getLsbD 6 = false → d.pointer.toNat % 256 = 0 →
    inBounds d (c.s.wsOf c.g) l 256 ea = true → c.s.translate (c.s.coreOf c.g) (c.s.asidOf c.g) ea.toNat true = (.ok pa pte big, s1) → pa % 256 = 0 →
    s1.isLocal pa = true → pagePermits pte .atomic = true → (∀ r, r < 32 → mask.getLsbD r = true → (c.g.rdp r l).2 = false) →
    c.g.predsBad l = false →
    let w := s1.lockWord pa
    (s1.lockFate pa (c.s.asidOf c.g) = .free →
      ∃ t g' hk, exec i c.s = .next t ∧ s1.onlyGroup t c.n ∧ t.group c.n = some g' ∧
        t.lockWord pa 0 = lkHead (lkEpoch (w 0) + 1) 0 true false false ∧ t.lockWord pa 1 = c.g.key.toNat ∧
        t.lockWord pa 2 = (c.pc + 8).toNat ∧ t.lockWord pa 14 = 0 ∧
        (c.s.asidOf c.g < 4096 → t.lockWord pa 3 = lkInfo mask nres.toNat (c.g.lanePreds l) 0 (c.s.asidOf c.g)) ∧
        g'.husk = some hk ∧ hk.inside = true ∧ hk.adopt = false ∧ hk.lane = l ∧ hk.mask = mask ∧ hk.nres = nres.toNat ∧ hk.icount = 0 ∧ hk.step = 0 ∧
        g'.slot c.slot = some (c.at_ (c.pc + 8)) ∧ g'.rd vd l = BitVec.ofNat 32 c.g.adopted ∧
        ∀ r, r < 64 → r ≠ vd.toNat → g'.vreg r = c.g.vreg r) ∧
    (s1.lockFate pa (c.s.asidOf c.g) = .sleep → exec i c.s = .next { (s1.setGroup c.n { c.g with asleep := some (.henter c.slot) }) with chain := 0 }) ∧
    (s1.lockFate pa (c.s.asidOf c.g) = .bad →
      exec i c.s = .next ((s1.setGroup c.n { c.g with adopted := 0 }).takeTrap c.n c.slot ⟨0x0E, BitVec.ofNat 64 ea.toNat, c.pc, false⟩)) ∧
    ∀ k, s1.lockFate pa (c.s.asidOf c.g) = .adopt k → c.g.maskLocked (lkMask (w 3)) = false →
      ∃ t g' hk, exec i c.s = .next t ∧ s1.onlyGroup t c.n ∧ t.group c.n = some g' ∧
        t.lockWord pa 0 = lkHead (lkEpoch (w 0) + 1) (lkStep (w 0)) true false true ∧ t.lockWord pa 14 = c.g.key.toNat ∧
        k < 4 ∧ (t.slotKey pa k = if s1.slotKey pa k = 0 then w 1 else s1.slotKey pa k) ∧
        g'.husk = some hk ∧ hk.adopt = true ∧ hk.inside = false ∧ hk.lane = l ∧ hk.mask = lkMask (w 3) ∧ hk.nres = lkNres (w 3) ∧ hk.step = lkStep (w 0) ∧
        hk.henter = c.pc ∧ g'.slot c.slot = some (c.at_ (BitVec.ofNat 64 (w 2))) ∧
        ∀ j r, (maskRegs (lkMask (w 3)))[j]? = some r →
          g'.rdp r l = (BitVec.ofNat 32 (s1.readPA (pa + 0x20 + 4 * j) 4), s1.poisonedPA (pa + 0x20 + 4 * j) 4)

/-- R358, R359: HSTORE in a capsule, with its page in this package and none of its operands poisoned, hands the husk unit one commit request (the address, the data, the next step number, the epoch, the count, the PC behind it, p0 to p3 and the capsule's registers of the captured lane), counts
itself, and takes the path on; memory is written only when the unit answers. -/
def Obligations.StepsAreRequested : Prop :=
  ∀ (c : Ctx) (hd : Hdr) (sz : HSize) (vs : BitVec 6) (an : BitVec 4) (vo : BitVec 6) (h : Husk) (a : LaneAcc) (pa : Nat) (s1 : State),
    let i := Instr.hstore hd sz vs an vo
    let n := match sz with | .b => 1 | .h => 2 | .w => 4 | .d => 8
    c.InCapsule i h → c.g.trap.level = false → c.s.checkGlobal c.g [h.lane] (c.g.areg an) vo (.store n) (storeData c.g vs n) = .ok [a] →
    a.poison = 0 → c.g.predsBad h.lane = false → c.s.resolve (c.s.coreOf c.g) (c.s.asidOf c.g) .store [a] = .ok s1 [(a, pa)] → s1.isLocal pa = true →
    exec i c.s = .next (c.advance i ((s1.endSafe c.g).setGroup c.n { c.g with husk := some { h with
      icount := h.icount + 1
      commit := some ⟨some pa, n, a.data.toNat, c.pc + 4, h.epoch, h.step + 1, h.icount + 1, c.g.lanePreds h.lane, (maskRegs h.mask).map fun r => c.g.rdp r h.lane⟩ } }))

/-- R361: HEXIT of a husk that the group holds frees the lock (its epoch stays), zeroes the capsule registers behind the results in the capsule lane, and takes the path on without the husk. R363: HEXIT of an adoption gives the holder's slot, where it is still the holder's, the results, the resumption PC and DONE, frees the lock, restores
the lane's registers from the stash, counts the adoption and goes back to the HENTER. R368: HABORT at trap level frees the lock of the husk that the group holds, and the group has no husk any more; of an adoption it gives the holder's slot DONE and ABORT and restores the stash; without a husk it only takes the path on. At trap level 0 it traps
HUSK_FORBIDDEN with its word. -/
def Obligations.HusksAreLeft : Prop :=
  (∀ (c : Ctx) (hd : Hdr) (h : Husk) (pa : Nat) (s1 : State),
      let i := Instr.hexit hd
      let slotIsHolders := h.dispos < 4 ∧ s1.slotKey pa h.dispos = s1.lockWord pa 1 ∧ s1.purged.contains (s1.lockWord pa 1) = false
      c.InCapsule i h → c.s.Inv → c.g.trap.level = false → c.g.maskLocked h.mask = false → c.s.huskReach c.g h.lock = (some pa, s1) → pa % 256 = 0 →
      lkEpoch (s1.lockWord pa 0) = h.epoch.toNat →
      ∃ t g', exec i c.s = .next t ∧ s1.onlyGroup t c.n ∧ t.group c.n = some g' ∧ g'.husk = none ∧
        t.lockWord pa 0 = lkHead h.epoch.toNat 0 false false false ∧ t.lockWord pa 1 = 0 ∧ t.lockWord pa 14 = 0 ∧
        (h.inside = true → g'.slot c.slot = some (c.at_ (c.pc + 4)) ∧
          (∀ r ∈ (maskRegs h.mask).drop h.nres, h.lane < c.g.width → g'.rdp r h.lane = (0, false)) ∧
          (∀ r l, r < 64 → l < c.g.width → (l ≠ h.lane ∨ r ∉ (maskRegs h.mask).drop h.nres) → g'.rdp r l = c.g.rdp r l) ∧
          ∀ b, (∀ k ∈ [0, 1, 14], b < paLocal pa + 8 * k ∨ paLocal pa + 8 * k + 8 ≤ b) → t.mem.get b = s1.mem.get b) ∧
        (h.inside = false → g'.slot c.slot = some (c.at_ h.henter) ∧ g'.adopted = c.g.adopted + 1 ∧
          (∀ (j r : Nat) (v : Word × Bool), (maskRegs h.smask)[j]? = some r → h.sregs[j]? = some v → h.lane < c.g.width → g'.rdp r h.lane = v) ∧
          (slotIsHolders → t.slotStatus pa h.dispos = (c.pc + 4).toNat % 2 ^ 51 + 2 ^ 63) ∧
          ∀ (j r : Nat), slotIsHolders → h.nres ≤ 4 → j < h.nres → (maskRegs h.mask)[j]? = some r →
            t.readPA (pa + 0x80 + 32 * h.dispos + 8 + 4 * j) 4 = (c.g.rd (BitVec.ofNat 6 r) h.lane).toNat)) ∧
  (∀ (c : Ctx) (hd : Hdr) (h : Husk) (pa : Nat) (s1 : State),
      let i := Instr.habort hd
      c.Quiet i →
      (c.g.trap.level = true → c.g.husk = none → exec i c.s = .next (c.advance i c.s)) ∧
      (c.g.trap.level = true → c.g.husk = some h → c.huskHolds = false → c.s.huskReach c.g h.lock = (some pa, s1) → lkEpoch (s1.lockWord pa 0) = h.epoch.toNat →
        (h.inside = true → exec i c.s = .next (c.advance i ((s1.freeLock pa).setGroup c.n { c.g with husk := none }))) ∧
        (h.inside = false → h.adopt = true → c.g.maskLocked h.smask = false → c.s.Inv → pa % 256 = 0 →
          ∃ t g', exec i c.s = .next t ∧ s1.onlyGroup t c.n ∧ t.group c.n = some g' ∧ g'.husk = none ∧ g'.slot c.slot = some (c.at_ (c.pc + 4)) ∧
            t.lockWord pa 0 = lkHead h.epoch.toNat 0 false false false ∧ t.lockWord pa 1 = 0 ∧ t.lockWord pa 14 = 0 ∧
            (∀ (j r : Nat) (v : Word × Bool), (maskRegs h.smask)[j]? = some r → h.sregs[j]? = some v → h.lane < c.g.width → g'.rdp r h.lane = v) ∧
            (h.dispos < 4 → s1.slotKey pa h.dispos = s1.lockWord pa 1 → s1.purged.contains (s1.lockWord pa 1) = false → t.slotStatus pa h.dispos = 2 ^ 62 + 2 ^ 63))) ∧
      (c.g.trap.level = false → exec i c.s = .next (c.s.takeTrap c.n c.slot ⟨0x0E, BitVec.ofNat 64 (encode1 i).toNat, c.pc, false⟩)))

/-! ### Tillers -/

/-- R387: UNMARK pops in every active lane the marker whose header lies at the frame offset: v63 becomes that offset and v62 that offset less the header's distance (modulo 2^32), and the path goes on; no other register and no memory changes but what translation leaves. A
header that is no marker, or has another tag while tag is nonzero, traps TILLER_NOMARK with the tag found; tag 0 pops any marker. -/
def Obligations.MarkersArePopped : Prop :=
  ∀ (c : Ctx) (h : Hdr) (tag : BitVec 8) (offs : List (Nat × Nat × Nat)) (s1 : State),
    let i := Instr.unmark h tag
    (c.Quiet i → c.act ≠ 0 → (∀ l, l < 64 → c.act.getLsbD l = true → c.g.bad 62 l = false) →
      Chk.each (fun l s => State.unmarkCheck s c.g tag.toNat l) c.act.lanes c.s = .ok offs s1 →
      ∃ g', exec i c.s = .next (c.advance i (s1.setGroup c.n g')) ∧ c.g.SameBut g' c.act (Foot.vs 62 2) ∧ offs.map Prod.fst = c.act.lanes ∧
        ∀ x ∈ offs, x.1 < c.g.width → g'.rd 62 x.1 = BitVec.ofNat 32 x.2.1 ∧ g'.rd 63 x.1 = BitVec.ofNat 32 x.2.2) ∧
    (∀ t, c.Issues i → c.plain = true → c.act ≠ 0 → (∀ l, l < 64 → c.act.getLsbD l = true → c.g.bad 62 l = false) →
      Chk.each (fun l s => State.unmarkCheck s c.g tag.toNat l) c.act.lanes c.s = .trap t s1 →
      exec i c.s = .next (s1.takeTrap c.n c.slot ⟨t.cause, BitVec.ofNat 64 t.info, c.pc, false⟩)) ∧
    ∀ (l v : Nat) (m : Marks) (s s2 : State), let fp := (c.g.rd 62 l).toNat
      s.inWindow c.g l fp 16 = true → c.g.stackR = true → s.stackEA c.g l fp % 16 = 0 → s.peek c.g l (s.stackEA c.g l fp) 16 = .ok (v, m) s2 →
      let f := Frame.of v false
      State.unmarkCheck s c.g tag.toNat l = if m ≠ 0 then .trap ⟨0x0A, l⟩ s2
        else if f.marker = true ∧ (tag = 0 ∨ f.tag = tag.toNat) then .ok (l, (fp + 2 ^ 32 - f.dist) % 2 ^ 32, fp) s2
        else .trap ⟨0x10, f.tag⟩ s2

/-- R380, R381, R385, R289: CUT lifts what lies above the marker of every active lane: the lane's slot, taken from the head of the free list in ascending lanes, is filled from the lane's frames and registers (a register outside the mask gives 0); the arena's head and count follow; no other byte changes, where the arena lies in this package; vd holds its handle, v63 and v62
are unwound to the marker's frame, and the lanes go to their labels. -/
def Obligations.TillersAreCut : Prop :=
  (∀ (c : Ctx) (h : Hdr) (tag : BitVec 8) (vd : BitVec 6) (regmask : Word) (a : Arena) (cuts : List Cut) (pops : List (Nat × Nat)) (head : Nat)
      (at_ : List (LaneAcc × Nat)) (s1 s2 s3 s4 : State),
    let i := Instr.cut h tag vd regmask
    let lanes := c.act.lanes
    let sets := groupTargets 64 (cuts.map fun x => (x.lane, x.label))
    let words := ((cuts.zip pops).flatMap fun x => x.1.slotWords c.g a x.2.1 x.2.2 tag.toNat vd.toNat regmask (c.packetAt 1)) ++
      [⟨c.low, a.base + 0x18, head, false⟩, ⟨c.low, a.base + 0x20, a.nfree - lanes.length, false⟩]
    c.Quiet i → i.wellFormed = true → c.s.Inv → c.act ≠ 0 → (∀ l, l < 64 → c.act.getLsbD l = true → c.g.bad 62 l = false ∧ c.g.bad 63 l = false) →
    c.s.arena c.g c.low = .ok (some a) s1 → Chk.each (fun l s => State.cutLane s c.g (some a) tag.toNat l) lanes s1 = .ok cuts s2 →
    lanes.length ≤ a.nfree → s2.stackRoom c.g (pushCount sets false) = true → State.popSlots c.g c.low a lanes.length a.head s2 = .ok (pops, head) s3 →
    s3.store8 c.g words = .ok at_ s4 → (∀ x ∈ at_, s4.isLocal x.2 = true) →
    ∃ u g', exec i c.s = .next (((u.setGroup c.n (g'.spread c.slot c.path sets none)).endSafe c.g).fitAreas c.n c.g.inRows) ∧ s4.storedAt u 8 at_ ∧
      at_.map (fun x => (x.1.ea, x.1.data)) = words.map (fun w => (w.ea, BitVec.ofNat 128 w.val)) ∧
      c.g.SameBut g' c.act ((Foot.v1 vd).union (Foot.vs 62 2)) ∧
      ∀ x ∈ cuts.zip pops, x.1.lane < c.g.width →
        g'.rd vd x.1.lane = BitVec.ofNat 32 (x.2.2 * 2 ^ 24 + x.2.1) ∧ g'.rd 63 x.1.lane = BitVec.ofNat 32 x.1.m ∧
          g'.rd 62 x.1.lane = BitVec.ofNat 32 (x.1.m + 2 ^ 32 - x.1.dist)) ∧
  ∀ (x : Cut) (g : Group) (a : Arena) (k gen tag vd : Nat) (regmask : Word) (rpc : DWord),
    let ws := x.slotWords g a k gen tag vd regmask rpc
    let word : Nat → Nat → Bool → Word8 := fun o v bad => ⟨x.lane, a.slot k + o, v, bad⟩
    word 0 (gen + 256) false ∈ ws ∧ word 0x10 (x.size + tag * 2 ^ 32 + vd * 2 ^ 40) false ∈ ws ∧ word 0x18 regmask.toNat false ∈ ws ∧
      word 0x20 rpc.toNat false ∈ ws ∧
      (∀ j, j < 16 → let reg := fun r => if regmask.getLsbD r then (g.rdp r x.lane).1.toNat else 0
        ∃ bad, word (0x40 + 8 * j) (reg (2 * j) + reg (2 * j + 1) * 2 ^ 32) bad ∈ ws) ∧
      ∀ n, 2 ≤ n → x.masked = [] → ∀ d, x.data[n]? = some d → d.1 < 2 ^ 64 → word (0xC0 + 8 * n) d.1 d.2 ∈ ws

/-- R386, R391: GRAFT first pins the slots that its handles name, each once for every lane that names it, and stays at its word with its slots pinned. With its slots pinned it copies in every active lane the frames of the tiller to the stack offset (words that no mask names as they are, from the second on),
and unpins the slots; no other byte of this package changes. It gives the lane the tiller's saved registers, 0 in the register of its CUT, and the offsets of its top frame and of its end, and sends it to the tiller's resumption PC, a JOIN of the next packet below. R388: an unpin that brings the pins of a slot that is no longer LIVE to 0 gives the
slot to the free list. -/
def Obligations.TillersAreGrafted : Prop :=
  (∀ (c : Ctx) (h : Hdr) (vh : BitVec 6) (ts : List Tiller) (words : List Word8) (a : Arena) (ps : List (List (Nat × Bool)))
      (at_ unit : List (LaneAcc × Nat)) (s1 s2 s3 s4 s5 : State),
    let i := Instr.graft h vh
    let sets := groupTargets 64 (ts.map fun t => (t.lane, t.rpc))
    let slots := slotCounts (ts.map Tiller.slot)
    let pins := if c.path.pinned then unpinWords a c.low a.head a.nfree (slots.zip ps) else pinWords a c.low slots ps
    let stored := fun (at_ : List (LaneAcc × Nat)) (ws : List Word8) => at_.map (fun x => (x.1.ea, x.1.data)) = ws.map fun w => (w.ea, BitVec.ofNat 128 w.val)
    c.Quiet i → i.wellFormed = true → c.s.Inv → c.act ≠ 0 →
    (∀ l, l < 64 → c.act.getLsbD l = true → c.g.bad vh l = false ∧ c.g.bad 62 l = false ∧ c.g.bad 63 l = false) →
    Chk.each (fun l s => State.graftLane s c.g vh c.path.pinned l) c.act.lanes c.s = .ok ts s1 → s1.stackRoom c.g (pushCount sets true) = true →
    s1.graftAll c.g (c.packetAt 1) ts = .ok words → s1.store8 c.g words = .ok at_ s2 → s2.arena c.g c.low = .ok (some a) s3 →
    s3.slotWords c.g c.low a (slots.map Prod.fst) = .ok ps s4 → s4.store8 c.g pins = .ok unit s5 → (∀ x ∈ at_ ++ unit, s5.isLocal x.2 = true) →
    (∀ r, r < 64 → c.g.busyV.getLsbD r = false) →
    stored at_ words ∧ stored unit pins ∧
    (c.path.pinned = false → ∃ u, s5.storedAt u 8 unit ∧
      exec i c.s = .next { u.setGroup c.n (c.g.setSlot c.slot (some { c.path with pinned := true })) with chain := 0 }) ∧
    (c.path.pinned = true → ∃ u g', s5.storedAt u 8 (at_ ++ unit) ∧
      exec i c.s = .next ((u.setGroup c.n (g'.spread c.slot { c.path with pinned := false } sets (some (c.packetAt 1)))).fitAreas c.n c.g.inRows) ∧
      c.g.onlyRegs g' ∧
      (∀ t ∈ ts, t.lane < c.g.width → ∀ r, r < 64 →
        g'.rdp r t.lane = if r = 62 then (BitVec.ofNat 32 ((c.g.rd 63 t.lane).toNat + t.fpr), false)
          else if r = 63 then (BitVec.ofNat 32 ((c.g.rd 63 t.lane).toNat + t.size), false)
          else if r = t.vd then (0, false)
          else if r < 32 ∧ t.regmask.getLsbD r = true then t.reg r
          else c.g.rdp r t.lane) ∧
      ∀ r l, r < 64 → l < c.g.width → c.act.getLsbD l = false → g'.rdp r l = c.g.rdp r l)) ∧
  (∀ (s : State) (g : Group) (ret : DWord) (t : Tiller) (ws : List Word8) (k : Nat) (d : Nat × Bool), s.graftWords g ret t = .ok ws → 2 ≤ k →
    t.data[k]? = some d → d.1 < 2 ^ 64 → t.walk (g.rd 63 t.lane).toNat (t.size / 16 + 1) t.fpr = .ok [] →
    (⟨t.lane, s.stackEA g t.lane (g.rd 63 t.lane).toNat + 8 * k, d.1, d.2⟩ : Word8) ∈ ws) ∧
  ∀ (a : Arena) (lane head nfree k n : Nat) (rest : List ((Nat × Nat) × List (Nat × Bool))) (w0 w1 : Nat) (m0 m1 : Bool), w1 < 2 ^ 64 → w1 % 2 ^ 16 = n →
    slotLive w0 = false → unpinWords a lane head nfree (((k, n), [(w0, m0), (w1, m1)]) :: rest) =
      [⟨lane, a.slot k + 8, w1 - n, false⟩, ⟨lane, a.slot k, w0 % 256 + head * 2 ^ 16, false⟩, ⟨lane, a.base + 0x18, k, false⟩, ⟨lane, a.base + 0x20, nfree + 1, false⟩] ++
        unpinWords a lane k (nfree + 1) rest

/-- R380, R388: TDROP of valid handles, no slot named twice, advances the generation of each slot (from 255 to 1) and clears LIVE; a slot that is not pinned goes to the head of the free list, whose count rises; the path goes on, no register and no other byte changes, where the arena lies in this package.
A handle that is not valid, or whose slot an earlier lane has dropped, traps TILLER_STALE with the handle. R381, R389: TINFO gives every active lane whose handle is valid the size of its tiller and a word of tag, generation and V, with the poison of the words that decide them, and 0 twice where it is not; it never traps for a handle. -/
def Obligations.TillersAreDroppedAndReported : Prop :=
  (∀ (c : Ctx) (h : Hdr) (vh : BitVec 6),
      let i := Instr.tdrop h vh
      let clean := ∀ l, l < 64 → c.act.getLsbD l = true → c.g.bad vh l = false
      (∀ xs s1 at_ s2, c.Quiet i → c.s.Inv → c.act ≠ 0 → clean → State.dropCheck c.g vh c.act.lanes [] c.s = .ok xs s1 →
        s1.dropAll c.g c.low xs = .ok at_ s2 → (∀ x ∈ at_, s2.isLocal x.2 = true) →
        ∃ u, exec i c.s = .next (c.advance i (u.endSafe c.g)) ∧ s2.storedAt u 8 at_) ∧
      (∀ t s1, c.Issues i → c.plain = true → c.act ≠ 0 → clean → State.dropCheck c.g vh c.act.lanes [] c.s = .trap t s1 →
        exec i c.s = .next (s1.takeTrap c.n c.slot ⟨t.cause, BitVec.ofNat 64 t.info, c.pc, false⟩)) ∧
      (∀ (l : Nat) (s : State) (a : Arena) (xs : List (Arena × Nat)) (ws : List (List (Nat × Bool))) (at_ : List (LaneAcc × Nat)) (s1 s2 s3 : State), s.arena c.g l = .ok (some a) s1 →
        Chk.each (fun (x : Arena × Nat) s => s.load8 c.g l (words8 (x.1.slot x.2) 2)) xs s1 = .ok ws s2 →
        s2.store8 c.g (dropWords l a.head a.nfree (xs.zip ws)) = .ok at_ s3 → s.dropAll c.g l xs = .ok at_ s3 ∧
          at_.map (fun x => (x.1.ea, x.1.data)) = (dropWords l a.head a.nfree (xs.zip ws)).map fun w => (w.ea, BitVec.ofNat 128 w.val)) ∧
      (∀ (l head nfree : Nat) (b : Arena) (k w0 w1 : Nat) (rest : List ((Arena × Nat) × List (Nat × Bool))), let gen := if w0 % 256 = 255 then 1 else w0 % 256 + 1
        ∀ m0 m1, dropWords l head nfree (((b, k), [(w0, m0), (w1, m1)]) :: rest) = if w1 % 2 ^ 16 = 0 then
            [⟨l, b.slot k, gen + head * 2 ^ 16, false⟩, ⟨l, b.base + 0x18, k, false⟩, ⟨l, b.base + 0x20, nfree + 1, false⟩] ++ dropWords l k (nfree + 1) rest
          else ⟨l, b.slot k, gen, false⟩ :: dropWords l head nfree rest) ∧
      (∀ (l : Nat) (rest seen : List Nat) (s s1 : State), s.handle c.g l (c.g.rd vh l).toNat = .ok none s1 →
        State.dropCheck c.g vh (l :: rest) seen s = .trap ⟨0x11, (c.g.rd vh l).toNat⟩ s1) ∧
      ∀ (l : Nat) (rest seen : List Nat) (a : Arena) (k : Nat) (s s1 : State), s.handle c.g l (c.g.rd vh l).toNat = .ok (some (a, k)) s1 → k ∈ seen →
        State.dropCheck c.g vh (l :: rest) seen s = .trap ⟨0x11, (c.g.rd vh l).toNat⟩ s1) ∧
  (∀ (c : Ctx) (h : Hdr) (vd vh : BitVec 6) (rs : List (Nat × Word × Word × Bool)) (s1 : State),
      let i := Instr.tinfo h vd vh
      (c.Quiet i → i.wellFormed = true → c.act ≠ 0 → (∀ l, l < 64 → c.act.getLsbD l = true → c.g.bad vh l = false) →
        Chk.each (fun l s => State.infoLane s c.g vh l) c.act.lanes c.s = .ok rs s1 →
        ∃ g', exec i c.s = .next (c.advance i (s1.setGroup c.n g')) ∧ c.g.SameBut g' c.act (Foot.vs vd 2) ∧ rs.map Prod.fst = c.act.lanes ∧
          ∀ x ∈ rs, x.1 < c.g.width → g'.rdp vd.toNat x.1 = (x.2.1, x.2.2.2) ∧ g'.rdp (vd.toNat + 1) x.1 = (x.2.2.1, x.2.2.2)) ∧
      (∀ (l : Nat) (s s2 : State) (m : Bool), s.handleRead c.g l (c.g.rd vh l).toNat = .ok (none, m) s2 → State.infoLane s c.g vh l = .ok (l, 0, 0, m) s2) ∧
      ∀ (l : Nat) (s s2 s3 : State) (a : Arena) (k : Nat) (w : Nat × Bool) (m : Bool), s.handleRead c.g l (c.g.rd vh l).toNat = .ok (some (a, k), m) s2 → s2.load8 c.g l [a.slot k + 0x10] = .ok [w] s3 →
        State.infoLane s c.g vh l = .ok (l, BitVec.ofNat 32 w.1,
          BitVec.ofNat 32 (w.1 / 2 ^ 32 % 256 + (c.g.rd vh l).toNat / 2 ^ 24 * 256 + 65536), m || w.2) s3)

end

namespace Sys2Proof.Machine

/-- The frames that the Sheaf chooses among for a demand page (R425 rule 1): two for a twin page. -/
def State.demandFrames (s : State) (f : PageFault) (e : DWord) : List Nat := s.framesFor (s.faultPart f) (pteTier e) (if pteTW e then 2 else 1)

/-- Frame number fr filled for a demand entry: zeros, or a copy of the frame that the entry names (R425 rule 1). -/
def State.fillFrame (s : State) (e : DWord) (fr : Nat) : State := if pteFrame e = 0 then s.zeroFrame fr else s.copyFrame (pteFrame e) fr

end Sys2Proof.Machine

section
open Sys2Proof Sys2Proof.Machine

/-! ### Events of memory and time -/

/-- R52, R56, R63, R65, R66, R425: a walk to a leaf sets AC (and DT for a write) in the entry and leaves the translation in the core's TLB and its quad's, changing nothing else but what walk caches hold. A posted fault (one not posted for a malformed entry) whose page has a leaf is resolved; one on a demand entry takes a free frame, or
two for a twin page, fills them and makes the entry a leaf. A logged store that is oldest in its group's log and whose page is there leaves the log and writes its bytes and no others. An overdue log entry deschedules its husk. A migration first freezes the leaf and drops what TLBs hold of the page; later, when no access of the address space is under way, the page's frames are copied, the leaf
names the new ones without FZ, and the old ones are free; a page that leaves stacked DRAM for the CXL tier, against its hint, is left as a demand entry. That the Sheaf picks frames that were given back, or one that nothing uses, is the model's (log entry 48). -/
def Obligations.TranslationEventsComplete : Prop :=
  (∀ (s : State) (asid va pe : Nat) (w big : Bool) (e : DWord), va < 2 ^ 51 → s.walkFrom 0 asid va = .leaf pe e big → pteFZ e = false →
    let e' : DWord := e ||| (if w then 0x6000 else 0x2000)
    ∃ t, exec (.pageWalk asid va w) s = .next t ∧ s.sameButTables t ∧
      t.mem = (if e' = e then s else s.writePA pe 8 e'.toNat false).mem ∧
      ∀ u ∈ [TlbUnit.l1 0, .l2 0], ∃ x, t.tlbLookup u asid va w = some x ∧ x.leafFor va = e' ∧ x.big = big) ∧
  (∀ (s : State) (n pick pe : Nat) (f : PageFault) (e : DWord) (big : Bool), s.faults[n]? = some f → f.malformed = false → f.at_ = .posted →
    s.walk f.asid (f.page * 65536) = .leaf pe e big → exec (.demandFault n pick) s = .next (s.resolved f)) ∧
  (∀ (s : State) (n pick pe : Nat) (f : PageFault) (e : DWord), s.faults[n]? = some f → f.malformed = false → f.at_ = .posted →
    s.walk f.asid (f.page * 65536) = .fault pe e 3 → pteLeaf e = true → s.demandBad e = false → s.demandFrames f e ≠ [] →
    let m := if pteTW e then 2 else 1
    ∃ fr ∈ s.demandFrames f e, ∃ t, exec (.demandFault n pick) s = .next t ∧
      t.mem = (((List.range m).foldl (fun s k => s.fillFrame e (fr + k)) s).writePA pe 8
        (fr % 2 ^ 38 * 65536 + e.toNat / 4 % 2 ^ 14 * 4 - (e.toNat / 2 ^ 13 % 4) * 2 ^ 13 + 3) false).mem ∧
      (t.part (s.faultPart f)).freeFrames = (s.part (s.faultPart f)).freeFrames.filter (fun x => decide (x < fr ∨ fr + m ≤ x)) ∧
      t.faults = s.faults.filter fun x => !(x.asid == f.asid && x.page == f.page)) ∧
  (∀ (s s1 : State) (n m pa : Nat) (g : Group) (e : LogEntry) (es : List LogEntry) (a : LaneAcc), s.Inv → s.group n = some g → g.log = e :: es →
    e.kind = .access → (match e.instr with | .stB .. | .stH .. | .stW .. | .stD .. | .stQ .. => True | _ => False) → memOpOf e.instr = some (.store m) →
    s.entryWaits (s.asidOf g) e = false → g.remoteWrites = false → s.resolve (s.coreOf g) (s.asidOf g) .store e.lanes = .ok s1 [(a, pa)] →
    s1.isLocal pa = true → g.spiltNow = g.spilt →
    ∃ t, exec (.operandLogReplay n) s = .next t ∧ t.readPA pa m = a.data.toNat % 2 ^ (8 * m) ∧
      (∀ b, b < paLocal pa ∨ paLocal pa + m ≤ b → t.mem.get b = s1.mem.get b) ∧ (t.group n).map Group.log = some es) ∧
  (∀ (s : State) (n : Nat) (g : Group) (h : Husk), s.group n = some g → g.husk = some h → h.orphd = false → h.waitd = false →
    s.logOverdue g = true → exec (.orphanThreshold n) s = .next (s.setGroup n { g with husk := some { h with desched := true } })) ∧
  (∀ (s : State) (asid va frame pe : Nat) (e : DWord) (big : Bool), s.walk asid va = .leaf pe e big → pteFZ e = false → pteTier e ≠ 3 →
    s.publishing asid (va / 65536) = false → s.isLocal (pteFrame e * 65536) = true →
    (∀ m ∈ s.migrating, ¬(m.1 = asid ∧ m.2.1 = va)) → s.framesFree (s.asRec asid).part frame (leafFrames e big) = true →
    ∃ t, exec (.migration asid va frame) s = .next t ∧ t.mem = (s.writePA pe 8 (e.toNat + 4096) false).mem ∧
      t.migrating = s.migrating ++ [(asid, va, frame)] ∧ ∀ x ∈ t.tlb, x.covers asid va = false) ∧
  (∀ (s : State) (asid va frame pe : Nat) (e : DWord) (big : Bool), s.walk asid va = .leaf pe e big →
    (s.migrating.find? fun m => m.1 == asid && m.2.1 == va) = some (asid, va, frame) → s.accessesOpen asid = false →
    ∃ t, exec (.migration asid va frame) s = .next t ∧
      t.mem = (((List.range (leafFrames e big)).foldl (fun s k => s.copyFrame (pteFrame e + k) (frame + k)) s).writePA pe 8 (movedLeaf e big frame) false).mem ∧
      (t.part (s.asRec asid).part).freeFrames = (List.range (leafFrames e big)).map (pteFrame e + ·) ++ (s.part (s.asRec asid).part).freeFrames ∧
      t.migrating = (s.migrating.filter fun m => m != (asid, va, frame)) ∧ ∀ x ∈ t.tlb, x.covers asid va = false) ∧
  ∀ (e : DWord) (big : Bool) (frame : Nat), frame < 2 ^ 38 → pteV e = true →
    let m := BitVec.ofNat 64 (movedLeaf e big frame)
    pteFrame m = frame ∧ pteFZ m = false ∧
      (if big = false ∧ pteTW e = false ∧ frameNear (pteFrame e) = true ∧ frameNear frame = false ∧ pteTier e ≠ 2 then
        pteV m = false ∧ pteAC m = false ∧ pteDT m = false else pteV m = true ∧ pteAC m = pteAC e ∧ pteDT m = pteDT e)

/-- R10, R88, R139, R141, R156, R160: a heartbeat takes both counters to the next multiple of 1,024 cycles and ends each FENCE.SC; the patrol corrects one wrong bit, counts it for its structure and notes it for the driver, and poisons a word of memory
with more; a register under pressure folds; a spilled one returns to a row where its group may have one more; a host's write stores its bytes. -/
def Obligations.TimeAndRegisterEventsComplete : Prop :=
  (∀ s : State, ∃ t, exec .heartbeatTick s = .next t ∧ t.heartbeats = s.heartbeats + 1 ∧ t.cycle = 1024 * (s.heartbeats + 1) ∧ t.mem = s.mem ∧
    ∀ n g slot, s.group n = some g → g.asleep = some (.fenceSC slot) →
      t.group n = some (Group.setSlot { g with asleep := none } slot ((g.slot slot).map fun p => { p with pc := p.pc + 4 }))) ∧
  (∀ (s : State) (w : Nat), let k := if w < 2 ^ 42 then 0 else 1
    exec (.patrolScrub w 1) s = .next { s with
      corrected := Tbl.set 0 s.corrected k (Tbl.get 0 s.corrected k + 1), sheafLog := s.sheafLog ++ [⟨7, 0, 0, BitVec.ofNat 64 k⟩] }) ∧
  (∀ (s : State) (w k : Nat), 2 ≤ k → w < 2 ^ 42 → s.backed (8 * w) = true →
    ∃ t, exec (.patrolScrub w k) s = .next t ∧ t = { s with memPoison := t.memPoison } ∧
      (∀ x, x ∈ t.memPoison ↔ x = w ∨ x ∈ s.memPoison)) ∧
  (∀ (s : State) (n : Nat) (g : Group) (vd : BitVec 6), s.group n = some g → g.foldpol ≠ 0 → g.foldable vd.toNat = true →
    exec (.registerFold n vd) s = .next (s.setGroup n (g.setVreg vd.toNat { g.vreg vd.toNat with hold := .folded }))) ∧
  (∀ (s : State) (n : Nat) (g : Group) (vd : BitVec 6) (vals : List Word) (ps : Mask), s.group n = some g → (g.vreg vd.toNat).hold = .spilled vals ps →
    let g' := g.setVreg vd.toNat { g.vreg vd.toNat with hold := .rows vals ps }
    g'.rowsHeld ≤ s.rowLimit n g → exec (.registerUnspill n vd) s = .next (s.setGroup n g')) ∧
  ∀ (s : State) (l : List Byte) (pa n : Nat), s.Inv → l ≠ [] → s.backed (paLocal pa) = true → s.backed (paLocal pa + l.length - 1) = true →
    ∃ t, exec (.hostMemoryAccess (some l) pa n) s = .next t ∧ t = { s with mem := t.mem, memPoison := t.memPoison } ∧
      ∀ a, t.mem.get a = if paLocal pa ≤ a ∧ a < paLocal pa + l.length then l.getD (a - paLocal pa) 0 else s.mem.get a

/-! ### Events of the engines -/

/-- R100, R105, R106, R107, R240, R244: a chunk of a request whose destination is in this package credits its barrier; a wait ends when its barrier shows no fault and expects nothing, or its cycle has come; a publication, once no copy to its region and no access of its address space is under way, toggles TA in the leaf of each of its pages, once each, and drops
their translations; the work at the head of a matrix queue claims its tile as zeros where no other group holds it, at once or from its wait; and an MXLOOP that has the array advances its tile by one block. -/
def Obligations.EngineEventsComplete : Prop :=
  (∀ (s : State) (core k : Nat) (r : CopyReq) (g : Group) (w : Work), s.copyHead core [] s.copies = some r → s.group r.group = some g →
    (dstSide r.block).kind ≠ 4 →
    let j : Job := ⟨r.group, g, r.block, r.inbuf⟩
    let before := fun (key : Int × Int) => (r.prodsFrom 0 r.next).any fun p => p.drow == key.1 && p.dk / ((dstSide r.block).block : Int) == key.2
    let ps := r.prodsFrom r.next (if (dstSide r.block).block ≠ 0 ∧ blkLcnt r.block ≠ 0 then r.count.1 else 8 * Config.chunkBytes + 8)
    j.chunk before ps.length [] ps 0 ⟨s, [], r.rng, [], []⟩ = (w, k, .full) → k ≠ 0 →
    let r' : CopyReq := { r with rng := w.rng, inbuf := [], waitPage := none }
    exec (.copyChunk core) s = .next (((w.s.count g w.counts).setCopy r (some r')).copyCredit r' (j.bytesOf k))) ∧
  (∀ (s : State) (n la : Nat) (g : Group) (t : Team) (slot : SlotId), s.group n = some g → s.teamOf g = some t → g.asleep = some (.cbwait slot la) →
    (t.readLocal la 16).2 = false → barFault (t.barrier la) = false → barCount (t.barrier la) = 0 →
    exec (.cbwaitWake n) s = .next (s.setGroup n (Group.setSlot { g with asleep := none } slot ((g.slot slot).map fun p => { p with pc := p.pc + 4 })))) ∧
  (∀ (s : State) (n : Nat) (g : Group) (t : Team) (slot : SlotId) (c : DWord), s.group n = some g → s.teamOf g = some t →
    g.asleep = some (.sleepuntil slot c none) → c.toNat ≤ s.cycle →
    exec (.sleepuntilWake n) s = .next (s.setGroup n (Group.setSlot { g with asleep := none } slot ((g.slot slot).map fun p => { p with pc := p.pc + 4 })))) ∧
  (∀ (s : State) (n base len : Nat) (g : Group) (slot : SlotId), s.group n = some g → g.asleep = some (.publish slot base len) →
    s.twinBusy (s.asidOf g) base len = false → s.accessesOpen (s.asidOf g) = false → (∀ a ∈ regionPages base len, s.twinPage (s.asidOf g) a ≠ .frozen) →
    exec (.publishFlip n) s = .next (((s.flipRegion (s.asidOf g) (regionPages base len)).endSafe g).wake n slot 1)) ∧
  (∀ (s : State) (asid : Nat) (pages : List Nat), let leaves := s.twinLeaves asid pages
    leaves.Nodup ∧ (∀ x, x ∈ leaves ↔ ∃ va ∈ pages, ∃ big, s.walk asid va = .leaf x.1 x.2 big ∧ pteTW x.2 = true ∧ pteFZ x.2 = false) ∧
    s.flipRegion asid pages = pages.foldl (fun s va => s.invalidate asid (va / 65536) 1)
      (leaves.foldl (fun s x => s.writePA x.1 8 (x.2 ^^^ 0x8000).toNat false) s)) ∧
  (∀ (s : State) (n k : Nat) (g : Group) (w : MxWork) (h : Hdr) (t : Bool), s.group n = some g → g.mxHead = some (k, w) → w.instr = .accz h t →
    w.ops = none → w.spoiled = none → s.tileTaken n g (tileNum t) = false →
    exec (.matrixWorkBegin n) s = .next ((s.setGroup n ((g.mxDone k w).setTile (tileNum t) (some Tile.zero))).fitRows n g.inRows)) ∧
  (∀ (s : State) (n k : Nat) (g : Group) (w : MxWork) (h : Hdr) (t : Bool), s.group n = some g → g.mxHead = some (k, w) → w.instr = .accz h t →
    w.ops = some [] → s.tileTaken n g (tileNum t) = false →
    exec (.acczClaim n) s = .next (s.setGroup n ((g.mxDone k { w with ops := none }).setTile (tileNum t) (some Tile.zero)))) ∧
  ∀ (s : State) (n k : Nat) (g : Group) (w : MxWork) (h : Hdr) (t : Bool) (ob : BitVec 3) (b : BitVec 2) (vq : BitVec 6) (z : Bool) (kc it : BitVec 12)
    (mob : BitVec 3) (quad : List Word) (ra rb : Resv) (tile : Tile) (d : MxDesc),
    s.group n = some g → g.mxHead = some (k, w) → w.instr = .mxloop h t ob b vq .dense z kc it mob → w.ops = some quad → w.spoiled = none →
    s.arrayTurn n g = true → g.obAt ob.toNat = some ra → g.bAt b.toNat = some rb → g.tileAt (tileNum t) = some tile → MxDesc.of quad = some d →
    let len := Nat.min (sumBlock ra rb) (kc.toNat - w.k)
    let p : MxPlace := ⟨d, ra, rb, none, .dense, kc.toNat, it.toNat, w.it, w.k, len⟩
    p.metaOk = true →
    ∃ s' g', exec (.matrixBlock n) s = .next s' ∧ s'.group n = some g' ∧ g'.tileAt (tileNum t) = some (p.run tile).1 ∧
      (w.k + len < kc.toNat → w.it ≠ it.toNat → g'.mx[k]? = some { w with k := w.k + len }) ∧ s'.mem = s.mem

end

namespace Sys2Proof.Machine

/-- An answer of width 32 to the one lane l that group n waits for, by a request with tag `tag`. -/
def State.awaits (s : State) (n l tag : Nat) (g : Group) (i : Instr) (vt : BitVec 6) : Prop :=
  ∃ pkg part w pc accs acq seq, s.remoteAt tag = some ⟨tag, pkg, part, w, .lanes n [l]⟩ ∧ s.group n = some g ∧ g.plain = true ∧ g.widthOk = true ∧
    128 ≤ s.rowLimit n g ∧ g.spiltNow = g.spilt ∧ g.remote = [⟨i, Mask.bit l, [tag], [], pc, accs, acq, seq⟩] ∧
    l < g.width ∧ i.hdr.u = false ∧ memDest i = some (vt, 1)

end Sys2Proof.Machine

section
open Sys2Proof Sys2Proof.Machine

/-! ### Events of the fabric -/

/-- R119 to R121, R123, R124, R126 to R130: an E-port that is up accepts the flit with the expected sequence number where it has room for it, and takes its rate. Any other it drops, owing one NAK until the next acceptance, and one that lacks room alone sets the rate that it advertises to 0. An accepted IDLE changes nothing more; an
accepted NAK has the port send everything unacknowledged again. A WRITE record stores its bytes here and is acknowledged; a READ word is answered with the data; an ATOMIC record (no RED, no CAS) leaves what its operation gives and is answered with the old value. A READ_RESP and an ATOMIC_RESP write the register of the lane that waits for them; an ACK
ends the signal's update, whose message then goes out, and a DRAIN_ACK the DRAIN, that it answers; a DRAIN with no chunk of its source under way is answered; an uncompressed chunk of one flit is stored and acknowledged. A flit for another package goes on with one hop more. What is sent to a package whose route is to change is held. What a full receive buffer is, is a free value (log entry 50). -/
def Obligations.FlitsTakeEffect : Prop :=
  (∀ (s : State) (port : Nat) (f : Flit), let p := s.port port
    port < 18 → p.up = true → p.retraining = false →
    (∀ type, s.flitOk type f = true → f.seq.toNat = p.expectSeq % 65536 → type ≠ 0 → type ≠ 8 → s.fits type = true →
      ∃ s1, s.accepts port type f = some s1 ∧ (s1.port port).expectSeq = (p.expectSeq + 1) % 65536 ∧ (s1.port port).rateIn = f.rate.toNat ∧
        (s1.port port).nakSent = false ∧ s1 = { s with ports := s1.ports }) ∧
    ∀ x ∈ [(0, Instr.idle port f), (1, .write port f), (2, .read port f), (3, .atomic port f), (4, .readResp port f), (5, .atomicResp port f),
        (6, .ack port f), (7, .bulk port f), (8, .nak port f), (9, .drain port f), (10, .drainAck port f)],
      s.accepts port x.1 f = none →
        let d := if p.nakSent then p else { p with nakDue := true }
        exec x.2 s = .next (s.setPort port (if s.noRoom port x.1 f then { d with rateOut := 0 } else d))) ∧
  ∀ (s s1 : State) (port : Nat) (f : Flit),
    let w := f.get 0 8
    let pa := w % 2 ^ 54
    let n := 2 ^ (w / 2 ^ 54 % 8)
    (s.accepts port 0 f = some s1 → exec (.idle port f) s = .next s1) ∧
    (s.accepts port 8 f = some s1 → exec (.nak port f) s = .next (s1.setPort port (s1.port port).replayAll)) ∧
    (s.accepts port 1 f = some s1 → f.dst ≠ s1.pkgId → f.hops ≠ 15 → (s1.route f.dst.toNat).getLsbD 63 = true →
      exec (.write port f) s = .next (s1.emit 1 0 { f with hops := f.hops + 1 })) ∧
    (∀ type pa, type ≠ 7 →
      (s.routeStalled f.dst.toNat = true → s.emit type pa f = { s with held := s.held ++ [⟨type, f, pa⟩] }) ∧
      ∀ q, s.routeStalled f.dst.toNat = false → (∀ h ∈ s.held, h.flit.dst ≠ f.dst) → s.routePort f.dst.toNat = some q →
        s.emit type pa f = s.enqueueAs q type f false) ∧
    (f.dst = s1.pkgId →
      (s.accepts port 1 f = some s1 → f.payload.length = 24 → s1.mine pa = true →
        exec (.write port f) s = .next ((s1.writePA pa n (f.get 8 16 % 2 ^ (8 * n)) false).answer f 6 [])) ∧
      (s.accepts port 2 f = some s1 → f.payload.length = 8 → s1.mine pa = true →
        exec (.read port f) s = .next (s1.answer f 4 (bytesOf 16 (s1.readPA pa n)))) ∧
      (∀ op, s.accepts port 3 f = some s1 → f.payload.length = 24 → s1.mine pa = true → f.isRed = false → f.get 16 8 % 32 ≠ casCode →
        AtomOp.of (f.get 16 8 % 32) = some op →
        let m := if f.get 16 8 / 32 % 4 = 1 then 8 else 4
        exec (.atomic port f) s = .next ((s1.writePA pa m (atomNew op m (s1.readPA pa m) (f.get 8 8 % 2 ^ (8 * m))) (s1.poisonedPA pa m)).answer f 5
          (bytesOf 8 (s1.readPA pa m)))) ∧
      (∀ k l g i vt, s.accepts port 4 f = some s1 → f.payload.length = 16 → s1.awaits k l f.id g i vt →
        ∃ t g', exec (.readResp port f) s = .next t ∧ t.group k = some g' ∧ g'.remote = [] ∧ g'.rdp vt.toNat l = (BitVec.ofNat 32 (f.get 0 16), false) ∧
          t.remoteAt f.id = none) ∧
      (∀ k l g i vt, s.accepts port 5 f = some s1 → f.payload.length = 8 → s1.awaits k l f.id g i vt →
        ∃ t g', exec (.atomicResp port f) s = .next t ∧ t.group k = some g' ∧ g'.remote = [] ∧
          g'.rdp vt.toNat l = (BitVec.ofNat 32 (f.get 0 8), false) ∧ t.remoteAt f.id = none) ∧
      (∀ pkg part x a m, s.accepts port 6 f = some s1 → s1.remoteAt f.id = some ⟨f.id, pkg, part, x, .signal a m⟩ →
        exec (.ack port f) s = .next { s1.closeRemote f.id with msix := s1.msix ++ m.toList }) ∧
      (∀ pkg part d x, s.accepts port 10 f = some s1 → s1.remoteAt f.id = some ⟨f.id, pkg, part, x, .drain d⟩ →
        exec (.drainAck port f) s = .next (s1.closeRemote f.id)) ∧
      (s.accepts port 9 f = some s1 → s1.drains = [] → (∀ c ∈ s1.chunks, c.src ≠ f.src.toNat) →
        exec (.drain port f) s = .next (s1.emit 10 0 (mkFlit s1 1 f.src.toNat f.tag.toNat false (bytesOf 2 (f.get 0 2))))) ∧
      (s.accepts port 7 f = some s1 → s1.openChunk f = none → s1.remoteAt f.id = none → f.w = false → f.get 10 2 ≠ 0 →
        f.payload.length = 16 + f.get 10 2 → s1.Inv → (∀ k, k < f.get 10 2 → s1.mine (f.get 0 8 + k) = true) →
        ∃ t, exec (.bulk port f) s = .next t ∧ t.Inv ∧
          (∀ k, k < f.get 10 2 → (t.mem.get (paLocal (f.get 0 8 + k))) = f.payload.getD (16 + k) 0) ∧
          ∀ q, s1.drains = [] → s1.routeStalled f.src.toNat = false → s1.held = [] → s1.routePort f.src.toNat = some q →
            (t.port q).sendq = (s1.port q).sendq ++ [⟨6, mkFlit s1 1 f.src.toNat f.tag.toNat false [], 0, false⟩]))

/-- R117, R118, R120 to R125: the 256 bytes of a flit give the flit back. A flit with a wrong CRC is dropped. In a slot that the pace leaves to it a port sends the NAK that it owes, else the flit at the head of its queue with the next sequence number, its acknowledgement and its rate, and keeps it for replay; with nothing to send, an IDLE that takes no number. A timeout replays
from the oldest flit, and after 8 replays retrains the port. A retraining that ends brings the port up with what it holds; one that fails three times leaves it down, and traffic to each destination whose entry names the port is stalled until the entry changes. An entry changes once nothing to its destination is outstanding. -/
def Obligations.PortsKeepTheirOrder : Prop :=
  (∀ (type : Nat) (f : Flit), type < 16 → f.payload.length ≤ 240 → (flitBytes type f).length = 256 ∧ flitOfBytes (flitBytes type f) = some (type, f)) ∧
  ∀ (s : State) (port : Nat), let p := s.port port
    (port < 18 → p.up = true → p.retraining = false →
      exec (.crcFailure port) s = .next (s.setPort port (if p.nakSent then p else { p with nakDue := true }))) ∧
    (port < 18 → p.up = true → p.retraining = false → p.mayStart = true → p.nakDue = true →
      ∃ p' dst, exec (.flitSlot port) s = .next (s.setPort port p') ∧ p'.nakDue = false ∧ p'.nakSent = true ∧ p'.nextSeq = p.nextSeq ∧
        p'.sendq = p.sendq ∧ p'.replay = p.replay ∧ p'.wire = flitBytes 8 (p.control s.pkgId dst)) ∧
    (port < 18 → p.up = true → p.retraining = false → p.nakDue = false → p.replay[p.resend]? = none → p.sendq = [] →
      ∃ p' dst, exec (.flitSlot port) s = .next (s.setPort port p') ∧ p'.nextSeq = p.nextSeq ∧ p'.replay = p.replay ∧
        p'.wire = flitBytes 0 (p.control s.pkgId dst)) ∧
    (∀ x rest, port < 18 → p.up = true → p.retraining = false → p.mayStart = true → p.nakDue = false → p.replay[p.resend]? = none → p.sendq = x :: rest →
      p.replay.length < Config.replayFlits →
      ∃ p', exec (.flitSlot port) s = .next (s.setPort port p') ∧ p'.sendq = rest ∧ p'.nextSeq = (p.nextSeq + 1) % 65536 ∧ p'.resend = p.resend + 1 ∧
        let y : OutFlit := { x with
          flit := { x.flit with
            seq := BitVec.ofNat 16 p.nextSeq, ack := BitVec.ofNat 16 (p.expectSeq + 65535), rate := BitVec.ofNat 8 p.rateOut }
          at_ := s.cycle }
        p'.replay = p.replay ++ [y] ∧ p'.wire = flitBytes y.type y.flit) ∧
    (∀ x xs, p.replay = x :: xs → p.up = true → p.retraining = false → p.resend ≠ 0 → x.at_ + 4200 ≤ s.cycle →
      exec (.replayTimeout port) s = .next (s.setPort port
        { p with resend := 0, replays := p.replays + 1, retraining := decide (8 ≤ p.replays) })) ∧
    (∀ k, p.retraining = true → k < 3 → s.fabRunning 1 = false → ∃ p', exec (.portRetrain port k) s = .next (s.setPort port p') ∧
      p'.up = true ∧ p'.down = false ∧ p'.retraining = false ∧ p'.resend = 0 ∧ p'.sendq = p.sendq ∧ p'.replay = p.replay ∧ p'.nextSeq = p.nextSeq ∧
        p'.expectSeq = p.expectSeq) ∧
    (∀ k, p.retraining = true → 3 ≤ k → s.fabRunning 1 = false → p.replay = [] → p.sendq = [] → port < 18 →
      let t := s.setPort port { Port.reset with down := true }
      exec (.portRetrain port k) s = .next t ∧
        ∀ d, (s.route d).getLsbD 63 = true → (bitsOf (s.route d).toNat 58 5 = port ∨ (s.route d).getLsbD (40 + port) = true) → t.routeStalled d = true) ∧
    (∀ d e, d < 512 → s.openTo d = false → s.fabRunning 2 = false →
      exec (.routeUpdate d e) s = .next { s with routes := Tbl.set 0 s.routes d e })

end

namespace Sys2Proof.Machine

/-- The packet p stands next in hardware queue slot `slot` and is accepted (R319, R320, R322); s1 is the state as reading the ring leaves it. -/
def State.nextPacket (s : State) (slot : Nat) (p : Packet) (s1 : State) : Prop :=
  ∃ q, (s.qslot slot).queue = some q ∧ s.queueOpen slot q = true ∧ s.queueAsOk q = true ∧ s.packetWords q = .ok p.w s1 ∧
    p.slot = slot ∧ p.queue = q ∧ p.asid = s.qAsid q ∧ p.part = s.qPart q ∧
    (p.type < 5 → p.wellFormed = true ∧ (bitsOf (p.word 0) 8 1 = 1 → s.queueBusy q false = false))

/-- A packet is accepted: its queue's read index advances by 1, and the hub keeps nothing of other packages for it. -/
def State.pastPacket (s : State) (p : Packet) : State :=
  let s1 := s.hubDone.writePA (s.qcb p.queue + 24) 8 ((s.qword p.queue 3 + 1) % 2 ^ 64) false
  s1.setQslot p.slot { s1.qslot p.slot with idleSince := s.cycle }

/-- What the processing of a packet leaves: its queue's read index advances by 1 and its message, if any, is sent. -/
def State.afterPacket (s : State) (p : Packet) : State :=
  let s2 := s.pastPacket p
  match p.msix with
  | some v => { s2 with msix := s.msix ++ [v] }
  | none => s2

end Sys2Proof.Machine

section
open Sys2Proof Sys2Proof.Machine

/-! ### Events of the hub -/

/-- R319, R320, R321, R322: a kick of an unmapped queue waits with PEND; the Sheaf maps it; NOP, LAUNCH, SIGNAL, WAIT and FENCE packets have their effect and leave the queue, SIGNAL and FENCE once every earlier LAUNCH has ended and, at pod and sys scope, no signal of the partition is under way to another package; a packet
of a reserved type stops the queue with err 2. -/
def Obligations.QueuesServeTheirPackets : Prop :=
  (∀ (s : State) (fn : Nat) (queue : BitVec 12), s.boot.state = 2 → s.mayKick fn queue.toNat = true → s.slotOfQueue queue.toNat = none →
    s.queues.contains queue.toNat = false →
    exec (.doorbell fn queue) s = .next { s.setQFlag queue.toNat 1 true with queues := s.queues ++ [queue.toNat] }) ∧
  (∀ (s : State) (q k : Nat), s.queues.contains q = true → s.queueAsOk q = true → s.slotFor = some k →
    ∃ t, exec (.queueMap q) s = .next t ∧ (t.qslot k).queue = some q ∧ t.queues.contains q = false) ∧
  ∀ (s s1 : State) (slot : Nat) (p : Packet), s.nextPacket slot p s1 →
    (p.type = 0 → exec (.packetNop slot) s = .next (s1.afterPacket p)) ∧
    (∀ r s2, p.type = 1 → s1.readImage p.asid s1.launches.length (p.word 1) none = .ok r s2 →
      exec (.packetLaunch slot) s = .next ((s2.accept r p.asid p.part p.queue (p.word 1) none (s2.qslot slot).prio p.msix).pastPacket p)) ∧
    (∀ pa pte big s2 s3, p.type = 2 → s1.queueBusy p.queue false = false → (bitsOf (p.word 3) 4 3 < 4 ∨ s1.signalsOut p.part = false) →
      s1.signalStalled p.asid (p.word 1) = false → s1.translateHub p.asid (p.word 1) true = (.ok pa pte big, s2) →
      s2.signalOp p.part p.asid (p.word 1) (if p.word 3 % 2 = 1 then .max else .add) (p.word 2) p.msix = some s3 →
      exec (.packetSignal slot) s = .next (s3.pastPacket p) ∧ (pteRW pte = true → ∀ s4, s2.translateHub p.asid (p.word 1) true = (.ok pa pte big, s4) → s4.isLocal pa = true →
        let t := s4.writePA pa 8 (atomNew (if p.word 3 % 2 = 1 then .max else .add) 8 (s4.readPA pa 8) (p.word 2 % 2 ^ 64)) (s4.poisonedPA pa 8)
        s3 = { t with msix := t.msix ++ p.msix.toList })) ∧
    (∀ pa pte big s2, p.type = 3 → s1.translateHub p.asid (p.word 1) false = (.ok pa pte big, s2) → pteR pte = true → s2.isLocal pa = true →
      (match p.word 3 with | 0 => p.word 2 ≤ s2.readPA pa 8 | 1 => s2.readPA pa 8 = p.word 2 | _ => s2.readPA pa 8 ≠ p.word 2) →
      exec (.packetWait slot) s = .next (s2.afterPacket p)) ∧
    (p.type = 4 → s1.queueBusy p.queue false = false → (p.word 1 < 4 ∨ s1.signalsOut p.part = false) →
      exec (.packetFence slot) s = .next (s1.afterPacket p)) ∧
    (5 ≤ p.type → exec (.reservedPacket slot) s = .next (s1.queueStop p.queue 2))

/-- R271, R315 to R317, R323, R325, R347: a decision, with the configurations in force that have waited for it, admits the best item that the core admits, fresh or saved; the hub's acceptance of a LAUNCH takes the path on; a launch with nothing left, and no record, status, signal or
message, is live no more; an arrival at a pod barrier is counted, and a new generation releases the team. -/
def Obligations.HubEventsComplete : Prop :=
  (∀ (s : State) (core : Nat) (i : Item), s.boot.state = 2 → s.rampFree = true → core < 256 → (s.core core).out = false →
    let s0 := s.cfgApply core
    s0.bestFor core s0.items = some i → ∃ t, s0.takeItem core i = some t ∧ exec (.dispatchDecision core) s = .next t) ∧
  (∀ (s : State) (k core : Nat), s.boot.state = 2 → s.rampFree = true → core < 256 → s.bestFor core s.items = some (.saved k) →
    ∃ t, s.takeItem core (.saved k) = some t ∧ exec (.contextResume k core) s = .next t) ∧
  (∀ (s s1 : State) (n q : Nat) (g : Group) (t : Team) (l : Launch) (slot : SlotId) (img : DWord) (r : ImageRead), s.group n = some g →
    g.asleep = some (.launch slot img q) → s.teamOf g = some t → s.launchOf g = some l →
    s.launchRuns l = true → s.readImage l.asid s.launches.length img.toNat (some t.launch) = .ok r s1 →
    exec (.launchAccept n) s = .next ((s1.hubDone.accept r l.asid l.part l.queue img.toNat (some t.launch) q none).wake n slot 1)) ∧
  (∀ (s : State) (k : Nat) (l : Launch), s.launch k = some l → l.live = true → s.drained l = true →
    (l.runs.all fun x => x.st == .complete) = true → l.told = 0 → l.hdr.record = 0 → l.hdr.status = 0 → l.hdr.signal = 0 → l.msix = none → l.parent = none →
    exec (.launchComplete k) s = .next { s.setLaunch k { l with live := false, told := 3 } with
      qslots := s.qslots.map fun (q : QSlot) => if q.queue = some l.queue then { q with idleSince := s.cycle } else q }) ∧
  (∀ (s s1 : State) (n pa : Nat) (t : Team) (l : Launch), s.podTeam n = some (t, l) → s.podArrives t = true → s.podPA l = (some pa, s1) →
    s1.isLocal pa = true →
    let w := s1.readPA pa 8
    exec (.podBarrierUpdate n) s = .next ((s1.writePA pa 8 (podNext l.podTotal w true) false).setTeam n
      { t with podGen := some (w / 2 ^ 48 % 65536) })) ∧
  (∀ total w, w % 2 ^ 24 + 1 < 2 ^ 24 → w < 2 ^ 64 → podNext total w true =
    if total ≤ w % 2 ^ 24 + 1 + w / 2 ^ 24 % 2 ^ 24 then (w / 2 ^ 48 + 1) % 65536 * 2 ^ 48 + w / 2 ^ 24 % 2 ^ 24 * 2 ^ 24 else w + 1) ∧
  ∀ (s s1 : State) (n pa gen : Nat) (t : Team) (l : Launch), s.podTeam n = some (t, l) → t.live = true → t.podGen = some gen →
    s.podPA l = (some pa, s1) → s1.isLocal pa = true → s1.readPA pa 8 / 2 ^ 48 % 65536 ≠ gen →
    exec (.podBarrierRelease n) s = .next (((s1.groupsOf t).foldl (fun s e => s.setGroup e.1 (e.2.release 12)) s1).setTeam n { t with podGen := none })

end

section
open Sys2Proof Sys2Proof.Machine

/-! ### Events that stop work -/

/-- R267, R327, R328, R330, R340, R349, R405: the ladder's requests and timers, revocation and rescue, a save, a core's error, a tenant stop and a queue's reset begin, and the latency monitor clears its histograms. -/
def Obligations.StopsBeginAndEnd : Prop :=
  (∀ (s : State) (k : Nat) (l : Launch), s.launch k = some l → l.live = true →
    (l.ladder = none → exec (.stopRequest k) s = .next (s.setLaunch k { l with ladder := some .soft, stopAt := s.cycle })) ∧
    (l.ladder = some .soft → (l.runs.any fun x => x.st == .resident) = true → l.stopAt + Config.cyclesOfUs (s.part l.part).grace ≤ s.cycle →
      exec (.graceTimer k) s = .next (s.setLaunch k { l with ladder := some .halt })) ∧
    (l.ladder = some .halt → s.liveTeams k = [] → s.savedOf k = [] → l.stopAt + Config.cyclesOfUs (s.part l.part).kill ≤ s.cycle →
      exec (.killTimer k) s = .next (s.setLaunch k { l.killFault with ladder := some .kill }) ∧
      (l.faulted = none → l.killFault.faulted.map Prod.snd = some 0x1B) ∧ (l.faulted ≠ none → l.killFault = l))) ∧
  (∀ (s s1 : State) (n : Nat) (t : Team), s.team n = some t → t.live = true → s.rampFree = true → s.gangTeams n t = [(n, t)] → t.halting.isSome = true →
    (s.launch t.launch).bind Launch.ladder ≠ some .kill → s.podOpen n = false → (∀ x ∈ s.groupsOf t, s.groupStops x.1 x.2 = true) →
    let s0 := s.orphanGroups (s.groupsOf t)
    (∀ x ∈ s0.groupsOf t, x.2.orphanOwed = false) → s0.saveTeam n t = some s1 → exec (.instructionHalt n) s = .next s1) ∧
  (∀ (s : State) (core p q : Nat), (s.core core).lentTo = some q → s.ownerOf core = some p →
    ((s.core core).revoking = none → s.margin p < s.lentOut p →
      exec (.coreRevocation core) s = .next (s.setCore core { s.core core with revoking := some s.cycle })) ∧
    ((s.core core).revoking.isSome = true → s.teamsOn core = [] →
      ∃ t, exec (.coreRevocation core) s = .next t ∧ t.core core = { s.core core with lentTo := none, revoking := none } ∧
        t.icache = s.icache.filter (fun c => c.1 != core) ∧ t.tlb = s.tlb.filter (fun x => x.unit != .l1 core) ∧ t.mem = s.mem)) ∧
  (∀ (s : State) (part k n : Nat) (x : Saved) (l : Launch) (t : Team), k < s.saved.length → s.savedAt k = some x → x.team.rescue = true →
    x.at_ + 105000 ≤ s.cycle → s.launch x.team.launch = some l → l.part = part → (∀ m u, s.team m = some u → u.halting = none) →
    s.youngest part = some (n, t) → exec (.rescueTimeout part) s = .next (s.setTeam n { t with halting := some s.cycle })) ∧
  (∀ (s : State) (core : Nat), s.teamsOn core = [] →
    exec (.coreStateError core none) s = .next (s.setCore core { s.core core with out := true })) ∧
  (∀ (s : State) (core n : Nat) (t : Team), s.teamsOn core = [(n, t)] → t.safe = true → (s.nodeOf t).map NodeRec.rs = some true →
    exec (.coreStateError core none) s = .next ((s.discardTeam n t).rampTake.setCore core { s.core core with out := true })) ∧
  (∀ (s : State) (part : Nat), part < 16 → (s.part part).stopping = false → (s.anyLaunch fun l => l.part == part) = false →
    ∃ t, exec (.tenantStop part) s = .next t ∧ (t.part part).stopping = true ∧ t.mem = s.mem ∧ t.groups = s.groups) ∧
  (∀ (s : State) (part : Nat), part < 16 → (s.part part).stopping = true → (s.anyLaunch fun l => l.part == part) = false →
    s.remote = [] → s.outgoing = [] → (s.part part).wrote = [] → (s.part part).dirtyCap = 0 → s.boot.tdiNext = [] →
    ∃ t, exec (.tenantStop part) s = .next t ∧ (t.part part).stopping = false ∧ (t.part part).stopped = true ∧ t.msix = s.msix ++ [0] ∧ t.mem = s.mem ∧
      t.hostMem = (s.hostWrite (s.part part).stopStatus.toNat 8 1).hostMem) ∧
  (∀ (s : State) (q : Nat), q < 4096 → s.qFlag q 2 = false → (s.anyLaunch fun l => l.queue == q) = false →
    ∃ t, exec (.queueReset q) s = .next t ∧ t.mem = ((s.setQFlag q 2 true).setQFlag q 3 false).mem ∧ t.resetting = s.resetting ++ [q]) ∧
  (∀ (s : State) (q : Nat), q < 4096 → s.qFlag q 2 = true → (s.anyLaunch fun l => l.queue == q) = false → s.remote = [] → s.outgoing = [] →
    (s.part (s.qPart q)).wrote = [] →
    ∃ t, exec (.queueReset q) s = .next t ∧ t.mem = (s.setQword q 4 (bitsOf (s.qword q 4) 0 2 + 8)).mem ∧ t.msix = s.msix ++ [0] ∧
      t.resetting = s.resetting.filter fun r => r != q) ∧
  ∀ (s : State), s.monitorAt ≤ s.cycle →
    ∃ t, exec .latencyMonitor s = .next t ∧ t.monitorAt = s.monitorAt + 2 ^ 20 ∧
      ∀ k, k < 64 → (s.qslot k).queue ≠ none → (t.qslot k).hist = [] ∧ (t.qslot k).last = (s.qslot k).hist

/-- R356, R360, R362, R365, R367: a commit whose epoch and step match writes its data and makes its step the block's; one that only its step misses is stalled; an orphan request sets ORPH; a holder that returns in time clears it and goes on; a HENTER asleep wakes when
the lock is free; a dead context's key leaves the slots of the blocks, makes a lock that it held an orphan, and ends an adoption of its. -/
def Obligations.HuskUnitsAnswer : Prop :=
  (∀ (s s1 : State) (n lock pa : Nat) (g : Group) (h : Husk) (q : Commit), s.Inv → s.group n = some g → g.husk = some h → h.commit = some q →
    s.huskReach g h.lock = (some lock, s1) → lock % 256 = 0 → q.pa = some pa → lkEpoch (s1.lockWord lock 0) = q.epoch.toNat →
    (q.step = lkStep (s1.lockWord lock 0) + 1 → q.step < 32 → q.vals.length ≤ 8 → q.bytes ≤ 8 → (∀ b, b < q.bytes → paLocal pa + b < paLocal lock ∨ paLocal lock + 256 ≤ paLocal pa + b) →
      ∃ t, exec (.huskCommit n) s = .next t ∧ t.readPA pa q.bytes = q.data % 2 ^ (8 * q.bytes) ∧ lkStep (t.lockWord lock 0) = q.step ∧
        t.lockWord lock 2 = q.cpc.toNat ∧ t.group n = some { g with husk := some { h with commit := none, step := q.step } }) ∧
    (q.step = lkStep (s1.lockWord lock 0) →
      exec (.huskCommit n) s = .next (s1.setGroup n { g with husk := some { h with commit := none, step := q.step } })) ∧
    (q.step ≠ lkStep (s1.lockWord lock 0) → q.step ≠ lkStep (s1.lockWord lock 0) + 1 →
      exec (.huskCommit n) s = .next (s1.setGroup n { g with husk := some { h with commit := none, waitd := true } }))) ∧
  (∀ (s : State) (n pa : Nat) (g : Group) (slot : SlotId), s.group n = some g → g.asleep = some (.henter slot) → s.henterLock g slot = some pa →
    s.lockFate pa (s.asidOf g) = .free → exec (.henterWake n) s = .next (s.setGroup n { g with asleep := none })) ∧
  (∀ (s s1 : State) (n pa : Nat) (g : Group) (h : Husk), s.group n = some g → g.husk = some h → s.huskReach g h.lock = (some pa, s1) →
    let w := s1.lockWord pa 0
    (h.desched = true → h.orphd = false → h.waitd = false → lkHeld w = true → s1.lockWord pa 1 = g.key.toNat →
      exec (.huskOrphanRequest n) s = .next ((s1.setLockWord pa 0 (lkHead (lkEpoch w) (lkStep w) true true (lkAdopting w))).setGroup n
        { g with husk := some { h with orphd := true, desched := false } })) ∧
    (h.orphd = true → h.adopt = false → s.logOverdue g = false → h.commit = none → g.deferred = none → s1.lockWord pa 1 = g.key.toNat →
      lkEpoch w = h.epoch.toNat → lkOrph w = true →
      exec (.holderReturn n) s = .next ((s1.setLockWord pa 0 (lkHead (lkEpoch w) (lkStep w) (lkHeld w) false (lkAdopting w))).setGroup n
        { g with husk := some { h with orphd := false, waitd := false, desched := false } }))) ∧
  ∀ (s : State) (key : DWord), s.keyLive key.toNat = false → key ≠ 0 →
    (∀ t, t = s.huskLocks.foldl (fun s pa => s.purgeBlock key.toNat pa) s → exec (.huskPurge key) s = .next { t with purged := addNat t.purged key.toNat }) ∧
    ∀ pa, s.Inv → pa % 256 = 0 → let t := s.purgeBlock key.toNat pa
      (∀ j, j < 4 → t.slotKey pa j = if s.slotKey pa j = key.toNat then 0 else s.slotKey pa j) ∧
      (s.lockWord pa 1 = key.toNat → t.lockWord pa 1 = key.toNat ∧ lkOrph (t.lockWord pa 0) = true) ∧
      (s.lockWord pa 14 = key.toNat → t.lockWord pa 14 = 0 ∧ lkAdopting (t.lockWord pa 0) = false ∧ lkOrph (t.lockWord pa 0) = true)

end

section
open Sys2Proof Sys2Proof.Machine

/-! ### Events of the host and of the device -/

/-- R53, R399, R400, R425, R426: a command register not busy takes its command, and one that is busy only sets OVR; FABCMD reads and writes routes or sets ERR; an invalidation drops its translations and clears BUSY; partition, quality and fault-ring registers take the value
of their writable bits, and the driver's answers end their faults. -/
def Obligations.HostCommandsTakeEffect : Prop :=
  ∀ (s : State) (val : DWord),
    (s.regs.invcmd.getLsbD 63 = false → exec (.invcmd val) s = .next { s with regs := { s.regs with
      invcmd := (val &&& 0x00000FFFFFFFFFFF) ||| 0x8000000000000000 ||| (if val.getLsbD 62 then 0 else s.regs.invcmd &&& 0x4000000000000000), invnow := s.regs.invaddr } }) ∧
    (s.regs.invcmd.getLsbD 63 = true → exec (.invcmd val) s = .next { s with regs := { s.regs with invcmd := s.regs.invcmd ||| 0x4000000000000000 } }) ∧
    (s.regs.invcmd.getLsbD 63 = true → s.accessesOpen (bitsOf s.regs.invcmd.toNat 32 12) = false →
      exec .invalidationComplete s = .next { s.invalidate (bitsOf s.regs.invcmd.toNat 32 12) (bitsOf s.regs.invnow.toNat 16 35) (bitsOf s.regs.invcmd.toNat 0 32) with
        regs := { s.regs with invcmd := s.regs.invcmd &&& 0x7FFFFFFFFFFFFFFF } }) ∧
    (∀ part, part < 16 → s.tdiFixes part = false → (s.part part).cfg.getLsbD 63 = false → (s.part part).cfgNext = none →
      (s.quadsTaken part (s.part part).quads = false →
        (s.partBusy part = false → exec (.partcfg part val) s = .next (s.setPart part { s.part part with
          cfg := val &&& 0xFFBFFF8000000000, stopped := (s.part part).stopped && !val.getLsbD 63 })) ∧
        (s.partBusy part = true → exec (.partcfg part val) s = .next (s.setPart part { s.part part with cfgNext := some (val &&& 0xFFBFFF8000000000) }))) ∧
      (s.quadsTaken part val = false → exec (.partquads part val) s = .next (s.setPart part { s.part part with quads := val }))) ∧
    (s.regs.fabcmd.getLsbD 63 = true → ∀ i ∈ [Instr.retrain val, .routewr val, .routerd val, .fabcmd val],
      exec i s = .next { s with regs := { s.regs with fabcmd := s.regs.fabcmd ||| 0x4000000000000000 } }) ∧
    (s.regs.fabcmd.getLsbD 63 = false → val.getLsbD 62 = true →
      (∀ port, bitsOf val.toNat 0 4 = 1 → bitsOf val.toNat 8 5 = port → port ≤ 17 → (s.port port).down = true →
        exec (.retrain val) s = .next { s.setPort port { s.port port with retraining := true } with
          regs := { s.regs with fabcmd := (val &&& 0x01FF1F0F) ||| 0x8000000000000000, fabnow := s.regs.fabdata } }) ∧
      (bitsOf val.toNat 0 4 = 2 → routeOk s.regs.fabdata = true →
        exec (.routewr val) s = .next { s with regs := { s.regs with
          fabcmd := (val &&& 0x01FF1F0F) ||| 0x8000000000000000, fabnow := s.regs.fabdata } }) ∧
      (bitsOf val.toNat 0 4 = 3 → exec (.routerd val) s = .next { s with regs := { s.regs with
        fabdata := s.route (bitsOf val.toNat 16 9), fabcmd := val &&& 0x01FF1F0F, fabnow := s.regs.fabdata } }) ∧
      (bitsOf val.toNat 0 4 ∉ [1, 2, 3] → exec (.fabcmd val) s = .next { s with regs := { s.regs with
        fabcmd := (val &&& 0x01FF1F0F) ||| 0x2000000000000000, fabnow := s.regs.fabdata } })) ∧
    exec (.qosp50 val) s = .next { s with regs := { s.regs with qosp50 := s.regs.qosp50 &&& ~~~val } } ∧
    exec (.qosp99 val) s = .next { s with regs := { s.regs with qosp99 := s.regs.qosp99 &&& ~~~val } } ∧
    (∀ x : Word, exec (.orphth x) s = .next { s with regs := { s.regs with orphth := x } }) ∧
    (∀ part f, s.answered part val = some f →
      (bitsOf val.toNat 0 2 = 1 → exec (.fltrespReplay part val) s = .next { s with
        faults := s.faults.filter fun x => !(x.asid == f.asid && x.page == f.page) }) ∧
      (bitsOf val.toNat 0 2 = 2 → exec (.fltrespUnresolvable part val) s = .next (s.unresolvable f.asid f.page))) ∧
    ∀ part, part < 16 →
      ((s.part part).ringOn = false → exec (.fltcfg part val) s = .next (s.setPart part { s.part part with
        fltcfg := (val &&& 0x8000000007FF0000) ||| (val &&& 0xFFFF), fltNext := if val.getLsbD 63 then 0 else (s.part part).fltNext })) ∧
      ((s.part part).ringOn = false → exec (.fltbase part val) s = .next (s.setPart part { s.part part with fltbase := val &&& 0x003FFFFFFFFFFFC0 })) ∧
      (s.faults = [] → exec (.fltcons part val) s = .next (s.setPart part { s.part part with fltcons := val }))

/-- R4, R10, R50, R397, R402, R404, R405: plain registers keep their writable bits; a reset with a good image in flash ends in state 2 with the counters of its kind, and with a bad one in recovery; a recovery image that passes is run; a request is answered once; a
transition to LOCKED or RUN takes place at once; a port that fails has no memory behind it; a plate sensor lowers the ramp. -/
def Obligations.DeviceEventsTakeEffect : Prop :=
  (∀ (s : State) (val : DWord),
    exec (.registerWrite 0x1000 val) s = .next { s with regs := { s.regs with astbase := val &&& 0x003FFFFFFFFFF000 } } ∧
    exec (.registerWrite 0x1008 val) s = .next { s with regs := { s.regs with invaddr := val &&& 0x0007FFFFFFFF0000 } } ∧
    exec (.registerWrite 0x3010 val) s = .next { s with regs := { s.regs with fabdata := val } } ∧
    exec (.registerWrite 0x3020 val) s = .next { s with regs := { s.regs with qoscfg := val &&& 0x80000000000007FF } } ∧
    ∀ part, part < 16 →
      (1 ≤ val.toNat % 2 ^ 32 → val.toNat % 2 ^ 32 < val.toNat / 2 ^ 32 → val.toNat / 2 ^ 32 ≤ 10000 →
        exec (.registerWrite (0x10008 + 4096 * part) val) s = .next (s.setPart part { s.part part with
          grace := val.toNat % 2 ^ 32, kill := val.toNat / 2 ^ 32 })) ∧
      exec (.registerWrite (0x10010 + 4096 * part) val) s = .next (s.setPart part { s.part part with saveBase := val, kept := [] })) ∧
  (∀ s : State, (s.imageOk s.boot.flash = true → ∃ t, exec .powerOnReset s = .next t ∧ t.boot.state = 2 ∧ t.cycle = 0 ∧ t.mem = [] ∧ t.groups = [] ∧
      (∀ k, k < 18 → (t.port k).up = true)) ∧
    (s.imageOk s.boot.flash = false → ∃ t, exec .powerOnReset s = .next t ∧ t.boot.state = 3 ∧ t.groups = []) ∧
    (s.imageOk s.boot.flash = true → ∃ t, exec .hostSideReset s = .next t ∧ t.boot.state = 2 ∧ t.cycle = s.cycle ∧ t.mem = s.mem ∧ t.groups = [])) ∧
  (∀ (s : State) (len : DWord), s.boot.state = 3 → let image := (List.range len.toNat).map fun k => Tbl.get 0 s.boot.window k
    let s1 := { s with regs := { s.regs with recov := len } }
    (s.imageOk image = true → exec (.recov len) s = .next (s1.bringUp image)) ∧
    (s.imageOk image = false → exec (.recov len) s = .next { s1 with boot := { s1.boot with state := 5 } })) ∧
  (∀ (s : State) (req : List Byte), s.boot.state = 2 → ∃ a k, exec (.spdmRequest req) s = .next { s with boot := { s.boot with answers := s.boot.answers ++ [a], ideKeys := k } }) ∧
  (∀ (s : State) (vf : Nat) (st : TdiState), 0 < vf → vf < 256 → st = .locked ∨ st = .run →
    ∃ t, exec (.tdispTransition vf st) s = .next t ∧ t.tdi vf = st ∧ t = { s with boot := { s.boot with tdi := t.boot.tdi } }) ∧
  (∀ (s : State) (port la : Nat), port < 8 →
    ∃ t, exec (.cxlPortFailure port) s = .next t ∧ t = { s with cxlBacked := t.cxlBacked, tlb := t.tlb, walks := t.walks } ∧
      (Config.dramBytes ≤ la → cxlPort la = port → Config.cxlBase ≤ la → t.backed la = false)) ∧
  ∀ s : State, ∃ t, exec .plateSensorLimit s = .next t ∧ t.hostEvents = s.hostEvents ++ [1] ∧ (1 < s.regs.ramp → 1 ≤ t.regs.ramp ∧ t.regs.ramp < s.regs.ramp)

end
end

