-- ==== Sys2Proof/Laws/State.lean ====
section
/-! SUPPORT. What each update of the state and of a group leaves alone: one lemma for a field and an update. -/

namespace Sys2Proof.Machine

/-! ### State.setGroup -/

@[simp] theorem State.mem_setGroup (s : State) (n : Nat) (g : Group) : (s.setGroup n g).mem = s.mem := rfl
@[simp] theorem State.memPoison_setGroup (s : State) (n : Nat) (g : Group) : (s.setGroup n g).memPoison = s.memPoison := rfl
@[simp] theorem State.hostMem_setGroup (s : State) (n : Nat) (g : Group) : (s.setGroup n g).hostMem = s.hostMem := rfl
@[simp] theorem State.pkgId_setGroup (s : State) (n : Nat) (g : Group) : (s.setGroup n g).pkgId = s.pkgId := rfl
@[simp] theorem State.cycle_setGroup (s : State) (n : Nat) (g : Group) : (s.setGroup n g).cycle = s.cycle := rfl
@[simp] theorem State.heartbeats_setGroup (s : State) (n : Nat) (g : Group) : (s.setGroup n g).heartbeats = s.heartbeats := rfl
@[simp] theorem State.ticks_setGroup (s : State) (n : Nat) (g : Group) : (s.setGroup n g).ticks = s.ticks := rfl
@[simp] theorem State.turn_setGroup (s : State) (n : Nat) (g : Group) : (s.setGroup n g).turn = s.turn := rfl
@[simp] theorem State.fill_setGroup (s : State) (n : Nat) (g : Group) : (s.setGroup n g).fill = s.fill := rfl
@[simp] theorem State.inbox_setGroup (s : State) (n : Nat) (g : Group) : (s.setGroup n g).inbox = s.inbox := rfl
@[simp] theorem State.cur_setGroup (s : State) (n : Nat) (g : Group) : (s.setGroup n g).cur = s.cur := rfl
@[simp] theorem State.chain_setGroup (s : State) (n : Nat) (g : Group) : (s.setGroup n g).chain = s.chain := rfl
@[simp] theorem State.teams_setGroup (s : State) (n : Nat) (g : Group) : (s.setGroup n g).teams = s.teams := rfl
@[simp] theorem State.launches_setGroup (s : State) (n : Nat) (g : Group) : (s.setGroup n g).launches = s.launches := rfl
@[simp] theorem State.saved_setGroup (s : State) (n : Nat) (g : Group) : (s.setGroup n g).saved = s.saved := rfl
@[simp] theorem State.cores_setGroup (s : State) (n : Nat) (g : Group) : (s.setGroup n g).cores = s.cores := rfl
@[simp] theorem State.copies_setGroup (s : State) (n : Nat) (g : Group) : (s.setGroup n g).copies = s.copies := rfl
@[simp] theorem State.tlb_setGroup (s : State) (n : Nat) (g : Group) : (s.setGroup n g).tlb = s.tlb := rfl
@[simp] theorem State.icache_setGroup (s : State) (n : Nat) (g : Group) : (s.setGroup n g).icache = s.icache := rfl
@[simp] theorem State.walks_setGroup (s : State) (n : Nat) (g : Group) : (s.setGroup n g).walks = s.walks := rfl
@[simp] theorem State.faults_setGroup (s : State) (n : Nat) (g : Group) : (s.setGroup n g).faults = s.faults := rfl
@[simp] theorem State.sheafLog_setGroup (s : State) (n : Nat) (g : Group) : (s.setGroup n g).sheafLog = s.sheafLog := rfl
@[simp] theorem State.msix_setGroup (s : State) (n : Nat) (g : Group) : (s.setGroup n g).msix = s.msix := rfl
@[simp] theorem State.cxlBacked_setGroup (s : State) (n : Nat) (g : Group) : (s.setGroup n g).cxlBacked = s.cxlBacked := rfl
@[simp] theorem State.queues_setGroup (s : State) (n : Nat) (g : Group) : (s.setGroup n g).queues = s.queues := rfl
@[simp] theorem State.qcbBase_setGroup (s : State) (n : Nat) (g : Group) : (s.setGroup n g).qcbBase = s.qcbBase := rfl
@[simp] theorem State.qslots_setGroup (s : State) (n : Nat) (g : Group) : (s.setGroup n g).qslots = s.qslots := rfl
@[simp] theorem State.parts_setGroup (s : State) (n : Nat) (g : Group) : (s.setGroup n g).parts = s.parts := rfl
@[simp] theorem State.regs_setGroup (s : State) (n : Nat) (g : Group) : (s.setGroup n g).regs = s.regs := rfl
@[simp] theorem State.boot_setGroup (s : State) (n : Nat) (g : Group) : (s.setGroup n g).boot = s.boot := rfl
@[simp] theorem State.ports_setGroup (s : State) (n : Nat) (g : Group) : (s.setGroup n g).ports = s.ports := rfl
@[simp] theorem State.routes_setGroup (s : State) (n : Nat) (g : Group) : (s.setGroup n g).routes = s.routes := rfl
@[simp] theorem State.remote_setGroup (s : State) (n : Nat) (g : Group) : (s.setGroup n g).remote = s.remote := rfl
@[simp] theorem State.drains_setGroup (s : State) (n : Nat) (g : Group) : (s.setGroup n g).drains = s.drains := rfl
@[simp] theorem State.chunks_setGroup (s : State) (n : Nat) (g : Group) : (s.setGroup n g).chunks = s.chunks := rfl
@[simp] theorem State.nextTag_setGroup (s : State) (n : Nat) (g : Group) : (s.setGroup n g).nextTag = s.nextTag := rfl
@[simp] theorem State.nextSerial_setGroup (s : State) (n : Nat) (g : Group) : (s.setGroup n g).nextSerial = s.nextSerial := rfl
@[simp] theorem State.nextKey_setGroup (s : State) (n : Nat) (g : Group) : (s.setGroup n g).nextKey = s.nextKey := rfl
@[simp] theorem State.rampTimes_setGroup (s : State) (n : Nat) (g : Group) : (s.setGroup n g).rampTimes = s.rampTimes := rfl
@[simp] theorem State.monitorAt_setGroup (s : State) (n : Nat) (g : Group) : (s.setGroup n g).monitorAt = s.monitorAt := rfl
@[simp] theorem State.corrected_setGroup (s : State) (n : Nat) (g : Group) : (s.setGroup n g).corrected = s.corrected := rfl
@[simp] theorem State.huskLocks_setGroup (s : State) (n : Nat) (g : Group) : (s.setGroup n g).huskLocks = s.huskLocks := rfl
@[simp] theorem State.hostEvents_setGroup (s : State) (n : Nat) (g : Group) : (s.setGroup n g).hostEvents = s.hostEvents := rfl
@[simp] theorem State.resetting_setGroup (s : State) (n : Nat) (g : Group) : (s.setGroup n g).resetting = s.resetting := rfl
@[simp] theorem State.migrating_setGroup (s : State) (n : Nat) (g : Group) : (s.setGroup n g).migrating = s.migrating := rfl
@[simp] theorem State.l1_setGroup (s : State) (n : Nat) (g : Group) : (s.setGroup n g).l1 = s.l1 := rfl
@[simp] theorem State.held_setGroup (s : State) (n : Nat) (g : Group) : (s.setGroup n g).held = s.held := rfl
@[simp] theorem State.hubHeard_setGroup (s : State) (n : Nat) (g : Group) : (s.setGroup n g).hubHeard = s.hubHeard := rfl
@[simp] theorem State.outgoing_setGroup (s : State) (n : Nat) (g : Group) : (s.setGroup n g).outgoing = s.outgoing := rfl
@[simp] theorem State.purged_setGroup (s : State) (n : Nat) (g : Group) : (s.setGroup n g).purged = s.purged := rfl
@[simp] theorem State.posted_setGroup (s : State) (n : Nat) (g : Group) : (s.setGroup n g).posted = s.posted := rfl
@[simp] theorem State.hostReads_setGroup (s : State) (n : Nat) (g : Group) : (s.setGroup n g).hostReads = s.hostReads := rfl

/-! ### State.setTeam -/

@[simp] theorem State.mem_setTeam (s : State) (n : Nat) (t : Team) : (s.setTeam n t).mem = s.mem := rfl
@[simp] theorem State.memPoison_setTeam (s : State) (n : Nat) (t : Team) : (s.setTeam n t).memPoison = s.memPoison := rfl
@[simp] theorem State.hostMem_setTeam (s : State) (n : Nat) (t : Team) : (s.setTeam n t).hostMem = s.hostMem := rfl
@[simp] theorem State.pkgId_setTeam (s : State) (n : Nat) (t : Team) : (s.setTeam n t).pkgId = s.pkgId := rfl
@[simp] theorem State.cycle_setTeam (s : State) (n : Nat) (t : Team) : (s.setTeam n t).cycle = s.cycle := rfl
@[simp] theorem State.heartbeats_setTeam (s : State) (n : Nat) (t : Team) : (s.setTeam n t).heartbeats = s.heartbeats := rfl
@[simp] theorem State.ticks_setTeam (s : State) (n : Nat) (t : Team) : (s.setTeam n t).ticks = s.ticks := rfl
@[simp] theorem State.turn_setTeam (s : State) (n : Nat) (t : Team) : (s.setTeam n t).turn = s.turn := rfl
@[simp] theorem State.fill_setTeam (s : State) (n : Nat) (t : Team) : (s.setTeam n t).fill = s.fill := rfl
@[simp] theorem State.inbox_setTeam (s : State) (n : Nat) (t : Team) : (s.setTeam n t).inbox = s.inbox := rfl
@[simp] theorem State.cur_setTeam (s : State) (n : Nat) (t : Team) : (s.setTeam n t).cur = s.cur := rfl
@[simp] theorem State.chain_setTeam (s : State) (n : Nat) (t : Team) : (s.setTeam n t).chain = s.chain := rfl
@[simp] theorem State.groups_setTeam (s : State) (n : Nat) (t : Team) : (s.setTeam n t).groups = s.groups := rfl
@[simp] theorem State.launches_setTeam (s : State) (n : Nat) (t : Team) : (s.setTeam n t).launches = s.launches := rfl
@[simp] theorem State.saved_setTeam (s : State) (n : Nat) (t : Team) : (s.setTeam n t).saved = s.saved := rfl
@[simp] theorem State.cores_setTeam (s : State) (n : Nat) (t : Team) : (s.setTeam n t).cores = s.cores := rfl
@[simp] theorem State.copies_setTeam (s : State) (n : Nat) (t : Team) : (s.setTeam n t).copies = s.copies := rfl
@[simp] theorem State.tlb_setTeam (s : State) (n : Nat) (t : Team) : (s.setTeam n t).tlb = s.tlb := rfl
@[simp] theorem State.icache_setTeam (s : State) (n : Nat) (t : Team) : (s.setTeam n t).icache = s.icache := rfl
@[simp] theorem State.walks_setTeam (s : State) (n : Nat) (t : Team) : (s.setTeam n t).walks = s.walks := rfl
@[simp] theorem State.faults_setTeam (s : State) (n : Nat) (t : Team) : (s.setTeam n t).faults = s.faults := rfl
@[simp] theorem State.sheafLog_setTeam (s : State) (n : Nat) (t : Team) : (s.setTeam n t).sheafLog = s.sheafLog := rfl
@[simp] theorem State.msix_setTeam (s : State) (n : Nat) (t : Team) : (s.setTeam n t).msix = s.msix := rfl
@[simp] theorem State.cxlBacked_setTeam (s : State) (n : Nat) (t : Team) : (s.setTeam n t).cxlBacked = s.cxlBacked := rfl
@[simp] theorem State.queues_setTeam (s : State) (n : Nat) (t : Team) : (s.setTeam n t).queues = s.queues := rfl
@[simp] theorem State.qcbBase_setTeam (s : State) (n : Nat) (t : Team) : (s.setTeam n t).qcbBase = s.qcbBase := rfl
@[simp] theorem State.qslots_setTeam (s : State) (n : Nat) (t : Team) : (s.setTeam n t).qslots = s.qslots := rfl
@[simp] theorem State.parts_setTeam (s : State) (n : Nat) (t : Team) : (s.setTeam n t).parts = s.parts := rfl
@[simp] theorem State.regs_setTeam (s : State) (n : Nat) (t : Team) : (s.setTeam n t).regs = s.regs := rfl
@[simp] theorem State.boot_setTeam (s : State) (n : Nat) (t : Team) : (s.setTeam n t).boot = s.boot := rfl
@[simp] theorem State.ports_setTeam (s : State) (n : Nat) (t : Team) : (s.setTeam n t).ports = s.ports := rfl
@[simp] theorem State.routes_setTeam (s : State) (n : Nat) (t : Team) : (s.setTeam n t).routes = s.routes := rfl
@[simp] theorem State.remote_setTeam (s : State) (n : Nat) (t : Team) : (s.setTeam n t).remote = s.remote := rfl
@[simp] theorem State.drains_setTeam (s : State) (n : Nat) (t : Team) : (s.setTeam n t).drains = s.drains := rfl
@[simp] theorem State.chunks_setTeam (s : State) (n : Nat) (t : Team) : (s.setTeam n t).chunks = s.chunks := rfl
@[simp] theorem State.nextTag_setTeam (s : State) (n : Nat) (t : Team) : (s.setTeam n t).nextTag = s.nextTag := rfl
@[simp] theorem State.nextSerial_setTeam (s : State) (n : Nat) (t : Team) : (s.setTeam n t).nextSerial = s.nextSerial := rfl
@[simp] theorem State.nextKey_setTeam (s : State) (n : Nat) (t : Team) : (s.setTeam n t).nextKey = s.nextKey := rfl
@[simp] theorem State.rampTimes_setTeam (s : State) (n : Nat) (t : Team) : (s.setTeam n t).rampTimes = s.rampTimes := rfl
@[simp] theorem State.monitorAt_setTeam (s : State) (n : Nat) (t : Team) : (s.setTeam n t).monitorAt = s.monitorAt := rfl
@[simp] theorem State.corrected_setTeam (s : State) (n : Nat) (t : Team) : (s.setTeam n t).corrected = s.corrected := rfl
@[simp] theorem State.huskLocks_setTeam (s : State) (n : Nat) (t : Team) : (s.setTeam n t).huskLocks = s.huskLocks := rfl
@[simp] theorem State.hostEvents_setTeam (s : State) (n : Nat) (t : Team) : (s.setTeam n t).hostEvents = s.hostEvents := rfl
@[simp] theorem State.resetting_setTeam (s : State) (n : Nat) (t : Team) : (s.setTeam n t).resetting = s.resetting := rfl
@[simp] theorem State.migrating_setTeam (s : State) (n : Nat) (t : Team) : (s.setTeam n t).migrating = s.migrating := rfl
@[simp] theorem State.l1_setTeam (s : State) (n : Nat) (t : Team) : (s.setTeam n t).l1 = s.l1 := rfl
@[simp] theorem State.held_setTeam (s : State) (n : Nat) (t : Team) : (s.setTeam n t).held = s.held := rfl
@[simp] theorem State.hubHeard_setTeam (s : State) (n : Nat) (t : Team) : (s.setTeam n t).hubHeard = s.hubHeard := rfl
@[simp] theorem State.outgoing_setTeam (s : State) (n : Nat) (t : Team) : (s.setTeam n t).outgoing = s.outgoing := rfl
@[simp] theorem State.purged_setTeam (s : State) (n : Nat) (t : Team) : (s.setTeam n t).purged = s.purged := rfl
@[simp] theorem State.posted_setTeam (s : State) (n : Nat) (t : Team) : (s.setTeam n t).posted = s.posted := rfl
@[simp] theorem State.hostReads_setTeam (s : State) (n : Nat) (t : Team) : (s.setTeam n t).hostReads = s.hostReads := rfl

/-! ### State.setLaunch -/

@[simp] theorem State.mem_setLaunch (s : State) (n : Nat) (l : Launch) : (s.setLaunch n l).mem = s.mem := rfl
@[simp] theorem State.memPoison_setLaunch (s : State) (n : Nat) (l : Launch) : (s.setLaunch n l).memPoison = s.memPoison := rfl
@[simp] theorem State.hostMem_setLaunch (s : State) (n : Nat) (l : Launch) : (s.setLaunch n l).hostMem = s.hostMem := rfl
@[simp] theorem State.pkgId_setLaunch (s : State) (n : Nat) (l : Launch) : (s.setLaunch n l).pkgId = s.pkgId := rfl
@[simp] theorem State.cycle_setLaunch (s : State) (n : Nat) (l : Launch) : (s.setLaunch n l).cycle = s.cycle := rfl
@[simp] theorem State.heartbeats_setLaunch (s : State) (n : Nat) (l : Launch) : (s.setLaunch n l).heartbeats = s.heartbeats := rfl
@[simp] theorem State.ticks_setLaunch (s : State) (n : Nat) (l : Launch) : (s.setLaunch n l).ticks = s.ticks := rfl
@[simp] theorem State.turn_setLaunch (s : State) (n : Nat) (l : Launch) : (s.setLaunch n l).turn = s.turn := rfl
@[simp] theorem State.fill_setLaunch (s : State) (n : Nat) (l : Launch) : (s.setLaunch n l).fill = s.fill := rfl
@[simp] theorem State.inbox_setLaunch (s : State) (n : Nat) (l : Launch) : (s.setLaunch n l).inbox = s.inbox := rfl
@[simp] theorem State.cur_setLaunch (s : State) (n : Nat) (l : Launch) : (s.setLaunch n l).cur = s.cur := rfl
@[simp] theorem State.chain_setLaunch (s : State) (n : Nat) (l : Launch) : (s.setLaunch n l).chain = s.chain := rfl
@[simp] theorem State.groups_setLaunch (s : State) (n : Nat) (l : Launch) : (s.setLaunch n l).groups = s.groups := rfl
@[simp] theorem State.teams_setLaunch (s : State) (n : Nat) (l : Launch) : (s.setLaunch n l).teams = s.teams := rfl
@[simp] theorem State.saved_setLaunch (s : State) (n : Nat) (l : Launch) : (s.setLaunch n l).saved = s.saved := rfl
@[simp] theorem State.cores_setLaunch (s : State) (n : Nat) (l : Launch) : (s.setLaunch n l).cores = s.cores := rfl
@[simp] theorem State.copies_setLaunch (s : State) (n : Nat) (l : Launch) : (s.setLaunch n l).copies = s.copies := rfl
@[simp] theorem State.tlb_setLaunch (s : State) (n : Nat) (l : Launch) : (s.setLaunch n l).tlb = s.tlb := rfl
@[simp] theorem State.icache_setLaunch (s : State) (n : Nat) (l : Launch) : (s.setLaunch n l).icache = s.icache := rfl
@[simp] theorem State.walks_setLaunch (s : State) (n : Nat) (l : Launch) : (s.setLaunch n l).walks = s.walks := rfl
@[simp] theorem State.faults_setLaunch (s : State) (n : Nat) (l : Launch) : (s.setLaunch n l).faults = s.faults := rfl
@[simp] theorem State.sheafLog_setLaunch (s : State) (n : Nat) (l : Launch) : (s.setLaunch n l).sheafLog = s.sheafLog := rfl
@[simp] theorem State.msix_setLaunch (s : State) (n : Nat) (l : Launch) : (s.setLaunch n l).msix = s.msix := rfl
@[simp] theorem State.cxlBacked_setLaunch (s : State) (n : Nat) (l : Launch) : (s.setLaunch n l).cxlBacked = s.cxlBacked := rfl
@[simp] theorem State.queues_setLaunch (s : State) (n : Nat) (l : Launch) : (s.setLaunch n l).queues = s.queues := rfl
@[simp] theorem State.qcbBase_setLaunch (s : State) (n : Nat) (l : Launch) : (s.setLaunch n l).qcbBase = s.qcbBase := rfl
@[simp] theorem State.qslots_setLaunch (s : State) (n : Nat) (l : Launch) : (s.setLaunch n l).qslots = s.qslots := rfl
@[simp] theorem State.parts_setLaunch (s : State) (n : Nat) (l : Launch) : (s.setLaunch n l).parts = s.parts := rfl
@[simp] theorem State.regs_setLaunch (s : State) (n : Nat) (l : Launch) : (s.setLaunch n l).regs = s.regs := rfl
@[simp] theorem State.boot_setLaunch (s : State) (n : Nat) (l : Launch) : (s.setLaunch n l).boot = s.boot := rfl
@[simp] theorem State.ports_setLaunch (s : State) (n : Nat) (l : Launch) : (s.setLaunch n l).ports = s.ports := rfl
@[simp] theorem State.routes_setLaunch (s : State) (n : Nat) (l : Launch) : (s.setLaunch n l).routes = s.routes := rfl
@[simp] theorem State.remote_setLaunch (s : State) (n : Nat) (l : Launch) : (s.setLaunch n l).remote = s.remote := rfl
@[simp] theorem State.drains_setLaunch (s : State) (n : Nat) (l : Launch) : (s.setLaunch n l).drains = s.drains := rfl
@[simp] theorem State.chunks_setLaunch (s : State) (n : Nat) (l : Launch) : (s.setLaunch n l).chunks = s.chunks := rfl
@[simp] theorem State.nextTag_setLaunch (s : State) (n : Nat) (l : Launch) : (s.setLaunch n l).nextTag = s.nextTag := rfl
@[simp] theorem State.nextSerial_setLaunch (s : State) (n : Nat) (l : Launch) : (s.setLaunch n l).nextSerial = s.nextSerial := rfl
@[simp] theorem State.nextKey_setLaunch (s : State) (n : Nat) (l : Launch) : (s.setLaunch n l).nextKey = s.nextKey := rfl
@[simp] theorem State.rampTimes_setLaunch (s : State) (n : Nat) (l : Launch) : (s.setLaunch n l).rampTimes = s.rampTimes := rfl
@[simp] theorem State.monitorAt_setLaunch (s : State) (n : Nat) (l : Launch) : (s.setLaunch n l).monitorAt = s.monitorAt := rfl
@[simp] theorem State.corrected_setLaunch (s : State) (n : Nat) (l : Launch) : (s.setLaunch n l).corrected = s.corrected := rfl
@[simp] theorem State.huskLocks_setLaunch (s : State) (n : Nat) (l : Launch) : (s.setLaunch n l).huskLocks = s.huskLocks := rfl
@[simp] theorem State.hostEvents_setLaunch (s : State) (n : Nat) (l : Launch) : (s.setLaunch n l).hostEvents = s.hostEvents := rfl
@[simp] theorem State.resetting_setLaunch (s : State) (n : Nat) (l : Launch) : (s.setLaunch n l).resetting = s.resetting := rfl
@[simp] theorem State.migrating_setLaunch (s : State) (n : Nat) (l : Launch) : (s.setLaunch n l).migrating = s.migrating := rfl
@[simp] theorem State.l1_setLaunch (s : State) (n : Nat) (l : Launch) : (s.setLaunch n l).l1 = s.l1 := rfl
@[simp] theorem State.held_setLaunch (s : State) (n : Nat) (l : Launch) : (s.setLaunch n l).held = s.held := rfl
@[simp] theorem State.hubHeard_setLaunch (s : State) (n : Nat) (l : Launch) : (s.setLaunch n l).hubHeard = s.hubHeard := rfl
@[simp] theorem State.outgoing_setLaunch (s : State) (n : Nat) (l : Launch) : (s.setLaunch n l).outgoing = s.outgoing := rfl
@[simp] theorem State.purged_setLaunch (s : State) (n : Nat) (l : Launch) : (s.setLaunch n l).purged = s.purged := rfl
@[simp] theorem State.posted_setLaunch (s : State) (n : Nat) (l : Launch) : (s.setLaunch n l).posted = s.posted := rfl
@[simp] theorem State.hostReads_setLaunch (s : State) (n : Nat) (l : Launch) : (s.setLaunch n l).hostReads = s.hostReads := rfl

/-! ### State.setPart -/

@[simp] theorem State.mem_setPart (s : State) (n : Nat) (p : Part) : (s.setPart n p).mem = s.mem := rfl
@[simp] theorem State.memPoison_setPart (s : State) (n : Nat) (p : Part) : (s.setPart n p).memPoison = s.memPoison := rfl
@[simp] theorem State.hostMem_setPart (s : State) (n : Nat) (p : Part) : (s.setPart n p).hostMem = s.hostMem := rfl
@[simp] theorem State.pkgId_setPart (s : State) (n : Nat) (p : Part) : (s.setPart n p).pkgId = s.pkgId := rfl
@[simp] theorem State.cycle_setPart (s : State) (n : Nat) (p : Part) : (s.setPart n p).cycle = s.cycle := rfl
@[simp] theorem State.heartbeats_setPart (s : State) (n : Nat) (p : Part) : (s.setPart n p).heartbeats = s.heartbeats := rfl
@[simp] theorem State.ticks_setPart (s : State) (n : Nat) (p : Part) : (s.setPart n p).ticks = s.ticks := rfl
@[simp] theorem State.turn_setPart (s : State) (n : Nat) (p : Part) : (s.setPart n p).turn = s.turn := rfl
@[simp] theorem State.fill_setPart (s : State) (n : Nat) (p : Part) : (s.setPart n p).fill = s.fill := rfl
@[simp] theorem State.inbox_setPart (s : State) (n : Nat) (p : Part) : (s.setPart n p).inbox = s.inbox := rfl
@[simp] theorem State.cur_setPart (s : State) (n : Nat) (p : Part) : (s.setPart n p).cur = s.cur := rfl
@[simp] theorem State.chain_setPart (s : State) (n : Nat) (p : Part) : (s.setPart n p).chain = s.chain := rfl
@[simp] theorem State.groups_setPart (s : State) (n : Nat) (p : Part) : (s.setPart n p).groups = s.groups := rfl
@[simp] theorem State.teams_setPart (s : State) (n : Nat) (p : Part) : (s.setPart n p).teams = s.teams := rfl
@[simp] theorem State.launches_setPart (s : State) (n : Nat) (p : Part) : (s.setPart n p).launches = s.launches := rfl
@[simp] theorem State.saved_setPart (s : State) (n : Nat) (p : Part) : (s.setPart n p).saved = s.saved := rfl
@[simp] theorem State.cores_setPart (s : State) (n : Nat) (p : Part) : (s.setPart n p).cores = s.cores := rfl
@[simp] theorem State.copies_setPart (s : State) (n : Nat) (p : Part) : (s.setPart n p).copies = s.copies := rfl
@[simp] theorem State.tlb_setPart (s : State) (n : Nat) (p : Part) : (s.setPart n p).tlb = s.tlb := rfl
@[simp] theorem State.icache_setPart (s : State) (n : Nat) (p : Part) : (s.setPart n p).icache = s.icache := rfl
@[simp] theorem State.walks_setPart (s : State) (n : Nat) (p : Part) : (s.setPart n p).walks = s.walks := rfl
@[simp] theorem State.faults_setPart (s : State) (n : Nat) (p : Part) : (s.setPart n p).faults = s.faults := rfl
@[simp] theorem State.sheafLog_setPart (s : State) (n : Nat) (p : Part) : (s.setPart n p).sheafLog = s.sheafLog := rfl
@[simp] theorem State.msix_setPart (s : State) (n : Nat) (p : Part) : (s.setPart n p).msix = s.msix := rfl
@[simp] theorem State.cxlBacked_setPart (s : State) (n : Nat) (p : Part) : (s.setPart n p).cxlBacked = s.cxlBacked := rfl
@[simp] theorem State.queues_setPart (s : State) (n : Nat) (p : Part) : (s.setPart n p).queues = s.queues := rfl
@[simp] theorem State.qcbBase_setPart (s : State) (n : Nat) (p : Part) : (s.setPart n p).qcbBase = s.qcbBase := rfl
@[simp] theorem State.qslots_setPart (s : State) (n : Nat) (p : Part) : (s.setPart n p).qslots = s.qslots := rfl
@[simp] theorem State.regs_setPart (s : State) (n : Nat) (p : Part) : (s.setPart n p).regs = s.regs := rfl
@[simp] theorem State.boot_setPart (s : State) (n : Nat) (p : Part) : (s.setPart n p).boot = s.boot := rfl
@[simp] theorem State.ports_setPart (s : State) (n : Nat) (p : Part) : (s.setPart n p).ports = s.ports := rfl
@[simp] theorem State.routes_setPart (s : State) (n : Nat) (p : Part) : (s.setPart n p).routes = s.routes := rfl
@[simp] theorem State.remote_setPart (s : State) (n : Nat) (p : Part) : (s.setPart n p).remote = s.remote := rfl
@[simp] theorem State.drains_setPart (s : State) (n : Nat) (p : Part) : (s.setPart n p).drains = s.drains := rfl
@[simp] theorem State.chunks_setPart (s : State) (n : Nat) (p : Part) : (s.setPart n p).chunks = s.chunks := rfl
@[simp] theorem State.nextTag_setPart (s : State) (n : Nat) (p : Part) : (s.setPart n p).nextTag = s.nextTag := rfl
@[simp] theorem State.nextSerial_setPart (s : State) (n : Nat) (p : Part) : (s.setPart n p).nextSerial = s.nextSerial := rfl
@[simp] theorem State.nextKey_setPart (s : State) (n : Nat) (p : Part) : (s.setPart n p).nextKey = s.nextKey := rfl
@[simp] theorem State.rampTimes_setPart (s : State) (n : Nat) (p : Part) : (s.setPart n p).rampTimes = s.rampTimes := rfl
@[simp] theorem State.monitorAt_setPart (s : State) (n : Nat) (p : Part) : (s.setPart n p).monitorAt = s.monitorAt := rfl
@[simp] theorem State.corrected_setPart (s : State) (n : Nat) (p : Part) : (s.setPart n p).corrected = s.corrected := rfl
@[simp] theorem State.huskLocks_setPart (s : State) (n : Nat) (p : Part) : (s.setPart n p).huskLocks = s.huskLocks := rfl
@[simp] theorem State.hostEvents_setPart (s : State) (n : Nat) (p : Part) : (s.setPart n p).hostEvents = s.hostEvents := rfl
@[simp] theorem State.resetting_setPart (s : State) (n : Nat) (p : Part) : (s.setPart n p).resetting = s.resetting := rfl
@[simp] theorem State.migrating_setPart (s : State) (n : Nat) (p : Part) : (s.setPart n p).migrating = s.migrating := rfl
@[simp] theorem State.l1_setPart (s : State) (n : Nat) (p : Part) : (s.setPart n p).l1 = s.l1 := rfl
@[simp] theorem State.held_setPart (s : State) (n : Nat) (p : Part) : (s.setPart n p).held = s.held := rfl
@[simp] theorem State.hubHeard_setPart (s : State) (n : Nat) (p : Part) : (s.setPart n p).hubHeard = s.hubHeard := rfl
@[simp] theorem State.outgoing_setPart (s : State) (n : Nat) (p : Part) : (s.setPart n p).outgoing = s.outgoing := rfl
@[simp] theorem State.purged_setPart (s : State) (n : Nat) (p : Part) : (s.setPart n p).purged = s.purged := rfl
@[simp] theorem State.posted_setPart (s : State) (n : Nat) (p : Part) : (s.setPart n p).posted = s.posted := rfl
@[simp] theorem State.hostReads_setPart (s : State) (n : Nat) (p : Part) : (s.setPart n p).hostReads = s.hostReads := rfl

/-! ### State.setPort -/

@[simp] theorem State.mem_setPort (s : State) (n : Nat) (p : Port) : (s.setPort n p).mem = s.mem := rfl
@[simp] theorem State.memPoison_setPort (s : State) (n : Nat) (p : Port) : (s.setPort n p).memPoison = s.memPoison := rfl
@[simp] theorem State.hostMem_setPort (s : State) (n : Nat) (p : Port) : (s.setPort n p).hostMem = s.hostMem := rfl
@[simp] theorem State.pkgId_setPort (s : State) (n : Nat) (p : Port) : (s.setPort n p).pkgId = s.pkgId := rfl
@[simp] theorem State.cycle_setPort (s : State) (n : Nat) (p : Port) : (s.setPort n p).cycle = s.cycle := rfl
@[simp] theorem State.heartbeats_setPort (s : State) (n : Nat) (p : Port) : (s.setPort n p).heartbeats = s.heartbeats := rfl
@[simp] theorem State.ticks_setPort (s : State) (n : Nat) (p : Port) : (s.setPort n p).ticks = s.ticks := rfl
@[simp] theorem State.turn_setPort (s : State) (n : Nat) (p : Port) : (s.setPort n p).turn = s.turn := rfl
@[simp] theorem State.fill_setPort (s : State) (n : Nat) (p : Port) : (s.setPort n p).fill = s.fill := rfl
@[simp] theorem State.inbox_setPort (s : State) (n : Nat) (p : Port) : (s.setPort n p).inbox = s.inbox := rfl
@[simp] theorem State.cur_setPort (s : State) (n : Nat) (p : Port) : (s.setPort n p).cur = s.cur := rfl
@[simp] theorem State.chain_setPort (s : State) (n : Nat) (p : Port) : (s.setPort n p).chain = s.chain := rfl
@[simp] theorem State.groups_setPort (s : State) (n : Nat) (p : Port) : (s.setPort n p).groups = s.groups := rfl
@[simp] theorem State.teams_setPort (s : State) (n : Nat) (p : Port) : (s.setPort n p).teams = s.teams := rfl
@[simp] theorem State.launches_setPort (s : State) (n : Nat) (p : Port) : (s.setPort n p).launches = s.launches := rfl
@[simp] theorem State.saved_setPort (s : State) (n : Nat) (p : Port) : (s.setPort n p).saved = s.saved := rfl
@[simp] theorem State.cores_setPort (s : State) (n : Nat) (p : Port) : (s.setPort n p).cores = s.cores := rfl
@[simp] theorem State.copies_setPort (s : State) (n : Nat) (p : Port) : (s.setPort n p).copies = s.copies := rfl
@[simp] theorem State.tlb_setPort (s : State) (n : Nat) (p : Port) : (s.setPort n p).tlb = s.tlb := rfl
@[simp] theorem State.icache_setPort (s : State) (n : Nat) (p : Port) : (s.setPort n p).icache = s.icache := rfl
@[simp] theorem State.walks_setPort (s : State) (n : Nat) (p : Port) : (s.setPort n p).walks = s.walks := rfl
@[simp] theorem State.faults_setPort (s : State) (n : Nat) (p : Port) : (s.setPort n p).faults = s.faults := rfl
@[simp] theorem State.sheafLog_setPort (s : State) (n : Nat) (p : Port) : (s.setPort n p).sheafLog = s.sheafLog := rfl
@[simp] theorem State.msix_setPort (s : State) (n : Nat) (p : Port) : (s.setPort n p).msix = s.msix := rfl
@[simp] theorem State.cxlBacked_setPort (s : State) (n : Nat) (p : Port) : (s.setPort n p).cxlBacked = s.cxlBacked := rfl
@[simp] theorem State.queues_setPort (s : State) (n : Nat) (p : Port) : (s.setPort n p).queues = s.queues := rfl
@[simp] theorem State.qcbBase_setPort (s : State) (n : Nat) (p : Port) : (s.setPort n p).qcbBase = s.qcbBase := rfl
@[simp] theorem State.qslots_setPort (s : State) (n : Nat) (p : Port) : (s.setPort n p).qslots = s.qslots := rfl
@[simp] theorem State.parts_setPort (s : State) (n : Nat) (p : Port) : (s.setPort n p).parts = s.parts := rfl
@[simp] theorem State.regs_setPort (s : State) (n : Nat) (p : Port) : (s.setPort n p).regs = s.regs := rfl
@[simp] theorem State.boot_setPort (s : State) (n : Nat) (p : Port) : (s.setPort n p).boot = s.boot := rfl
@[simp] theorem State.routes_setPort (s : State) (n : Nat) (p : Port) : (s.setPort n p).routes = s.routes := rfl
@[simp] theorem State.remote_setPort (s : State) (n : Nat) (p : Port) : (s.setPort n p).remote = s.remote := rfl
@[simp] theorem State.drains_setPort (s : State) (n : Nat) (p : Port) : (s.setPort n p).drains = s.drains := rfl
@[simp] theorem State.chunks_setPort (s : State) (n : Nat) (p : Port) : (s.setPort n p).chunks = s.chunks := rfl
@[simp] theorem State.nextTag_setPort (s : State) (n : Nat) (p : Port) : (s.setPort n p).nextTag = s.nextTag := rfl
@[simp] theorem State.nextSerial_setPort (s : State) (n : Nat) (p : Port) : (s.setPort n p).nextSerial = s.nextSerial := rfl
@[simp] theorem State.nextKey_setPort (s : State) (n : Nat) (p : Port) : (s.setPort n p).nextKey = s.nextKey := rfl
@[simp] theorem State.rampTimes_setPort (s : State) (n : Nat) (p : Port) : (s.setPort n p).rampTimes = s.rampTimes := rfl
@[simp] theorem State.monitorAt_setPort (s : State) (n : Nat) (p : Port) : (s.setPort n p).monitorAt = s.monitorAt := rfl
@[simp] theorem State.corrected_setPort (s : State) (n : Nat) (p : Port) : (s.setPort n p).corrected = s.corrected := rfl
@[simp] theorem State.huskLocks_setPort (s : State) (n : Nat) (p : Port) : (s.setPort n p).huskLocks = s.huskLocks := rfl
@[simp] theorem State.hostEvents_setPort (s : State) (n : Nat) (p : Port) : (s.setPort n p).hostEvents = s.hostEvents := rfl
@[simp] theorem State.resetting_setPort (s : State) (n : Nat) (p : Port) : (s.setPort n p).resetting = s.resetting := rfl
@[simp] theorem State.migrating_setPort (s : State) (n : Nat) (p : Port) : (s.setPort n p).migrating = s.migrating := rfl
@[simp] theorem State.l1_setPort (s : State) (n : Nat) (p : Port) : (s.setPort n p).l1 = s.l1 := rfl
@[simp] theorem State.held_setPort (s : State) (n : Nat) (p : Port) : (s.setPort n p).held = s.held := rfl
@[simp] theorem State.hubHeard_setPort (s : State) (n : Nat) (p : Port) : (s.setPort n p).hubHeard = s.hubHeard := rfl
@[simp] theorem State.outgoing_setPort (s : State) (n : Nat) (p : Port) : (s.setPort n p).outgoing = s.outgoing := rfl
@[simp] theorem State.purged_setPort (s : State) (n : Nat) (p : Port) : (s.setPort n p).purged = s.purged := rfl
@[simp] theorem State.posted_setPort (s : State) (n : Nat) (p : Port) : (s.setPort n p).posted = s.posted := rfl
@[simp] theorem State.hostReads_setPort (s : State) (n : Nat) (p : Port) : (s.setPort n p).hostReads = s.hostReads := rfl

/-! ### State.setQslot -/

@[simp] theorem State.mem_setQslot (s : State) (n : Nat) (x : QSlot) : (s.setQslot n x).mem = s.mem := rfl
@[simp] theorem State.memPoison_setQslot (s : State) (n : Nat) (x : QSlot) : (s.setQslot n x).memPoison = s.memPoison := rfl
@[simp] theorem State.hostMem_setQslot (s : State) (n : Nat) (x : QSlot) : (s.setQslot n x).hostMem = s.hostMem := rfl
@[simp] theorem State.pkgId_setQslot (s : State) (n : Nat) (x : QSlot) : (s.setQslot n x).pkgId = s.pkgId := rfl
@[simp] theorem State.cycle_setQslot (s : State) (n : Nat) (x : QSlot) : (s.setQslot n x).cycle = s.cycle := rfl
@[simp] theorem State.heartbeats_setQslot (s : State) (n : Nat) (x : QSlot) : (s.setQslot n x).heartbeats = s.heartbeats := rfl
@[simp] theorem State.ticks_setQslot (s : State) (n : Nat) (x : QSlot) : (s.setQslot n x).ticks = s.ticks := rfl
@[simp] theorem State.turn_setQslot (s : State) (n : Nat) (x : QSlot) : (s.setQslot n x).turn = s.turn := rfl
@[simp] theorem State.fill_setQslot (s : State) (n : Nat) (x : QSlot) : (s.setQslot n x).fill = s.fill := rfl
@[simp] theorem State.inbox_setQslot (s : State) (n : Nat) (x : QSlot) : (s.setQslot n x).inbox = s.inbox := rfl
@[simp] theorem State.cur_setQslot (s : State) (n : Nat) (x : QSlot) : (s.setQslot n x).cur = s.cur := rfl
@[simp] theorem State.chain_setQslot (s : State) (n : Nat) (x : QSlot) : (s.setQslot n x).chain = s.chain := rfl
@[simp] theorem State.groups_setQslot (s : State) (n : Nat) (x : QSlot) : (s.setQslot n x).groups = s.groups := rfl
@[simp] theorem State.teams_setQslot (s : State) (n : Nat) (x : QSlot) : (s.setQslot n x).teams = s.teams := rfl
@[simp] theorem State.launches_setQslot (s : State) (n : Nat) (x : QSlot) : (s.setQslot n x).launches = s.launches := rfl
@[simp] theorem State.saved_setQslot (s : State) (n : Nat) (x : QSlot) : (s.setQslot n x).saved = s.saved := rfl
@[simp] theorem State.cores_setQslot (s : State) (n : Nat) (x : QSlot) : (s.setQslot n x).cores = s.cores := rfl
@[simp] theorem State.copies_setQslot (s : State) (n : Nat) (x : QSlot) : (s.setQslot n x).copies = s.copies := rfl
@[simp] theorem State.tlb_setQslot (s : State) (n : Nat) (x : QSlot) : (s.setQslot n x).tlb = s.tlb := rfl
@[simp] theorem State.icache_setQslot (s : State) (n : Nat) (x : QSlot) : (s.setQslot n x).icache = s.icache := rfl
@[simp] theorem State.walks_setQslot (s : State) (n : Nat) (x : QSlot) : (s.setQslot n x).walks = s.walks := rfl
@[simp] theorem State.faults_setQslot (s : State) (n : Nat) (x : QSlot) : (s.setQslot n x).faults = s.faults := rfl
@[simp] theorem State.sheafLog_setQslot (s : State) (n : Nat) (x : QSlot) : (s.setQslot n x).sheafLog = s.sheafLog := rfl
@[simp] theorem State.msix_setQslot (s : State) (n : Nat) (x : QSlot) : (s.setQslot n x).msix = s.msix := rfl
@[simp] theorem State.cxlBacked_setQslot (s : State) (n : Nat) (x : QSlot) : (s.setQslot n x).cxlBacked = s.cxlBacked := rfl
@[simp] theorem State.queues_setQslot (s : State) (n : Nat) (x : QSlot) : (s.setQslot n x).queues = s.queues := rfl
@[simp] theorem State.qcbBase_setQslot (s : State) (n : Nat) (x : QSlot) : (s.setQslot n x).qcbBase = s.qcbBase := rfl
@[simp] theorem State.parts_setQslot (s : State) (n : Nat) (x : QSlot) : (s.setQslot n x).parts = s.parts := rfl
@[simp] theorem State.regs_setQslot (s : State) (n : Nat) (x : QSlot) : (s.setQslot n x).regs = s.regs := rfl
@[simp] theorem State.boot_setQslot (s : State) (n : Nat) (x : QSlot) : (s.setQslot n x).boot = s.boot := rfl
@[simp] theorem State.ports_setQslot (s : State) (n : Nat) (x : QSlot) : (s.setQslot n x).ports = s.ports := rfl
@[simp] theorem State.routes_setQslot (s : State) (n : Nat) (x : QSlot) : (s.setQslot n x).routes = s.routes := rfl
@[simp] theorem State.remote_setQslot (s : State) (n : Nat) (x : QSlot) : (s.setQslot n x).remote = s.remote := rfl
@[simp] theorem State.drains_setQslot (s : State) (n : Nat) (x : QSlot) : (s.setQslot n x).drains = s.drains := rfl
@[simp] theorem State.chunks_setQslot (s : State) (n : Nat) (x : QSlot) : (s.setQslot n x).chunks = s.chunks := rfl
@[simp] theorem State.nextTag_setQslot (s : State) (n : Nat) (x : QSlot) : (s.setQslot n x).nextTag = s.nextTag := rfl
@[simp] theorem State.nextSerial_setQslot (s : State) (n : Nat) (x : QSlot) : (s.setQslot n x).nextSerial = s.nextSerial := rfl
@[simp] theorem State.nextKey_setQslot (s : State) (n : Nat) (x : QSlot) : (s.setQslot n x).nextKey = s.nextKey := rfl
@[simp] theorem State.rampTimes_setQslot (s : State) (n : Nat) (x : QSlot) : (s.setQslot n x).rampTimes = s.rampTimes := rfl
@[simp] theorem State.monitorAt_setQslot (s : State) (n : Nat) (x : QSlot) : (s.setQslot n x).monitorAt = s.monitorAt := rfl
@[simp] theorem State.corrected_setQslot (s : State) (n : Nat) (x : QSlot) : (s.setQslot n x).corrected = s.corrected := rfl
@[simp] theorem State.huskLocks_setQslot (s : State) (n : Nat) (x : QSlot) : (s.setQslot n x).huskLocks = s.huskLocks := rfl
@[simp] theorem State.hostEvents_setQslot (s : State) (n : Nat) (x : QSlot) : (s.setQslot n x).hostEvents = s.hostEvents := rfl
@[simp] theorem State.resetting_setQslot (s : State) (n : Nat) (x : QSlot) : (s.setQslot n x).resetting = s.resetting := rfl
@[simp] theorem State.migrating_setQslot (s : State) (n : Nat) (x : QSlot) : (s.setQslot n x).migrating = s.migrating := rfl
@[simp] theorem State.l1_setQslot (s : State) (n : Nat) (x : QSlot) : (s.setQslot n x).l1 = s.l1 := rfl
@[simp] theorem State.held_setQslot (s : State) (n : Nat) (x : QSlot) : (s.setQslot n x).held = s.held := rfl
@[simp] theorem State.hubHeard_setQslot (s : State) (n : Nat) (x : QSlot) : (s.setQslot n x).hubHeard = s.hubHeard := rfl
@[simp] theorem State.outgoing_setQslot (s : State) (n : Nat) (x : QSlot) : (s.setQslot n x).outgoing = s.outgoing := rfl
@[simp] theorem State.purged_setQslot (s : State) (n : Nat) (x : QSlot) : (s.setQslot n x).purged = s.purged := rfl
@[simp] theorem State.posted_setQslot (s : State) (n : Nat) (x : QSlot) : (s.setQslot n x).posted = s.posted := rfl
@[simp] theorem State.hostReads_setQslot (s : State) (n : Nat) (x : QSlot) : (s.setQslot n x).hostReads = s.hostReads := rfl

/-! ### State.setCore -/

@[simp] theorem State.mem_setCore (s : State) (n : Nat) (x : CoreSt) : (s.setCore n x).mem = s.mem := rfl
@[simp] theorem State.memPoison_setCore (s : State) (n : Nat) (x : CoreSt) : (s.setCore n x).memPoison = s.memPoison := rfl
@[simp] theorem State.hostMem_setCore (s : State) (n : Nat) (x : CoreSt) : (s.setCore n x).hostMem = s.hostMem := rfl
@[simp] theorem State.pkgId_setCore (s : State) (n : Nat) (x : CoreSt) : (s.setCore n x).pkgId = s.pkgId := rfl
@[simp] theorem State.cycle_setCore (s : State) (n : Nat) (x : CoreSt) : (s.setCore n x).cycle = s.cycle := rfl
@[simp] theorem State.heartbeats_setCore (s : State) (n : Nat) (x : CoreSt) : (s.setCore n x).heartbeats = s.heartbeats := rfl
@[simp] theorem State.ticks_setCore (s : State) (n : Nat) (x : CoreSt) : (s.setCore n x).ticks = s.ticks := rfl
@[simp] theorem State.turn_setCore (s : State) (n : Nat) (x : CoreSt) : (s.setCore n x).turn = s.turn := rfl
@[simp] theorem State.fill_setCore (s : State) (n : Nat) (x : CoreSt) : (s.setCore n x).fill = s.fill := rfl
@[simp] theorem State.inbox_setCore (s : State) (n : Nat) (x : CoreSt) : (s.setCore n x).inbox = s.inbox := rfl
@[simp] theorem State.cur_setCore (s : State) (n : Nat) (x : CoreSt) : (s.setCore n x).cur = s.cur := rfl
@[simp] theorem State.chain_setCore (s : State) (n : Nat) (x : CoreSt) : (s.setCore n x).chain = s.chain := rfl
@[simp] theorem State.groups_setCore (s : State) (n : Nat) (x : CoreSt) : (s.setCore n x).groups = s.groups := rfl
@[simp] theorem State.teams_setCore (s : State) (n : Nat) (x : CoreSt) : (s.setCore n x).teams = s.teams := rfl
@[simp] theorem State.launches_setCore (s : State) (n : Nat) (x : CoreSt) : (s.setCore n x).launches = s.launches := rfl
@[simp] theorem State.saved_setCore (s : State) (n : Nat) (x : CoreSt) : (s.setCore n x).saved = s.saved := rfl
@[simp] theorem State.copies_setCore (s : State) (n : Nat) (x : CoreSt) : (s.setCore n x).copies = s.copies := rfl
@[simp] theorem State.tlb_setCore (s : State) (n : Nat) (x : CoreSt) : (s.setCore n x).tlb = s.tlb := rfl
@[simp] theorem State.icache_setCore (s : State) (n : Nat) (x : CoreSt) : (s.setCore n x).icache = s.icache := rfl
@[simp] theorem State.walks_setCore (s : State) (n : Nat) (x : CoreSt) : (s.setCore n x).walks = s.walks := rfl
@[simp] theorem State.faults_setCore (s : State) (n : Nat) (x : CoreSt) : (s.setCore n x).faults = s.faults := rfl
@[simp] theorem State.sheafLog_setCore (s : State) (n : Nat) (x : CoreSt) : (s.setCore n x).sheafLog = s.sheafLog := rfl
@[simp] theorem State.msix_setCore (s : State) (n : Nat) (x : CoreSt) : (s.setCore n x).msix = s.msix := rfl
@[simp] theorem State.cxlBacked_setCore (s : State) (n : Nat) (x : CoreSt) : (s.setCore n x).cxlBacked = s.cxlBacked := rfl
@[simp] theorem State.queues_setCore (s : State) (n : Nat) (x : CoreSt) : (s.setCore n x).queues = s.queues := rfl
@[simp] theorem State.qcbBase_setCore (s : State) (n : Nat) (x : CoreSt) : (s.setCore n x).qcbBase = s.qcbBase := rfl
@[simp] theorem State.qslots_setCore (s : State) (n : Nat) (x : CoreSt) : (s.setCore n x).qslots = s.qslots := rfl
@[simp] theorem State.parts_setCore (s : State) (n : Nat) (x : CoreSt) : (s.setCore n x).parts = s.parts := rfl
@[simp] theorem State.regs_setCore (s : State) (n : Nat) (x : CoreSt) : (s.setCore n x).regs = s.regs := rfl
@[simp] theorem State.boot_setCore (s : State) (n : Nat) (x : CoreSt) : (s.setCore n x).boot = s.boot := rfl
@[simp] theorem State.ports_setCore (s : State) (n : Nat) (x : CoreSt) : (s.setCore n x).ports = s.ports := rfl
@[simp] theorem State.routes_setCore (s : State) (n : Nat) (x : CoreSt) : (s.setCore n x).routes = s.routes := rfl
@[simp] theorem State.remote_setCore (s : State) (n : Nat) (x : CoreSt) : (s.setCore n x).remote = s.remote := rfl
@[simp] theorem State.drains_setCore (s : State) (n : Nat) (x : CoreSt) : (s.setCore n x).drains = s.drains := rfl
@[simp] theorem State.chunks_setCore (s : State) (n : Nat) (x : CoreSt) : (s.setCore n x).chunks = s.chunks := rfl
@[simp] theorem State.nextTag_setCore (s : State) (n : Nat) (x : CoreSt) : (s.setCore n x).nextTag = s.nextTag := rfl
@[simp] theorem State.nextSerial_setCore (s : State) (n : Nat) (x : CoreSt) : (s.setCore n x).nextSerial = s.nextSerial := rfl
@[simp] theorem State.nextKey_setCore (s : State) (n : Nat) (x : CoreSt) : (s.setCore n x).nextKey = s.nextKey := rfl
@[simp] theorem State.rampTimes_setCore (s : State) (n : Nat) (x : CoreSt) : (s.setCore n x).rampTimes = s.rampTimes := rfl
@[simp] theorem State.monitorAt_setCore (s : State) (n : Nat) (x : CoreSt) : (s.setCore n x).monitorAt = s.monitorAt := rfl
@[simp] theorem State.corrected_setCore (s : State) (n : Nat) (x : CoreSt) : (s.setCore n x).corrected = s.corrected := rfl
@[simp] theorem State.huskLocks_setCore (s : State) (n : Nat) (x : CoreSt) : (s.setCore n x).huskLocks = s.huskLocks := rfl
@[simp] theorem State.hostEvents_setCore (s : State) (n : Nat) (x : CoreSt) : (s.setCore n x).hostEvents = s.hostEvents := rfl
@[simp] theorem State.resetting_setCore (s : State) (n : Nat) (x : CoreSt) : (s.setCore n x).resetting = s.resetting := rfl
@[simp] theorem State.migrating_setCore (s : State) (n : Nat) (x : CoreSt) : (s.setCore n x).migrating = s.migrating := rfl
@[simp] theorem State.l1_setCore (s : State) (n : Nat) (x : CoreSt) : (s.setCore n x).l1 = s.l1 := rfl
@[simp] theorem State.held_setCore (s : State) (n : Nat) (x : CoreSt) : (s.setCore n x).held = s.held := rfl
@[simp] theorem State.hubHeard_setCore (s : State) (n : Nat) (x : CoreSt) : (s.setCore n x).hubHeard = s.hubHeard := rfl
@[simp] theorem State.outgoing_setCore (s : State) (n : Nat) (x : CoreSt) : (s.setCore n x).outgoing = s.outgoing := rfl
@[simp] theorem State.purged_setCore (s : State) (n : Nat) (x : CoreSt) : (s.setCore n x).purged = s.purged := rfl
@[simp] theorem State.posted_setCore (s : State) (n : Nat) (x : CoreSt) : (s.setCore n x).posted = s.posted := rfl
@[simp] theorem State.hostReads_setCore (s : State) (n : Nat) (x : CoreSt) : (s.setCore n x).hostReads = s.hostReads := rfl

/-! ### State.writePA -/

@[simp] theorem State.hostMem_writePA (s : State) (pa n v : Nat) (q : Bool) : (s.writePA pa n v q).hostMem = s.hostMem := rfl
@[simp] theorem State.pkgId_writePA (s : State) (pa n v : Nat) (q : Bool) : (s.writePA pa n v q).pkgId = s.pkgId := rfl
@[simp] theorem State.cycle_writePA (s : State) (pa n v : Nat) (q : Bool) : (s.writePA pa n v q).cycle = s.cycle := rfl
@[simp] theorem State.heartbeats_writePA (s : State) (pa n v : Nat) (q : Bool) : (s.writePA pa n v q).heartbeats = s.heartbeats := rfl
@[simp] theorem State.ticks_writePA (s : State) (pa n v : Nat) (q : Bool) : (s.writePA pa n v q).ticks = s.ticks := rfl
@[simp] theorem State.turn_writePA (s : State) (pa n v : Nat) (q : Bool) : (s.writePA pa n v q).turn = s.turn := rfl
@[simp] theorem State.fill_writePA (s : State) (pa n v : Nat) (q : Bool) : (s.writePA pa n v q).fill = s.fill := rfl
@[simp] theorem State.inbox_writePA (s : State) (pa n v : Nat) (q : Bool) : (s.writePA pa n v q).inbox = s.inbox := rfl
@[simp] theorem State.cur_writePA (s : State) (pa n v : Nat) (q : Bool) : (s.writePA pa n v q).cur = s.cur := rfl
@[simp] theorem State.chain_writePA (s : State) (pa n v : Nat) (q : Bool) : (s.writePA pa n v q).chain = s.chain := rfl
@[simp] theorem State.groups_writePA (s : State) (pa n v : Nat) (q : Bool) : (s.writePA pa n v q).groups = s.groups := rfl
@[simp] theorem State.teams_writePA (s : State) (pa n v : Nat) (q : Bool) : (s.writePA pa n v q).teams = s.teams := rfl
@[simp] theorem State.launches_writePA (s : State) (pa n v : Nat) (q : Bool) : (s.writePA pa n v q).launches = s.launches := rfl
@[simp] theorem State.saved_writePA (s : State) (pa n v : Nat) (q : Bool) : (s.writePA pa n v q).saved = s.saved := rfl
@[simp] theorem State.cores_writePA (s : State) (pa n v : Nat) (q : Bool) : (s.writePA pa n v q).cores = s.cores := rfl
@[simp] theorem State.copies_writePA (s : State) (pa n v : Nat) (q : Bool) : (s.writePA pa n v q).copies = s.copies := rfl
@[simp] theorem State.tlb_writePA (s : State) (pa n v : Nat) (q : Bool) : (s.writePA pa n v q).tlb = s.tlb := rfl
@[simp] theorem State.icache_writePA (s : State) (pa n v : Nat) (q : Bool) : (s.writePA pa n v q).icache = s.icache := rfl
@[simp] theorem State.walks_writePA (s : State) (pa n v : Nat) (q : Bool) : (s.writePA pa n v q).walks = s.walks := rfl
@[simp] theorem State.faults_writePA (s : State) (pa n v : Nat) (q : Bool) : (s.writePA pa n v q).faults = s.faults := rfl
@[simp] theorem State.sheafLog_writePA (s : State) (pa n v : Nat) (q : Bool) : (s.writePA pa n v q).sheafLog = s.sheafLog := rfl
@[simp] theorem State.msix_writePA (s : State) (pa n v : Nat) (q : Bool) : (s.writePA pa n v q).msix = s.msix := rfl
@[simp] theorem State.cxlBacked_writePA (s : State) (pa n v : Nat) (q : Bool) : (s.writePA pa n v q).cxlBacked = s.cxlBacked := rfl
@[simp] theorem State.queues_writePA (s : State) (pa n v : Nat) (q : Bool) : (s.writePA pa n v q).queues = s.queues := rfl
@[simp] theorem State.qcbBase_writePA (s : State) (pa n v : Nat) (q : Bool) : (s.writePA pa n v q).qcbBase = s.qcbBase := rfl
@[simp] theorem State.qslots_writePA (s : State) (pa n v : Nat) (q : Bool) : (s.writePA pa n v q).qslots = s.qslots := rfl
@[simp] theorem State.parts_writePA (s : State) (pa n v : Nat) (q : Bool) : (s.writePA pa n v q).parts = s.parts := rfl
@[simp] theorem State.regs_writePA (s : State) (pa n v : Nat) (q : Bool) : (s.writePA pa n v q).regs = s.regs := rfl
@[simp] theorem State.boot_writePA (s : State) (pa n v : Nat) (q : Bool) : (s.writePA pa n v q).boot = s.boot := rfl
@[simp] theorem State.ports_writePA (s : State) (pa n v : Nat) (q : Bool) : (s.writePA pa n v q).ports = s.ports := rfl
@[simp] theorem State.routes_writePA (s : State) (pa n v : Nat) (q : Bool) : (s.writePA pa n v q).routes = s.routes := rfl
@[simp] theorem State.remote_writePA (s : State) (pa n v : Nat) (q : Bool) : (s.writePA pa n v q).remote = s.remote := rfl
@[simp] theorem State.drains_writePA (s : State) (pa n v : Nat) (q : Bool) : (s.writePA pa n v q).drains = s.drains := rfl
@[simp] theorem State.chunks_writePA (s : State) (pa n v : Nat) (q : Bool) : (s.writePA pa n v q).chunks = s.chunks := rfl
@[simp] theorem State.nextTag_writePA (s : State) (pa n v : Nat) (q : Bool) : (s.writePA pa n v q).nextTag = s.nextTag := rfl
@[simp] theorem State.nextSerial_writePA (s : State) (pa n v : Nat) (q : Bool) : (s.writePA pa n v q).nextSerial = s.nextSerial := rfl
@[simp] theorem State.nextKey_writePA (s : State) (pa n v : Nat) (q : Bool) : (s.writePA pa n v q).nextKey = s.nextKey := rfl
@[simp] theorem State.rampTimes_writePA (s : State) (pa n v : Nat) (q : Bool) : (s.writePA pa n v q).rampTimes = s.rampTimes := rfl
@[simp] theorem State.monitorAt_writePA (s : State) (pa n v : Nat) (q : Bool) : (s.writePA pa n v q).monitorAt = s.monitorAt := rfl
@[simp] theorem State.corrected_writePA (s : State) (pa n v : Nat) (q : Bool) : (s.writePA pa n v q).corrected = s.corrected := rfl
@[simp] theorem State.huskLocks_writePA (s : State) (pa n v : Nat) (q : Bool) : (s.writePA pa n v q).huskLocks = s.huskLocks := rfl
@[simp] theorem State.hostEvents_writePA (s : State) (pa n v : Nat) (q : Bool) : (s.writePA pa n v q).hostEvents = s.hostEvents := rfl
@[simp] theorem State.resetting_writePA (s : State) (pa n v : Nat) (q : Bool) : (s.writePA pa n v q).resetting = s.resetting := rfl
@[simp] theorem State.migrating_writePA (s : State) (pa n v : Nat) (q : Bool) : (s.writePA pa n v q).migrating = s.migrating := rfl
@[simp] theorem State.l1_writePA (s : State) (pa n v : Nat) (q : Bool) : (s.writePA pa n v q).l1 = s.l1 := rfl
@[simp] theorem State.held_writePA (s : State) (pa n v : Nat) (q : Bool) : (s.writePA pa n v q).held = s.held := rfl
@[simp] theorem State.hubHeard_writePA (s : State) (pa n v : Nat) (q : Bool) : (s.writePA pa n v q).hubHeard = s.hubHeard := rfl
@[simp] theorem State.outgoing_writePA (s : State) (pa n v : Nat) (q : Bool) : (s.writePA pa n v q).outgoing = s.outgoing := rfl
@[simp] theorem State.purged_writePA (s : State) (pa n v : Nat) (q : Bool) : (s.writePA pa n v q).purged = s.purged := rfl
@[simp] theorem State.posted_writePA (s : State) (pa n v : Nat) (q : Bool) : (s.writePA pa n v q).posted = s.posted := rfl
@[simp] theorem State.hostReads_writePA (s : State) (pa n v : Nat) (q : Bool) : (s.writePA pa n v q).hostReads = s.hostReads := rfl

/-! ### State.invalidate -/

@[simp] theorem State.mem_invalidate (s : State) (i page n : Nat) : (s.invalidate i page n).mem = s.mem := rfl
@[simp] theorem State.memPoison_invalidate (s : State) (i page n : Nat) : (s.invalidate i page n).memPoison = s.memPoison := rfl
@[simp] theorem State.hostMem_invalidate (s : State) (i page n : Nat) : (s.invalidate i page n).hostMem = s.hostMem := rfl
@[simp] theorem State.pkgId_invalidate (s : State) (i page n : Nat) : (s.invalidate i page n).pkgId = s.pkgId := rfl
@[simp] theorem State.cycle_invalidate (s : State) (i page n : Nat) : (s.invalidate i page n).cycle = s.cycle := rfl
@[simp] theorem State.heartbeats_invalidate (s : State) (i page n : Nat) : (s.invalidate i page n).heartbeats = s.heartbeats := rfl
@[simp] theorem State.ticks_invalidate (s : State) (i page n : Nat) : (s.invalidate i page n).ticks = s.ticks := rfl
@[simp] theorem State.turn_invalidate (s : State) (i page n : Nat) : (s.invalidate i page n).turn = s.turn := rfl
@[simp] theorem State.fill_invalidate (s : State) (i page n : Nat) : (s.invalidate i page n).fill = s.fill := rfl
@[simp] theorem State.inbox_invalidate (s : State) (i page n : Nat) : (s.invalidate i page n).inbox = s.inbox := rfl
@[simp] theorem State.cur_invalidate (s : State) (i page n : Nat) : (s.invalidate i page n).cur = s.cur := rfl
@[simp] theorem State.chain_invalidate (s : State) (i page n : Nat) : (s.invalidate i page n).chain = s.chain := rfl
@[simp] theorem State.groups_invalidate (s : State) (i page n : Nat) : (s.invalidate i page n).groups = s.groups := rfl
@[simp] theorem State.teams_invalidate (s : State) (i page n : Nat) : (s.invalidate i page n).teams = s.teams := rfl
@[simp] theorem State.launches_invalidate (s : State) (i page n : Nat) : (s.invalidate i page n).launches = s.launches := rfl
@[simp] theorem State.saved_invalidate (s : State) (i page n : Nat) : (s.invalidate i page n).saved = s.saved := rfl
@[simp] theorem State.cores_invalidate (s : State) (i page n : Nat) : (s.invalidate i page n).cores = s.cores := rfl
@[simp] theorem State.copies_invalidate (s : State) (i page n : Nat) : (s.invalidate i page n).copies = s.copies := rfl
@[simp] theorem State.icache_invalidate (s : State) (i page n : Nat) : (s.invalidate i page n).icache = s.icache := rfl
@[simp] theorem State.faults_invalidate (s : State) (i page n : Nat) : (s.invalidate i page n).faults = s.faults := rfl
@[simp] theorem State.sheafLog_invalidate (s : State) (i page n : Nat) : (s.invalidate i page n).sheafLog = s.sheafLog := rfl
@[simp] theorem State.msix_invalidate (s : State) (i page n : Nat) : (s.invalidate i page n).msix = s.msix := rfl
@[simp] theorem State.cxlBacked_invalidate (s : State) (i page n : Nat) : (s.invalidate i page n).cxlBacked = s.cxlBacked := rfl
@[simp] theorem State.queues_invalidate (s : State) (i page n : Nat) : (s.invalidate i page n).queues = s.queues := rfl
@[simp] theorem State.qcbBase_invalidate (s : State) (i page n : Nat) : (s.invalidate i page n).qcbBase = s.qcbBase := rfl
@[simp] theorem State.qslots_invalidate (s : State) (i page n : Nat) : (s.invalidate i page n).qslots = s.qslots := rfl
@[simp] theorem State.parts_invalidate (s : State) (i page n : Nat) : (s.invalidate i page n).parts = s.parts := rfl
@[simp] theorem State.regs_invalidate (s : State) (i page n : Nat) : (s.invalidate i page n).regs = s.regs := rfl
@[simp] theorem State.boot_invalidate (s : State) (i page n : Nat) : (s.invalidate i page n).boot = s.boot := rfl
@[simp] theorem State.ports_invalidate (s : State) (i page n : Nat) : (s.invalidate i page n).ports = s.ports := rfl
@[simp] theorem State.routes_invalidate (s : State) (i page n : Nat) : (s.invalidate i page n).routes = s.routes := rfl
@[simp] theorem State.remote_invalidate (s : State) (i page n : Nat) : (s.invalidate i page n).remote = s.remote := rfl
@[simp] theorem State.drains_invalidate (s : State) (i page n : Nat) : (s.invalidate i page n).drains = s.drains := rfl
@[simp] theorem State.chunks_invalidate (s : State) (i page n : Nat) : (s.invalidate i page n).chunks = s.chunks := rfl
@[simp] theorem State.nextTag_invalidate (s : State) (i page n : Nat) : (s.invalidate i page n).nextTag = s.nextTag := rfl
@[simp] theorem State.nextSerial_invalidate (s : State) (i page n : Nat) : (s.invalidate i page n).nextSerial = s.nextSerial := rfl
@[simp] theorem State.nextKey_invalidate (s : State) (i page n : Nat) : (s.invalidate i page n).nextKey = s.nextKey := rfl
@[simp] theorem State.rampTimes_invalidate (s : State) (i page n : Nat) : (s.invalidate i page n).rampTimes = s.rampTimes := rfl
@[simp] theorem State.monitorAt_invalidate (s : State) (i page n : Nat) : (s.invalidate i page n).monitorAt = s.monitorAt := rfl
@[simp] theorem State.corrected_invalidate (s : State) (i page n : Nat) : (s.invalidate i page n).corrected = s.corrected := rfl
@[simp] theorem State.huskLocks_invalidate (s : State) (i page n : Nat) : (s.invalidate i page n).huskLocks = s.huskLocks := rfl
@[simp] theorem State.hostEvents_invalidate (s : State) (i page n : Nat) : (s.invalidate i page n).hostEvents = s.hostEvents := rfl
@[simp] theorem State.resetting_invalidate (s : State) (i page n : Nat) : (s.invalidate i page n).resetting = s.resetting := rfl
@[simp] theorem State.migrating_invalidate (s : State) (i page n : Nat) : (s.invalidate i page n).migrating = s.migrating := rfl
@[simp] theorem State.l1_invalidate (s : State) (i page n : Nat) : (s.invalidate i page n).l1 = s.l1 := rfl
@[simp] theorem State.held_invalidate (s : State) (i page n : Nat) : (s.invalidate i page n).held = s.held := rfl
@[simp] theorem State.hubHeard_invalidate (s : State) (i page n : Nat) : (s.invalidate i page n).hubHeard = s.hubHeard := rfl
@[simp] theorem State.outgoing_invalidate (s : State) (i page n : Nat) : (s.invalidate i page n).outgoing = s.outgoing := rfl
@[simp] theorem State.purged_invalidate (s : State) (i page n : Nat) : (s.invalidate i page n).purged = s.purged := rfl
@[simp] theorem State.posted_invalidate (s : State) (i page n : Nat) : (s.invalidate i page n).posted = s.posted := rfl
@[simp] theorem State.hostReads_invalidate (s : State) (i page n : Nat) : (s.invalidate i page n).hostReads = s.hostReads := rfl

/-! ### Group.setSlot -/

@[simp] theorem Group.team_setSlot (g : Group) (k : SlotId) (p : Option Path) : (g.setSlot k p).team = g.team := by cases k <;> rfl
@[simp] theorem Group.gid_setSlot (g : Group) (k : SlotId) (p : Option Path) : (g.setSlot k p).gid = g.gid := by cases k <;> rfl
@[simp] theorem Group.width_setSlot (g : Group) (k : SlotId) (p : Option Path) : (g.setSlot k p).width = g.width := by cases k <;> rfl
@[simp] theorem Group.hwslot_setSlot (g : Group) (k : SlotId) (p : Option Path) : (g.setSlot k p).hwslot = g.hwslot := by cases k <;> rfl
@[simp] theorem Group.lslot_setSlot (g : Group) (k : SlotId) (p : Option Path) : (g.setSlot k p).lslot = g.lslot := by cases k <;> rfl
@[simp] theorem Group.key_setSlot (g : Group) (k : SlotId) (p : Option Path) : (g.setSlot k p).key = g.key := by cases k <;> rfl
@[simp] theorem Group.v_setSlot (g : Group) (k : SlotId) (p : Option Path) : (g.setSlot k p).v = g.v := by cases k <;> rfl
@[simp] theorem Group.p_setSlot (g : Group) (k : SlotId) (p : Option Path) : (g.setSlot k p).p = g.p := by cases k <;> rfl
@[simp] theorem Group.pPoison_setSlot (g : Group) (k : SlotId) (p : Option Path) : (g.setSlot k p).pPoison = g.pPoison := by cases k <;> rfl
@[simp] theorem Group.x_setSlot (g : Group) (k : SlotId) (p : Option Path) : (g.setSlot k p).x = g.x := by cases k <;> rfl
@[simp] theorem Group.a_setSlot (g : Group) (k : SlotId) (p : Option Path) : (g.setSlot k p).a = g.a := by cases k <;> rfl
@[simp] theorem Group.f_setSlot (g : Group) (k : SlotId) (p : Option Path) : (g.setSlot k p).f = g.f := by cases k <;> rfl
@[simp] theorem Group.j_setSlot (g : Group) (k : SlotId) (p : Option Path) : (g.setSlot k p).j = g.j := by cases k <;> rfl
@[simp] theorem Group.ob_setSlot (g : Group) (k : SlotId) (p : Option Path) : (g.setSlot k p).ob = g.ob := by cases k <;> rfl
@[simp] theorem Group.b_setSlot (g : Group) (k : SlotId) (p : Option Path) : (g.setSlot k p).b = g.b := by cases k <;> rfl
@[simp] theorem Group.tiles_setSlot (g : Group) (k : SlotId) (p : Option Path) : (g.setSlot k p).tiles = g.tiles := by cases k <;> rfl
@[simp] theorem Group.foldpol_setSlot (g : Group) (k : SlotId) (p : Option Path) : (g.setSlot k p).foldpol = g.foldpol := by cases k <;> rfl
@[simp] theorem Group.matcnt_setSlot (g : Group) (k : SlotId) (p : Option Path) : (g.setSlot k p).matcnt = g.matcnt := by cases k <;> rfl
@[simp] theorem Group.rngs_setSlot (g : Group) (k : SlotId) (p : Option Path) : (g.setSlot k p).rngs = g.rngs := by cases k <;> rfl
@[simp] theorem Group.scopes_setSlot (g : Group) (k : SlotId) (p : Option Path) : (g.setSlot k p).scopes = g.scopes := by cases k <;> rfl
@[simp] theorem Group.stack_setSlot (g : Group) (k : SlotId) (p : Option Path) : (g.setSlot k p).stack = g.stack := by cases k <;> rfl
@[simp] theorem Group.tstack_setSlot (g : Group) (k : SlotId) (p : Option Path) : (g.setSlot k p).tstack = g.tstack := by cases k <;> rfl
@[simp] theorem Group.exited_setSlot (g : Group) (k : SlotId) (p : Option Path) : (g.setSlot k p).exited = g.exited := by cases k <;> rfl
@[simp] theorem Group.trap_setSlot (g : Group) (k : SlotId) (p : Option Path) : (g.setSlot k p).trap = g.trap := by cases k <;> rfl
@[simp] theorem Group.deferred_setSlot (g : Group) (k : SlotId) (p : Option Path) : (g.setSlot k p).deferred = g.deferred := by cases k <;> rfl
@[simp] theorem Group.log_setSlot (g : Group) (k : SlotId) (p : Option Path) : (g.setSlot k p).log = g.log := by cases k <;> rfl
@[simp] theorem Group.remote_setSlot (g : Group) (k : SlotId) (p : Option Path) : (g.setSlot k p).remote = g.remote := by cases k <;> rfl
@[simp] theorem Group.asleep_setSlot (g : Group) (k : SlotId) (p : Option Path) : (g.setSlot k p).asleep = g.asleep := by cases k <;> rfl
@[simp] theorem Group.mx_setSlot (g : Group) (k : SlotId) (p : Option Path) : (g.setSlot k p).mx = g.mx := by cases k <;> rfl
@[simp] theorem Group.frozen_setSlot (g : Group) (k : SlotId) (p : Option Path) : (g.setSlot k p).frozen = g.frozen := by cases k <;> rfl
@[simp] theorem Group.mxFault_setSlot (g : Group) (k : SlotId) (p : Option Path) : (g.setSlot k p).mxFault = g.mxFault := by cases k <;> rfl
@[simp] theorem Group.copyFaults_setSlot (g : Group) (k : SlotId) (p : Option Path) : (g.setSlot k p).copyFaults = g.copyFaults := by cases k <;> rfl
@[simp] theorem Group.husk_setSlot (g : Group) (k : SlotId) (p : Option Path) : (g.setSlot k p).husk = g.husk := by cases k <;> rfl
@[simp] theorem Group.deliv_setSlot (g : Group) (k : SlotId) (p : Option Path) : (g.setSlot k p).deliv = g.deliv := by cases k <;> rfl
@[simp] theorem Group.abort_setSlot (g : Group) (k : SlotId) (p : Option Path) : (g.setSlot k p).abort = g.abort := by cases k <;> rfl
@[simp] theorem Group.adopted_setSlot (g : Group) (k : SlotId) (p : Option Path) : (g.setSlot k p).adopted = g.adopted := by cases k <;> rfl
@[simp] theorem Group.kdata_setSlot (g : Group) (k : SlotId) (p : Option Path) : (g.setSlot k p).kdata = g.kdata := by cases k <;> rfl
@[simp] theorem Group.heard_setSlot (g : Group) (k : SlotId) (p : Option Path) : (g.setSlot k p).heard = g.heard := by cases k <;> rfl
@[simp] theorem Group.sched_setSlot (g : Group) (k : SlotId) (p : Option Path) : (g.setSlot k p).sched = g.sched := by cases k <;> rfl
@[simp] theorem Group.spilt_setSlot (g : Group) (k : SlotId) (p : Option Path) : (g.setSlot k p).spilt = g.spilt := by cases k <;> rfl
@[simp] theorem Group.l1Since_setSlot (g : Group) (k : SlotId) (p : Option Path) : (g.setSlot k p).l1Since = g.l1Since := by cases k <;> rfl
@[simp] theorem Group.live_setSlot (g : Group) (k : SlotId) (p : Option Path) : (g.setSlot k p).live = g.live := by cases k <;> rfl

/-! ### Group.setVreg -/

@[simp] theorem Group.team_setVreg (g : Group) (r : Nat) (x : VReg) : (g.setVreg r x).team = g.team := rfl
@[simp] theorem Group.gid_setVreg (g : Group) (r : Nat) (x : VReg) : (g.setVreg r x).gid = g.gid := rfl
@[simp] theorem Group.width_setVreg (g : Group) (r : Nat) (x : VReg) : (g.setVreg r x).width = g.width := rfl
@[simp] theorem Group.hwslot_setVreg (g : Group) (r : Nat) (x : VReg) : (g.setVreg r x).hwslot = g.hwslot := rfl
@[simp] theorem Group.lslot_setVreg (g : Group) (r : Nat) (x : VReg) : (g.setVreg r x).lslot = g.lslot := rfl
@[simp] theorem Group.key_setVreg (g : Group) (r : Nat) (x : VReg) : (g.setVreg r x).key = g.key := rfl
@[simp] theorem Group.p_setVreg (g : Group) (r : Nat) (x : VReg) : (g.setVreg r x).p = g.p := rfl
@[simp] theorem Group.pPoison_setVreg (g : Group) (r : Nat) (x : VReg) : (g.setVreg r x).pPoison = g.pPoison := rfl
@[simp] theorem Group.x_setVreg (g : Group) (r : Nat) (x : VReg) : (g.setVreg r x).x = g.x := rfl
@[simp] theorem Group.a_setVreg (g : Group) (r : Nat) (x : VReg) : (g.setVreg r x).a = g.a := rfl
@[simp] theorem Group.f_setVreg (g : Group) (r : Nat) (x : VReg) : (g.setVreg r x).f = g.f := rfl
@[simp] theorem Group.j_setVreg (g : Group) (r : Nat) (x : VReg) : (g.setVreg r x).j = g.j := rfl
@[simp] theorem Group.ob_setVreg (g : Group) (r : Nat) (x : VReg) : (g.setVreg r x).ob = g.ob := rfl
@[simp] theorem Group.b_setVreg (g : Group) (r : Nat) (x : VReg) : (g.setVreg r x).b = g.b := rfl
@[simp] theorem Group.tiles_setVreg (g : Group) (r : Nat) (x : VReg) : (g.setVreg r x).tiles = g.tiles := rfl
@[simp] theorem Group.foldpol_setVreg (g : Group) (r : Nat) (x : VReg) : (g.setVreg r x).foldpol = g.foldpol := rfl
@[simp] theorem Group.matcnt_setVreg (g : Group) (r : Nat) (x : VReg) : (g.setVreg r x).matcnt = g.matcnt := rfl
@[simp] theorem Group.rngs_setVreg (g : Group) (r : Nat) (x : VReg) : (g.setVreg r x).rngs = g.rngs := rfl
@[simp] theorem Group.scopes_setVreg (g : Group) (r : Nat) (x : VReg) : (g.setVreg r x).scopes = g.scopes := rfl
@[simp] theorem Group.slotA_setVreg (g : Group) (r : Nat) (x : VReg) : (g.setVreg r x).slotA = g.slotA := rfl
@[simp] theorem Group.slotB_setVreg (g : Group) (r : Nat) (x : VReg) : (g.setVreg r x).slotB = g.slotB := rfl
@[simp] theorem Group.stack_setVreg (g : Group) (r : Nat) (x : VReg) : (g.setVreg r x).stack = g.stack := rfl
@[simp] theorem Group.tstack_setVreg (g : Group) (r : Nat) (x : VReg) : (g.setVreg r x).tstack = g.tstack := rfl
@[simp] theorem Group.exited_setVreg (g : Group) (r : Nat) (x : VReg) : (g.setVreg r x).exited = g.exited := rfl
@[simp] theorem Group.trap_setVreg (g : Group) (r : Nat) (x : VReg) : (g.setVreg r x).trap = g.trap := rfl
@[simp] theorem Group.deferred_setVreg (g : Group) (r : Nat) (x : VReg) : (g.setVreg r x).deferred = g.deferred := rfl
@[simp] theorem Group.log_setVreg (g : Group) (r : Nat) (x : VReg) : (g.setVreg r x).log = g.log := rfl
@[simp] theorem Group.remote_setVreg (g : Group) (r : Nat) (x : VReg) : (g.setVreg r x).remote = g.remote := rfl
@[simp] theorem Group.asleep_setVreg (g : Group) (r : Nat) (x : VReg) : (g.setVreg r x).asleep = g.asleep := rfl
@[simp] theorem Group.mx_setVreg (g : Group) (r : Nat) (x : VReg) : (g.setVreg r x).mx = g.mx := rfl
@[simp] theorem Group.frozen_setVreg (g : Group) (r : Nat) (x : VReg) : (g.setVreg r x).frozen = g.frozen := rfl
@[simp] theorem Group.mxFault_setVreg (g : Group) (r : Nat) (x : VReg) : (g.setVreg r x).mxFault = g.mxFault := rfl
@[simp] theorem Group.copyFaults_setVreg (g : Group) (r : Nat) (x : VReg) : (g.setVreg r x).copyFaults = g.copyFaults := rfl
@[simp] theorem Group.husk_setVreg (g : Group) (r : Nat) (x : VReg) : (g.setVreg r x).husk = g.husk := rfl
@[simp] theorem Group.deliv_setVreg (g : Group) (r : Nat) (x : VReg) : (g.setVreg r x).deliv = g.deliv := rfl
@[simp] theorem Group.abort_setVreg (g : Group) (r : Nat) (x : VReg) : (g.setVreg r x).abort = g.abort := rfl
@[simp] theorem Group.adopted_setVreg (g : Group) (r : Nat) (x : VReg) : (g.setVreg r x).adopted = g.adopted := rfl
@[simp] theorem Group.kdata_setVreg (g : Group) (r : Nat) (x : VReg) : (g.setVreg r x).kdata = g.kdata := rfl
@[simp] theorem Group.heard_setVreg (g : Group) (r : Nat) (x : VReg) : (g.setVreg r x).heard = g.heard := rfl
@[simp] theorem Group.sched_setVreg (g : Group) (r : Nat) (x : VReg) : (g.setVreg r x).sched = g.sched := rfl
@[simp] theorem Group.spilt_setVreg (g : Group) (r : Nat) (x : VReg) : (g.setVreg r x).spilt = g.spilt := rfl
@[simp] theorem Group.l1Since_setVreg (g : Group) (r : Nat) (x : VReg) : (g.setVreg r x).l1Since = g.l1Since := rfl
@[simp] theorem Group.live_setVreg (g : Group) (r : Nat) (x : VReg) : (g.setVreg r x).live = g.live := rfl

/-! ### Group.setAreg -/

@[simp] theorem Group.team_setAreg (g : Group) (n : BitVec 4) (d : Desc) : (g.setAreg n d).team = g.team := rfl
@[simp] theorem Group.gid_setAreg (g : Group) (n : BitVec 4) (d : Desc) : (g.setAreg n d).gid = g.gid := rfl
@[simp] theorem Group.width_setAreg (g : Group) (n : BitVec 4) (d : Desc) : (g.setAreg n d).width = g.width := rfl
@[simp] theorem Group.hwslot_setAreg (g : Group) (n : BitVec 4) (d : Desc) : (g.setAreg n d).hwslot = g.hwslot := rfl
@[simp] theorem Group.lslot_setAreg (g : Group) (n : BitVec 4) (d : Desc) : (g.setAreg n d).lslot = g.lslot := rfl
@[simp] theorem Group.key_setAreg (g : Group) (n : BitVec 4) (d : Desc) : (g.setAreg n d).key = g.key := rfl
@[simp] theorem Group.v_setAreg (g : Group) (n : BitVec 4) (d : Desc) : (g.setAreg n d).v = g.v := rfl
@[simp] theorem Group.p_setAreg (g : Group) (n : BitVec 4) (d : Desc) : (g.setAreg n d).p = g.p := rfl
@[simp] theorem Group.pPoison_setAreg (g : Group) (n : BitVec 4) (d : Desc) : (g.setAreg n d).pPoison = g.pPoison := rfl
@[simp] theorem Group.x_setAreg (g : Group) (n : BitVec 4) (d : Desc) : (g.setAreg n d).x = g.x := rfl
@[simp] theorem Group.f_setAreg (g : Group) (n : BitVec 4) (d : Desc) : (g.setAreg n d).f = g.f := rfl
@[simp] theorem Group.j_setAreg (g : Group) (n : BitVec 4) (d : Desc) : (g.setAreg n d).j = g.j := rfl
@[simp] theorem Group.ob_setAreg (g : Group) (n : BitVec 4) (d : Desc) : (g.setAreg n d).ob = g.ob := rfl
@[simp] theorem Group.b_setAreg (g : Group) (n : BitVec 4) (d : Desc) : (g.setAreg n d).b = g.b := rfl
@[simp] theorem Group.tiles_setAreg (g : Group) (n : BitVec 4) (d : Desc) : (g.setAreg n d).tiles = g.tiles := rfl
@[simp] theorem Group.foldpol_setAreg (g : Group) (n : BitVec 4) (d : Desc) : (g.setAreg n d).foldpol = g.foldpol := rfl
@[simp] theorem Group.matcnt_setAreg (g : Group) (n : BitVec 4) (d : Desc) : (g.setAreg n d).matcnt = g.matcnt := rfl
@[simp] theorem Group.rngs_setAreg (g : Group) (n : BitVec 4) (d : Desc) : (g.setAreg n d).rngs = g.rngs := rfl
@[simp] theorem Group.scopes_setAreg (g : Group) (n : BitVec 4) (d : Desc) : (g.setAreg n d).scopes = g.scopes := rfl
@[simp] theorem Group.slotA_setAreg (g : Group) (n : BitVec 4) (d : Desc) : (g.setAreg n d).slotA = g.slotA := rfl
@[simp] theorem Group.slotB_setAreg (g : Group) (n : BitVec 4) (d : Desc) : (g.setAreg n d).slotB = g.slotB := rfl
@[simp] theorem Group.stack_setAreg (g : Group) (n : BitVec 4) (d : Desc) : (g.setAreg n d).stack = g.stack := rfl
@[simp] theorem Group.tstack_setAreg (g : Group) (n : BitVec 4) (d : Desc) : (g.setAreg n d).tstack = g.tstack := rfl
@[simp] theorem Group.exited_setAreg (g : Group) (n : BitVec 4) (d : Desc) : (g.setAreg n d).exited = g.exited := rfl
@[simp] theorem Group.trap_setAreg (g : Group) (n : BitVec 4) (d : Desc) : (g.setAreg n d).trap = g.trap := rfl
@[simp] theorem Group.deferred_setAreg (g : Group) (n : BitVec 4) (d : Desc) : (g.setAreg n d).deferred = g.deferred := rfl
@[simp] theorem Group.log_setAreg (g : Group) (n : BitVec 4) (d : Desc) : (g.setAreg n d).log = g.log := rfl
@[simp] theorem Group.remote_setAreg (g : Group) (n : BitVec 4) (d : Desc) : (g.setAreg n d).remote = g.remote := rfl
@[simp] theorem Group.asleep_setAreg (g : Group) (n : BitVec 4) (d : Desc) : (g.setAreg n d).asleep = g.asleep := rfl
@[simp] theorem Group.mx_setAreg (g : Group) (n : BitVec 4) (d : Desc) : (g.setAreg n d).mx = g.mx := rfl
@[simp] theorem Group.frozen_setAreg (g : Group) (n : BitVec 4) (d : Desc) : (g.setAreg n d).frozen = g.frozen := rfl
@[simp] theorem Group.mxFault_setAreg (g : Group) (n : BitVec 4) (d : Desc) : (g.setAreg n d).mxFault = g.mxFault := rfl
@[simp] theorem Group.copyFaults_setAreg (g : Group) (n : BitVec 4) (d : Desc) : (g.setAreg n d).copyFaults = g.copyFaults := rfl
@[simp] theorem Group.husk_setAreg (g : Group) (n : BitVec 4) (d : Desc) : (g.setAreg n d).husk = g.husk := rfl
@[simp] theorem Group.deliv_setAreg (g : Group) (n : BitVec 4) (d : Desc) : (g.setAreg n d).deliv = g.deliv := rfl
@[simp] theorem Group.abort_setAreg (g : Group) (n : BitVec 4) (d : Desc) : (g.setAreg n d).abort = g.abort := rfl
@[simp] theorem Group.adopted_setAreg (g : Group) (n : BitVec 4) (d : Desc) : (g.setAreg n d).adopted = g.adopted := rfl
@[simp] theorem Group.kdata_setAreg (g : Group) (n : BitVec 4) (d : Desc) : (g.setAreg n d).kdata = g.kdata := rfl
@[simp] theorem Group.heard_setAreg (g : Group) (n : BitVec 4) (d : Desc) : (g.setAreg n d).heard = g.heard := rfl
@[simp] theorem Group.sched_setAreg (g : Group) (n : BitVec 4) (d : Desc) : (g.setAreg n d).sched = g.sched := rfl
@[simp] theorem Group.spilt_setAreg (g : Group) (n : BitVec 4) (d : Desc) : (g.setAreg n d).spilt = g.spilt := rfl
@[simp] theorem Group.l1Since_setAreg (g : Group) (n : BitVec 4) (d : Desc) : (g.setAreg n d).l1Since = g.l1Since := rfl
@[simp] theorem Group.live_setAreg (g : Group) (n : BitVec 4) (d : Desc) : (g.setAreg n d).live = g.live := rfl

/-! ### Group.setStack -/

@[simp] theorem Group.team_setStack (g : Group) (st : List DivEntry) : (g.setStack st).team = g.team := by unfold Group.setStack; split <;> rfl
@[simp] theorem Group.gid_setStack (g : Group) (st : List DivEntry) : (g.setStack st).gid = g.gid := by unfold Group.setStack; split <;> rfl
@[simp] theorem Group.width_setStack (g : Group) (st : List DivEntry) : (g.setStack st).width = g.width := by unfold Group.setStack; split <;> rfl
@[simp] theorem Group.hwslot_setStack (g : Group) (st : List DivEntry) : (g.setStack st).hwslot = g.hwslot := by unfold Group.setStack; split <;> rfl
@[simp] theorem Group.lslot_setStack (g : Group) (st : List DivEntry) : (g.setStack st).lslot = g.lslot := by unfold Group.setStack; split <;> rfl
@[simp] theorem Group.key_setStack (g : Group) (st : List DivEntry) : (g.setStack st).key = g.key := by unfold Group.setStack; split <;> rfl
@[simp] theorem Group.v_setStack (g : Group) (st : List DivEntry) : (g.setStack st).v = g.v := by unfold Group.setStack; split <;> rfl
@[simp] theorem Group.p_setStack (g : Group) (st : List DivEntry) : (g.setStack st).p = g.p := by unfold Group.setStack; split <;> rfl
@[simp] theorem Group.pPoison_setStack (g : Group) (st : List DivEntry) : (g.setStack st).pPoison = g.pPoison := by unfold Group.setStack; split <;> rfl
@[simp] theorem Group.x_setStack (g : Group) (st : List DivEntry) : (g.setStack st).x = g.x := by unfold Group.setStack; split <;> rfl
@[simp] theorem Group.a_setStack (g : Group) (st : List DivEntry) : (g.setStack st).a = g.a := by unfold Group.setStack; split <;> rfl
@[simp] theorem Group.f_setStack (g : Group) (st : List DivEntry) : (g.setStack st).f = g.f := by unfold Group.setStack; split <;> rfl
@[simp] theorem Group.j_setStack (g : Group) (st : List DivEntry) : (g.setStack st).j = g.j := by unfold Group.setStack; split <;> rfl
@[simp] theorem Group.ob_setStack (g : Group) (st : List DivEntry) : (g.setStack st).ob = g.ob := by unfold Group.setStack; split <;> rfl
@[simp] theorem Group.b_setStack (g : Group) (st : List DivEntry) : (g.setStack st).b = g.b := by unfold Group.setStack; split <;> rfl
@[simp] theorem Group.tiles_setStack (g : Group) (st : List DivEntry) : (g.setStack st).tiles = g.tiles := by unfold Group.setStack; split <;> rfl
@[simp] theorem Group.foldpol_setStack (g : Group) (st : List DivEntry) : (g.setStack st).foldpol = g.foldpol := by unfold Group.setStack; split <;> rfl
@[simp] theorem Group.matcnt_setStack (g : Group) (st : List DivEntry) : (g.setStack st).matcnt = g.matcnt := by unfold Group.setStack; split <;> rfl
@[simp] theorem Group.rngs_setStack (g : Group) (st : List DivEntry) : (g.setStack st).rngs = g.rngs := by unfold Group.setStack; split <;> rfl
@[simp] theorem Group.scopes_setStack (g : Group) (st : List DivEntry) : (g.setStack st).scopes = g.scopes := by unfold Group.setStack; split <;> rfl
@[simp] theorem Group.slotA_setStack (g : Group) (st : List DivEntry) : (g.setStack st).slotA = g.slotA := by unfold Group.setStack; split <;> rfl
@[simp] theorem Group.slotB_setStack (g : Group) (st : List DivEntry) : (g.setStack st).slotB = g.slotB := by unfold Group.setStack; split <;> rfl
@[simp] theorem Group.exited_setStack (g : Group) (st : List DivEntry) : (g.setStack st).exited = g.exited := by unfold Group.setStack; split <;> rfl
@[simp] theorem Group.trap_setStack (g : Group) (st : List DivEntry) : (g.setStack st).trap = g.trap := by unfold Group.setStack; split <;> rfl
@[simp] theorem Group.deferred_setStack (g : Group) (st : List DivEntry) : (g.setStack st).deferred = g.deferred := by unfold Group.setStack; split <;> rfl
@[simp] theorem Group.log_setStack (g : Group) (st : List DivEntry) : (g.setStack st).log = g.log := by unfold Group.setStack; split <;> rfl
@[simp] theorem Group.remote_setStack (g : Group) (st : List DivEntry) : (g.setStack st).remote = g.remote := by unfold Group.setStack; split <;> rfl
@[simp] theorem Group.asleep_setStack (g : Group) (st : List DivEntry) : (g.setStack st).asleep = g.asleep := by unfold Group.setStack; split <;> rfl
@[simp] theorem Group.mx_setStack (g : Group) (st : List DivEntry) : (g.setStack st).mx = g.mx := by unfold Group.setStack; split <;> rfl
@[simp] theorem Group.frozen_setStack (g : Group) (st : List DivEntry) : (g.setStack st).frozen = g.frozen := by unfold Group.setStack; split <;> rfl
@[simp] theorem Group.mxFault_setStack (g : Group) (st : List DivEntry) : (g.setStack st).mxFault = g.mxFault := by unfold Group.setStack; split <;> rfl
@[simp] theorem Group.copyFaults_setStack (g : Group) (st : List DivEntry) : (g.setStack st).copyFaults = g.copyFaults := by unfold Group.setStack; split <;> rfl
@[simp] theorem Group.husk_setStack (g : Group) (st : List DivEntry) : (g.setStack st).husk = g.husk := by unfold Group.setStack; split <;> rfl
@[simp] theorem Group.deliv_setStack (g : Group) (st : List DivEntry) : (g.setStack st).deliv = g.deliv := by unfold Group.setStack; split <;> rfl
@[simp] theorem Group.abort_setStack (g : Group) (st : List DivEntry) : (g.setStack st).abort = g.abort := by unfold Group.setStack; split <;> rfl
@[simp] theorem Group.adopted_setStack (g : Group) (st : List DivEntry) : (g.setStack st).adopted = g.adopted := by unfold Group.setStack; split <;> rfl
@[simp] theorem Group.kdata_setStack (g : Group) (st : List DivEntry) : (g.setStack st).kdata = g.kdata := by unfold Group.setStack; split <;> rfl
@[simp] theorem Group.heard_setStack (g : Group) (st : List DivEntry) : (g.setStack st).heard = g.heard := by unfold Group.setStack; split <;> rfl
@[simp] theorem Group.sched_setStack (g : Group) (st : List DivEntry) : (g.setStack st).sched = g.sched := by unfold Group.setStack; split <;> rfl
@[simp] theorem Group.spilt_setStack (g : Group) (st : List DivEntry) : (g.setStack st).spilt = g.spilt := by unfold Group.setStack; split <;> rfl
@[simp] theorem Group.l1Since_setStack (g : Group) (st : List DivEntry) : (g.setStack st).l1Since = g.l1Since := by unfold Group.setStack; split <;> rfl
@[simp] theorem Group.live_setStack (g : Group) (st : List DivEntry) : (g.setStack st).live = g.live := by unfold Group.setStack; split <;> rfl

end Sys2Proof.Machine
end

