-- ==== Sys2Proof/Laws/Events.lean ====
section
/-! SUPPORT. What the shared operations of the events can do, said once: a flit at a port, a packet at a queue's read index, a group woken. -/

namespace Sys2Proof.Machine

/-! ### Flits (R120, R121, R124) -/

/-- A flit that a port does not accept is dropped. -/
theorem State.arrive_dropped {s : State} {port type : Nat} {f : Flit} (h : s.accepts port type f = none) (here : State → State) :
    s.arrive port type f here = s.drops port (s.noRoom port type f) := by
  simp [State.arrive, h]

/-- An accepted flit for this package has its meaning here. -/
theorem State.arrive_here {s s1 : State} {port type : Nat} {f : Flit} (h : s.accepts port type f = some s1) (hd : f.dst = s1.pkgId)
    (here : State → State) : s.arrive port type f here = here s1 := by
  simp [State.arrive, h, hd]

/-- An accepted flit for another package, of a type that travels, goes on. -/
theorem State.arrive_forwarded {s s1 : State} {port type : Nat} {f : Flit} (h : s.accepts port type f = some s1) (hd : f.dst ≠ s1.pkgId)
    (h0 : type ≠ 0) (h8 : type ≠ 8) (here : State → State) : s.arrive port type f here = s1.forward type f := by
  simp [State.arrive, h, hd, h0, h8]

/-- Acceptance changes nothing but the ports. -/
theorem State.accepts_ports {s s1 : State} {port type : Nat} {f : Flit} (h : s.accepts port type f = some s1) :
    s1 = { s with ports := s1.ports } := by
  unfold State.accepts at h
  simp only at h
  split at h
  · cases h
  · split at h
    · cases h
    · cases h; rfl

/-- Sending a flit changes nothing but the ports. -/
theorem State.enqueue_ports (s : State) (port type : Nat) (f : Flit) : s.enqueue port type f = { s with ports := (s.enqueue port type f).ports } := rfl

/-- A flit sent on its way, other than a chunk's, is held or in a send queue, or has no way. -/
theorem State.emit_ports (s : State) {type : Nat} (pa : Nat) (f : Flit) (h : type ≠ 7) :
    s.emit type pa f = { s with ports := (s.emit type pa f).ports, held := (s.emit type pa f).held } := by
  unfold State.emit State.noteVia
  split
  · rfl
  · simp only [bne_iff_ne, ne_eq, h, not_false_eq_true, if_true]
    split <;> rfl

/-- Answering a flit changes nothing but the ports and what is held for a change of a route. -/
theorem State.answer_ports (s : State) (f : Flit) {type : Nat} (l : List Byte) (h : type ≠ 7) :
    s.answer f type l = { s with ports := (s.answer f type l).ports, held := (s.answer f type l).held } := s.emit_ports 0 _ h

/-! ### Sleeping groups (R24) -/

/-- A group woken stands behind its instruction, and sleeps no longer. -/
theorem State.wake_group {s : State} {n : Nat} {g : Group} (hg : s.group n = some g) (slot : SlotId) (words : Nat) :
    s.wake n slot words = s.setGroup n (Group.setSlot { g with asleep := none } slot
      ((g.slot slot).map fun p => { p with pc := p.pc + BitVec.ofNat 64 (4 * words) })) := by
  simp [State.wake, hg]

/-! ### Packets (R322) -/

/-- A well-formed packet of a type that an event serves has the event's effect, in the state that reading the ring leaves. -/
theorem State.onPacket_body {s s1 : State} {slot q : Nat} {w : List Nat} {mine : Nat → Bool} {body : Packet → State → State}
    (hq : (s.qslot slot).queue = some q) (ho : s.queueOpen slot q = true) (ha : s.queueAsOk q = true) (hw : s.packetWords q = .ok w s1)
    (hm : mine (Packet.type ⟨slot, q, s.qAsid q, s.qPart q, w⟩) = true) (h5 : Packet.type ⟨slot, q, s.qAsid q, s.qPart q, w⟩ < 5)
    (hf : Packet.wellFormed ⟨slot, q, s.qAsid q, s.qPart q, w⟩ = true)
    (hb : bitsOf (Packet.word ⟨slot, q, s.qAsid q, s.qPart q, w⟩ 0) 8 1 = 1 → s.queueBusy q false = false) :
    s.onPacket slot mine body = body ⟨slot, q, s.qAsid q, s.qPart q, w⟩ s1 := by
  have h5' : ¬ 5 ≤ Packet.type ⟨slot, q, s.qAsid q, s.qPart q, w⟩ := by omega
  unfold State.onPacket
  simp only [hq, ho, ha, hw, hm, h5', hf, Bool.not_true, Bool.false_eq_true, if_false]
  split
  · rename_i h
    simp only [Bool.and_eq_true, beq_iff_eq] at h
    rw [hb h.1] at h
    cases h.2
  · rfl

end Sys2Proof.Machine
end

