-- ==== Sys2Proof/Laws/Tables.lean ====
section
/-! SUPPORT. Tables with a default and lane masks: reading after writing, and the bits of a mask built from a function. -/

namespace Sys2Proof

@[simp] theorem Tbl.get_nil {α : Type} (d : α) (i : Nat) : Tbl.get d [] i = d := by cases i <;> rfl

/-- Reading the entry just written gives it. -/
@[simp] theorem Tbl.get_set_same {α : Type} (d : α) (l : List α) (i : Nat) (v : α) : Tbl.get d (Tbl.set d l i v) i = v := by
  fun_induction Tbl.set d l i v <;> simp_all [Tbl.get]

/-- Reading another entry gives what it held. -/
theorem Tbl.get_set_ne {α : Type} (d : α) (l : List α) {i j : Nat} (v : α) (h : j ≠ i) :
    Tbl.get d (Tbl.set d l i v) j = Tbl.get d l j := by
  fun_induction Tbl.set d l i v generalizing j <;> cases j <;> simp_all [Tbl.get]

/-- Reading after a write, in one equation. -/
theorem Tbl.get_set {α : Type} (d : α) (l : List α) (i j : Nat) (v : α) :
    Tbl.get d (Tbl.set d l i v) j = if j = i then v else Tbl.get d l j := by
  by_cases h : j = i
  · simp [h]
  · simp [h, Tbl.get_set_ne]

/-- Writing an entry twice keeps the second value. -/
@[simp] theorem Tbl.set_set {α : Type} (d : α) (l : List α) (i : Nat) (v w : α) :
    Tbl.set d (Tbl.set d l i v) i w = Tbl.set d l i w := by
  fun_induction Tbl.set d l i v <;> simp_all [Tbl.set]

/-- Entry i of a mapped range. -/
theorem Tbl.get_map_range {α : Type} (d : α) (f : Nat → α) (n i : Nat) :
    Tbl.get d ((List.range n).map f) i = if i < n then f i else d := by
  induction n generalizing i f with
  | zero => simp
  | succ n ih =>
    rw [List.range_succ_eq_map]
    cases i with
    | zero => simp [Tbl.get]
    | succ m =>
      have := ih (fun k => f (k + 1)) m
      simpa [Tbl.get, Function.comp_def] using this

/-- Entry i of a constant list. -/
theorem Tbl.get_replicate {α : Type} (d v : α) (n i : Nat) :
    Tbl.get d (List.replicate n v) i = if i < n then v else d := by
  induction n generalizing i with
  | zero => simp
  | succ n ih => cases i with
    | zero => simp [List.replicate_succ, Tbl.get]
    | succ m => simpa [List.replicate_succ, Tbl.get] using ih m

theorem Mask.fold_shift (f : Nat → Bool) (n a : Nat) :
    (List.range n).foldl (fun acc i => if f i then acc + 2 ^ i else acc) a =
      a + (List.range n).foldl (fun acc i => if f i then acc + 2 ^ i else acc) 0 := by
  induction n with
  | zero => simp
  | succ n ih =>
    simp only [List.range_succ, List.foldl_append, List.foldl_cons, List.foldl_nil]
    rw [ih]
    split <;> omega

theorem Mask.fold_lt (f : Nat → Bool) (n : Nat) :
    (List.range n).foldl (fun acc i => if f i then acc + 2 ^ i else acc) 0 < 2 ^ n := by
  induction n with
  | zero => simp
  | succ n ih =>
    simp only [List.range_succ, List.foldl_append, List.foldl_cons, List.foldl_nil, Nat.pow_succ]
    split <;> omega

theorem Mask.fold_testBit (f : Nat → Bool) (n i : Nat) (h : i < n) :
    ((List.range n).foldl (fun acc i => if f i then acc + 2 ^ i else acc) 0).testBit i = f i := by
  induction n with
  | zero => omega
  | succ n ih =>
    simp only [List.range_succ, List.foldl_append, List.foldl_cons, List.foldl_nil]
    have hl := Mask.fold_lt f n
    by_cases hi : i = n
    · subst hi
      cases hf : f i
      · simpa using Nat.testBit_lt_two_pow hl
      · simp only [if_true, Nat.add_comm _ (2 ^ i), Nat.testBit_two_pow_add_eq, Nat.testBit_lt_two_pow hl, Bool.not_false]
    · have hlt : i < n := by omega
      cases hf : f n
      · simpa using ih hlt
      · simp only [if_true, Nat.add_comm _ (2 ^ n), Nat.testBit_two_pow_add_gt hlt, ih hlt]

/-- Bit i of a mask built from a function. -/
@[simp] theorem Mask.getLsbD_ofFn (f : Nat → Bool) (i : Nat) : (Mask.ofFn f).getLsbD i = (decide (i < 64) && f i) := by
  by_cases h : i < 64
  · rw [Mask.ofFn, BitVec.getLsbD_ofNat, Mask.fold_testBit f 64 i h]
  · simp [h, BitVec.getLsbD_of_ge _ _ (Nat.le_of_not_lt h)]

/-- The lanes of a mask are the positions of its bits. -/
theorem Mask.mem_lanes (m : Mask) (i : Nat) : i ∈ m.lanes ↔ i < 64 ∧ m.getLsbD i = true := by
  simp [Mask.lanes]

/-- The lowest lane of a mask is one of its lanes. -/
theorem Mask.lowest_active {m : Mask} {l : Nat} (h : m.lowest = some l) : m.getLsbD l = true ∧ l < 64 := by
  have h1 := List.find?_some h
  have h2 := List.mem_of_find?_eq_some h
  exact ⟨by simpa using h1, by simpa using h2⟩

end Sys2Proof
end

