-- ==== Sys2Proof/Laws/Issue.lean ====
section
/-! SUPPORT. Issue, once for every instruction: where an instruction has its effect, what `issue` answers; and what the bookkeeping around an effect
(recipes, folded registers, slices, capsules, row storage) does where nothing of it is in play: nothing. -/

namespace Sys2Proof.Machine

/-! ### Groups and teams by number -/

@[simp] theorem State.group_setGroup_same (s : State) (n : Nat) (g : Group) : (s.setGroup n g).group n = some g := by
  simp [State.group, State.setGroup]
theorem State.group_setGroup_ne (s : State) {n k : Nat} (g : Group) (h : k ≠ n) : (s.setGroup n g).group k = s.group k := by
  simp [State.group, State.setGroup, Tbl.get_set_ne _ _ _ h]
@[simp] theorem State.setGroup_setGroup (s : State) (n : Nat) (g g' : Group) : (s.setGroup n g).setGroup n g' = s.setGroup n g' := by
  simp [State.setGroup]
@[simp] theorem State.team_setGroup (s : State) (n k : Nat) (g : Group) : (s.setGroup n g).team k = s.team k := rfl
@[simp] theorem State.launch_setGroup (s : State) (n k : Nat) (g : Group) : (s.setGroup n g).launch k = s.launch k := rfl
@[simp] theorem State.teamOf_setGroup (s : State) (n : Nat) (g h : Group) : (s.setGroup n g).teamOf h = s.teamOf h := rfl
@[simp] theorem State.coreOf_setGroup (s : State) (n : Nat) (g h : Group) : (s.setGroup n g).coreOf h = s.coreOf h := rfl
@[simp] theorem State.floorOf_setGroup (s : State) (n : Nat) (g h : Group) : (s.setGroup n g).floorOf h = s.floorOf h := rfl
@[simp] theorem Group.slot_setSlot_same (g : Group) (k : SlotId) (p : Option Path) : (g.setSlot k p).slot k = p := by cases k <;> rfl
@[simp] theorem Group.vreg_setSlot (g : Group) (k : SlotId) (p : Option Path) (r : Nat) : (g.setSlot k p).vreg r = g.vreg r := by
  cases k <;> rfl
@[simp] theorem Group.setSlot_setSlot (g : Group) (k : SlotId) (p q : Option Path) : (g.setSlot k p).setSlot k q = g.setSlot k q := by
  cases k <;> rfl

/-! ### Issue -/

/-- An instruction that issues does what its body says. -/
theorem issue_body {c : Ctx} {i : Instr} (h : c.Issues i) (body : Ctx → Res) :
    issue i c.s body = match body c with
      | .ok s1 => .next ((c.sliceStep i (c.huskStep s1)).fitAreas c.n c.g.inRows)
      | .hold s1 => .next { s1 with chain := 0 }
      | .trap t s1 => .next (s1.takeTrap c.n c.slot ⟨t.cause, BitVec.ofNat 64 t.info, c.path.pc, false⟩)
      | .trapAt t pc s1 => .next (s1.takeTrap c.n c.slot ⟨t.cause, BitVec.ofNat 64 t.info, pc, false⟩) := by
  obtain ⟨⟨hc, hg, hp⟩, hd, ht⟩ := h
  obtain ⟨s, n, k, g, p⟩ := c
  simp only at hc hg hp hd ht
  unfold issue
  rw [hc, hg]
  simp only [hp, hd]
  rw [ht]
  try rfl

/-- A trap that an effect raises is taken with the instruction's PC (R332). -/
theorem issue_trap {c : Ctx} {i : Instr} (h : c.Issues i) {body : Ctx → Res} {t : Trap} {s1 : State} (hb : body c = .trap t s1) :
    issue i c.s body = .next (s1.takeTrap c.n c.slot ⟨t.cause, BitVec.ofNat 64 t.info, c.path.pc, false⟩) := by
  rw [issue_body h, hb]

/-- Where a path is live, an instruction answers a next state. -/
theorem issue_next {i : Instr} {s : State} {body : Ctx → Res} {g : Group} {p : Path}
    (hg : s.group s.cur.1 = some g) (hp : g.slot s.cur.2 = some p) : ∃ t, issue i s body = .next t := by
  unfold issue
  rw [hg]
  simp only [hp]
  repeat' split
  all_goals exact ⟨_, rfl⟩

/-- Issue never refuses, and stops with a fault only where no path is live. -/
theorem issue_next_or_fault (i : Instr) (s : State) (body : Ctx → Res) :
    (∃ t, issue i s body = .next t) ∨ issue i s body = .fault .noIssuingGroup :=
  match hg : s.group s.cur.1 with
  | none => .inr (by simp [issue, hg])
  | some g =>
    match hp : g.slot s.cur.2 with
    | none => .inr (by simp [issue, hg, hp])
    | some _ => .inl (issue_next hg hp)

/-! ### The bookkeeping around an effect -/

theorem Ctx.plain_recipe {c : Ctx} (h : c.plain = true) {r : Nat} (hr : r < 64) : (c.g.vreg r).recipe = none := by
  simp only [Ctx.plain, Bool.and_eq_true] at h
  have := List.all_eq_true.mp h.1.1.1.1 r (List.mem_range.mpr hr)
  simp only [Bool.and_eq_true, Option.isNone_iff_eq_none] at this
  exact this.1

theorem Ctx.sliceStep_plain {c : Ctx} (h : c.plain = true) (i : Instr) (s : State) : c.sliceStep i s = s := by
  simp only [Ctx.plain, Bool.and_eq_true, Option.isNone_iff_eq_none] at h
  simp [Ctx.sliceStep, h.1.1.2]

theorem Ctx.huskStep_plain {c : Ctx} (h : c.plain = true) (s : State) : c.huskStep s = s := by
  simp only [Ctx.plain, Bool.and_eq_true, Option.isNone_iff_eq_none] at h
  simp [Ctx.huskStep, h.1.2]

/-- The answers of other packages are forgotten where there are none. -/
theorem Ctx.unheard_plain {c : Ctx} (h : c.plain = true) {s : State} (hg : s.group c.n = some c.g) : c.unheard s = s.setGroup c.n c.g := by
  simp only [Ctx.plain, Bool.and_eq_true, List.isEmpty_iff] at h
  unfold Ctx.unheard Ctx.setG
  rw [hg]
  simp only [← h.2]

/-- A group has at most 128 rows of registers. -/
theorem Group.rowsHeld_le (g : Group) : g.rowsHeld ≤ 128 := by
  unfold Group.rowsHeld
  have h : ∀ p : Nat → Bool, ((List.range 64).filter p).length ≤ 64 := fun p => by
    simpa using List.length_filter_le p (List.range 64)
  have h2 : (if g.width = 64 then 2 else 1) ≤ 2 := by split <;> decide
  exact Nat.mul_le_mul (h _) h2

/-- Where the core has a row for every register nothing folds or spills. -/
theorem State.fitRows_enough {s : State} {n : Nat} {g : Group} (hg : s.group n = some g)
    (h : 128 ≤ s.rowLimit n g) (had : BitVec 64) : s.fitRows n had = s := by
  unfold State.fitRows
  rw [hg]
  dsimp only
  rw [if_pos (Nat.le_trans g.rowsHeld_le h)]

/-- Where the divergence entries have their places none moves (R278). -/
theorem State.respill_same {s : State} {n : Nat} {g : Group} (hg : s.group n = some g) (h : g.spiltNow = g.spilt) : s.respill n = s := by
  unfold State.respill
  simp only [hg, h, beq_self_eq_true, if_true]

theorem Tbl.set_length {α : Type} (d : α) (l : List α) {i : Nat} (v : α) (h : i < l.length) : (Tbl.set d l i v).length = l.length := by
  fun_induction Tbl.set d l i v <;> simp_all

theorem Tbl.lt_of_get {α : Type} (l : List (Option α)) {i : Nat} {x : α} (h : Tbl.get none l i = some x) : i < l.length := by
  induction l generalizing i with
  | nil => simp at h
  | cons y ys ih => cases i with
    | zero => simp
    | succ n => simpa using ih h

/-- The other groups' rows do not change with a group. -/
theorem State.rowsOthers_setGroup {s : State} {n : Nat} {g g' : Group} (hg : s.group n = some g) (ht : g'.team = g.team) :
    (s.setGroup n g').rowsOthers n g' = s.rowsOthers n g := by
  have hcore : ∀ h : Group, (s.setGroup n g').coreOf h = s.coreOf h := fun _ => rfl
  have hc2 : s.coreOf g' = s.coreOf g := by simp only [State.coreOf, State.teamOf, ht]
  unfold State.rowsOthers
  have hres : ((s.setGroup n g').resident.filter fun e => e.1 != n && (s.setGroup n g').coreOf e.2 == (s.setGroup n g').coreOf g') =
      s.resident.filter fun e => e.1 != n && s.coreOf e.2 == s.coreOf g := by
    simp only [hcore, hc2, State.resident]
    have hl : (s.setGroup n g').groups.length = s.groups.length := Tbl.set_length _ _ _ (Tbl.lt_of_get _ hg)
    rw [hl, List.filter_filterMap, List.filter_filterMap]
    apply List.filterMap_congr
    intro k _
    by_cases hk : k = n
    · subst hk
      simp [hg, Option.filter]
    · rw [State.group_setGroup_ne s g' hk]
  rw [hres]
  simp

/-! ### Forming operands and writing registers, where no register carries a recipe -/

theorem State.formReg_plain {s : State} {g : Group} {r : Nat} (h : (g.vreg r).recipe = none) : s.formReg g r = .ok s g := by
  unfold State.formReg
  rw [h]
  split <;> first | rfl | (rename_i h2; cases h2)

theorem State.formAll_plain {s : State} {g : Group} {l : List Nat} (h : ∀ r ∈ l, (g.vreg r).recipe = none) :
    s.formAll g l = .ok s g := by
  induction l with
  | nil => rfl
  | cons r rs ih =>
    unfold State.formAll
    rw [State.formReg_plain (h r (by simp))]
    exact ih fun x hx => h x (by simp [hx])

theorem mem_vList {v : BitVec 64} {r : Nat} (h : r ∈ vList v) : r < 64 := by
  have := (List.mem_filter.mp h).1
  simpa using this

/-- Operands need no forming (R147). -/
theorem Ctx.formAll_plain {c : Ctx} (h : c.plain = true) (m : BitVec 64) : c.s.formAll c.g (vList m) = .ok c.s c.g :=
  State.formAll_plain fun _ hr => Ctx.plain_recipe h (mem_vList hr)

/-- An instruction whose operands need no forming goes on with the state as it is. -/
theorem Ctx.withForm_plain {c : Ctx} (h : c.plain = true) (i : Instr) (body : State → Group → Res) :
    c.withForm i body = body c.s c.g := by
  unfold Ctx.withForm
  rw [Ctx.formAll_plain h]

theorem Group.mustMaterialize_plain {g : Group} {r : Nat} (h : (g.vreg r).recipe = none) (f : Foot) (act : Mask) (b : Bool) :
    g.mustMaterialize f act b r = false := by
  unfold Group.mustMaterialize
  rw [h]
  split <;> first | rfl | (rename_i h2; cases h2)

theorem Group.dropRecipes_plain {g : Group} (h : ∀ r, r < 64 → (g.vreg r).recipe = none) (f : Foot) : g.dropRecipes f = g := by
  unfold Group.dropRecipes
  have step : ∀ l : List Nat, (∀ r ∈ l, r < 64) → l.foldl (fun g r =>
      match (g.vreg r).hold, (g.vreg r).recipe with
      | .folded, _ => g
      | _, some rc => if rc.pinsAny f then g.setVreg r { g.vreg r with recipe := none } else g
      | _, none => g) g = g := by
    intro l
    induction l with
    | nil => intro _; rfl
    | cons r rs ih =>
      intro hl
      rw [List.foldl_cons]
      have hr := h r (hl r (by simp))
      have : (match (g.vreg r).hold, (g.vreg r).recipe with
        | .folded, _ => g
        | _, some rc => if rc.pinsAny f then g.setVreg r { g.vreg r with recipe := none } else g
        | _, none => g) = g := by
        rw [hr]
        split
        · rfl
        · rename_i h2 _; cases h2
        · rfl
      rw [this]
      exact ih fun x hx => hl x (by simp [hx])
  exact step _ fun r hr => by simpa using hr

/-- A write requires no materialization (R158). -/
theorem State.prepareWrite_plain {s : State} {g : Group} (h : ∀ r, r < 64 → (g.vreg r).recipe = none) (f : Foot) (act : Mask)
    (b : Bool) : s.prepareWrite g f act b = .ok s g := by
  unfold State.prepareWrite
  have : (List.range 64).filter (fun r => g.mustMaterialize f act b r) = [] := by
    rw [List.filter_eq_nil_iff]
    intro r hr
    simp [Group.mustMaterialize_plain (h r (by simpa using hr))]
  rw [this]
  simp [State.materializeAll, Group.dropRecipes_plain h]

/-- The group with a list of writes applied. -/
def Group.applyAll (g : Group) (act : Mask) (full : Bool) (ws : List Write) : Group := ws.foldl (fun g w => g.apply act full w) g

/-- A register write leaves the group's team, its width and its divergence stack alone. -/
theorem Group.apply_same (g : Group) (act : Mask) (full : Bool) (w : Write) :
    ((g.apply act full w).team, (g.apply act full w).width, (g.apply act full w).stack, (g.apply act full w).spilt) =
      (g.team, g.width, g.stack, g.spilt) := by
  cases w <;> simp only [Group.apply, Group.writeLanes, Group.writeUniform, Group.writePred, Group.setVreg, Group.setAreg]
  · split <;> rfl
  · split <;> rfl

/-- So do many. -/
theorem Group.applyAll_same (g : Group) (act : Mask) (full : Bool) (ws : List Write) :
    ((g.applyAll act full ws).team, (g.applyAll act full ws).width, (g.applyAll act full ws).stack, (g.applyAll act full ws).spilt) =
      (g.team, g.width, g.stack, g.spilt) := by
  unfold Group.applyAll
  induction ws generalizing g with
  | nil => rfl
  | cons w ws ih => rw [List.foldl_cons, ih, Group.apply_same]

/-- What a list of writes leaves of a group with no recipe (R158). -/
theorem State.writeRegs_plain {s : State} {n : Nat} {g : Group} (hg : s.group n = some g)
    (h : ∀ r, r < 64 → (g.vreg r).recipe = none) (act : Mask) (full : Bool) (ws : List Write) :
    s.writeRegs n act full ws = .ok (s.setGroup n (g.applyAll act full ws)) (g.applyAll act full ws) := by
  unfold State.writeRegs
  rw [hg]
  simp only [State.prepareWrite_plain h]
  rfl

theorem State.group_count (s : State) (g : Group) (cs : List Nat) (n : Nat) : (s.count g cs).group n = s.group n := by
  unfold State.count
  split
  · rfl
  · split <;> rfl

theorem State.count_nil (s : State) (g : Group) : s.count g [] = s := rfl

/-- A register instruction with an effect: its writes are made, its counts are added, and the path stands behind it (R40, R210). -/
theorem Ctx.runEff_plain {c : Ctx} {i : Instr} (hl : c.Live) (h : c.plain = true) {eff : Group → Mask → Except Trap Eff} {e : Eff}
    (he : eff c.g c.act = .ok e) :
    c.runEff i eff = .ok (c.advance i
      ((c.s.setGroup c.n (c.g.applyAll c.act c.full e.writes)).count (c.g.applyAll c.act c.full e.writes) e.counts)) := by
  unfold Ctx.runEff
  rw [Ctx.formAll_plain h]
  simp only [he]
  rw [State.writeRegs_plain hl.2.1 (fun r hr => Ctx.plain_recipe h hr)]
  rfl

theorem State.floorOf_count (s : State) (g h : Group) (cs : List Nat) : (s.count g cs).floorOf h = s.floorOf h := by
  unfold State.count
  split
  · rfl
  · split
    · next t ht =>
      by_cases hk : h.team = g.team
      · simp [State.floorOf, State.teamOf, State.team, State.setTeam, hk, Team.count] at ht ⊢
        rw [ht]
        rfl
      · simp [State.floorOf, State.teamOf, State.team, State.setTeam, Tbl.get_set_ne _ _ _ hk]
    · rfl

theorem State.coreOf_count (s : State) (g h : Group) (cs : List Nat) : (s.count g cs).coreOf h = s.coreOf h := by
  unfold State.count
  split
  · rfl
  · split
    · next t ht =>
      by_cases hk : h.team = g.team
      · simp [State.coreOf, State.teamOf, State.team, State.setTeam, hk, Team.count] at ht ⊢
        rw [ht]
        rfl
      · simp [State.coreOf, State.teamOf, State.team, State.setTeam, Tbl.get_set_ne _ _ _ hk]
    · rfl

theorem State.rowsOthers_count (s : State) (g : Group) (cs : List Nat) (n : Nat) (h : Group) :
    (s.count g cs).rowsOthers n h = s.rowsOthers n h := by
  have hres : (s.count g cs).resident = s.resident := by
    unfold State.resident
    have : (s.count g cs).groups = s.groups := by
      unfold State.count
      split
      · rfl
      · split <;> rfl
    simp only [State.group_count, this]
  unfold State.rowsOthers
  simp only [hres, State.coreOf_count, State.floorOf_count]

/-- The places of the divergence entries depend on the stack, the width and the entries spilled alone. -/
theorem Group.spiltNow_congr {g g' : Group} (h : (g'.width, g'.stack, g'.spilt) = (g.width, g.stack, g.spilt)) : g'.spiltNow = g.spiltNow := by
  simp only [Prod.mk.injEq] at h
  unfold Group.spiltNow
  rw [h.1, h.2.1, h.2.2]

/-- Room for the group's registers and entries stays where only its registers, its counts and its path change. -/
theorem Ctx.roomy_fit {c : Ctx} (hl : c.Live) (hr : c.roomy = true) (i : Instr) (g' : Group)
    (hs : (g'.team, g'.width, g'.stack, g'.spilt) = (c.g.team, c.g.width, c.g.stack, c.g.spilt)) (cs : List Nat) :
    (c.advance i ((c.s.setGroup c.n g').count g' cs)).fitAreas c.n c.g.inRows = c.advance i ((c.s.setGroup c.n g').count g' cs) := by
  have hg : ((c.s.setGroup c.n g').count g' cs).group c.n = some g' := by simp [State.group_count]
  have hadv : c.advance i ((c.s.setGroup c.n g').count g' cs) = ((c.s.setGroup c.n g').count g' cs).setGroup c.n
      (g'.setSlot c.slot ((g'.slot c.slot).map fun p => { p with pc := c.pc + BitVec.ofNat 64 (4 * i.words) })) := by
    simp [Ctx.advance, Ctx.setPath, hg]
  rw [hadv]
  generalize hq : (g'.setSlot c.slot ((g'.slot c.slot).map fun p => { p with pc := c.pc + BitVec.ofNat 64 (4 * i.words) })) = q
  have hqs : (q.team, q.width, q.stack, q.spilt) = (g'.team, g'.width, g'.stack, g'.spilt) := by rw [← hq]; cases c.slot <;> rfl
  have hcs := hqs.trans hs
  simp only [Prod.mk.injEq] at hqs hs hcs
  simp only [Ctx.roomy, Bool.and_eq_true, decide_eq_true_eq, beq_iff_eq] at hr
  have h1 : (((c.s.setGroup c.n g').count g' cs).setGroup c.n q).rowsOthers c.n q = c.s.rowsOthers c.n c.g := by
    rw [State.rowsOthers_setGroup hg hqs.1, State.rowsOthers_count, State.rowsOthers_setGroup hl.2.1 hs.1]
  have h2 : (((c.s.setGroup c.n g').count g' cs).setGroup c.n q).floorOf q = c.s.floorOf c.g := by
    rw [State.floorOf_setGroup, State.floorOf_count, State.floorOf_setGroup]
    simp only [State.floorOf, State.teamOf, hcs.1, hcs.2.1]
  have hq' : (((c.s.setGroup c.n g').count g' cs).setGroup c.n q).group c.n = some q := by simp
  unfold State.fitAreas
  rw [State.fitRows_enough hq' (by unfold State.rowLimit; rw [h1, h2]; exact hr.1),
    State.respill_same hq' (by rw [Group.spiltNow_congr (by rw [hcs.2.1, hcs.2.2.1, hcs.2.2.2] : _ = (c.g.width, c.g.stack, c.g.spilt)), hcs.2.2.2]; exact hr.2)]

/-- What a register instruction answers (R40, R158, R210): its writes are made in the active lanes, its counts added, and the path stands behind it. -/
theorem runReg_ok {c : Ctx} {i : Instr} (h : c.Quiet i) {eff : Group → Mask → Except Trap Eff} {e : Eff} (he : eff c.g c.act = .ok e) :
    issue i c.s (fun c => c.runEff i eff) = .next (c.advance i
      ((c.s.setGroup c.n (c.g.applyAll c.act c.full e.writes)).count (c.g.applyAll c.act c.full e.writes) e.counts)) := by
  obtain ⟨hi, hp, hr⟩ := h
  rw [issue_body hi, Ctx.runEff_plain hi.1 hp he]
  simp only [Ctx.huskStep_plain hp, Ctx.sliceStep_plain hp]
  rw [Ctx.roomy_fit hi.1 hr i _ (Group.applyAll_same ..)]

/-- A register instruction whose effect is a trap takes it (R332). -/
theorem runReg_trap {c : Ctx} {i : Instr} (hi : c.Issues i) (hp : c.plain = true) {eff : Group → Mask → Except Trap Eff} {t : Trap}
    (he : eff c.g c.act = .error t) :
    issue i c.s (fun c => c.runEff i eff) = .next (c.s.takeTrap c.n c.slot ⟨t.cause, BitVec.ofNat 64 t.info, c.path.pc, false⟩) := by
  apply issue_trap hi
  unfold Ctx.runEff
  rw [Ctx.formAll_plain hp]
  simp only [he]

end Sys2Proof.Machine
end

