-- ==== Sys2Proof/Laws/Memory.lean ====
section
/-! SUPPORT. Bytes in canonical form: every operation keeps the form, a read after a write gives the byte written, and equal reads are equal
memories. -/

namespace Sys2Proof.Machine

/-! ### One byte -/

/-- Below the bound of a canonical list nothing is listed. -/
theorem Mem.get_below {m : Mem} {lo a : Nat} (h : Mem.wfFrom lo m = true) (ha : a < lo) : Mem.get m a = 0 := by
  induction m generalizing lo with
  | nil => rfl
  | cons c m ih =>
    obtain ⟨b, v⟩ := c
    simp only [Mem.wfFrom, Bool.and_eq_true, decide_eq_true_eq] at h
    simp only [Mem.get]
    rw [if_neg (by omega)]
    exact ih h.2 (by omega)

/-- A lower bound of a canonical list may be lowered. -/
theorem Mem.wfFrom_mono {m : Mem} {lo lo' : Nat} (h : Mem.wfFrom lo m = true) (hl : lo' ≤ lo) : Mem.wfFrom lo' m = true := by
  cases m with
  | nil => rfl
  | cons c m =>
    obtain ⟨b, v⟩ := c
    simp only [Mem.wfFrom, Bool.and_eq_true, decide_eq_true_eq] at h ⊢
    exact ⟨⟨by omega, h.1.2⟩, h.2⟩

/-- Writing a byte keeps the form. -/
theorem Mem.wfFrom_set {m : Mem} {lo a : Nat} (v : Byte) (h : Mem.wfFrom lo m = true) (ha : lo ≤ a) :
    Mem.wfFrom lo (Mem.set m a v) = true := by
  induction m generalizing lo with
  | nil =>
    simp only [Mem.set]
    split
    · rfl
    · next hv =>
      simp only [Mem.wfFrom, Bool.and_eq_true, decide_eq_true_eq]
      exact ⟨⟨ha, hv⟩, trivial⟩
  | cons c m ih =>
    obtain ⟨b, w⟩ := c
    have h0 := h
    simp only [Mem.wfFrom, Bool.and_eq_true, decide_eq_true_eq] at h
    simp only [Mem.set]
    by_cases h1 : a < b
    · rw [if_pos h1]
      by_cases hv : v = 0
      · rw [if_pos hv]; exact h0
      · rw [if_neg hv]
        simp only [Mem.wfFrom, Bool.and_eq_true, decide_eq_true_eq]
        exact ⟨⟨ha, hv⟩, ⟨⟨by omega, h.1.2⟩, h.2⟩⟩
    · rw [if_neg h1]
      by_cases h2 : a = b
      · rw [if_pos h2]
        by_cases hv : v = 0
        · rw [if_pos hv]; exact Mem.wfFrom_mono h.2 (by omega)
        · rw [if_neg hv]
          simp only [Mem.wfFrom, Bool.and_eq_true, decide_eq_true_eq]
          exact ⟨⟨ha, hv⟩, h2 ▸ h.2⟩
      · rw [if_neg h2]
        simp only [Mem.wfFrom, Bool.and_eq_true, decide_eq_true_eq]
        exact ⟨h.1, ih h.2 (by omega)⟩

/-- Writing a byte keeps the canonical form. -/
theorem Mem.wf_set {m : Mem} (a : Nat) (v : Byte) (h : Mem.wf m = true) : Mem.wf (Mem.set m a v) = true :=
  Mem.wfFrom_set v h (Nat.zero_le a)

/-- A read after a write of one byte. -/
theorem Mem.get_setFrom {m : Mem} {lo : Nat} (h : Mem.wfFrom lo m = true) (a b : Nat) (v : Byte) :
    Mem.get (Mem.set m a v) b = if b = a then v else Mem.get m b := by
  induction m generalizing lo with
  | nil =>
    simp only [Mem.set]
    split
    · next hv => by_cases hb : b = a <;> simp [Mem.get, hv, hb]
    · rfl
  | cons c m ih =>
    obtain ⟨k, w⟩ := c
    simp only [Mem.wfFrom, Bool.and_eq_true, decide_eq_true_eq] at h
    have hlow : ∀ x, x < k + 1 → Mem.get m x = 0 := fun x hx => Mem.get_below h.2 hx
    simp only [Mem.set]
    by_cases h1 : a < k
    · rw [if_pos h1]
      by_cases hv : v = 0
      · rw [if_pos hv]
        by_cases hb : b = a
        · rw [if_pos hb, hb, hv]
          simp only [Mem.get]
          rw [if_neg (by omega)]
          exact hlow a (by omega)
        · rw [if_neg hb]
      · rw [if_neg hv]
        by_cases hb : b = a <;> simp [Mem.get, hb]
    · rw [if_neg h1]
      by_cases h2 : a = k
      · subst h2
        rw [if_pos rfl]
        by_cases hv : v = 0
        · rw [if_pos hv]
          by_cases hb : b = a
          · rw [if_pos hb, hb, hv]; exact hlow a (by omega)
          · rw [if_neg hb]; simp [Mem.get, hb]
        · rw [if_neg hv]
          by_cases hb : b = a <;> simp [Mem.get, hb]
      · rw [if_neg h2]
        simp only [Mem.get]
        by_cases hb : b = k
        · rw [if_pos hb, if_neg (by omega)]
          simp [hb]
        · rw [if_neg hb, ih h.2]
          simp [hb]

/-- A read after a write of one byte to a canonical memory. -/
theorem Mem.get_set {m : Mem} (h : Mem.wf m = true) (a b : Nat) (v : Byte) :
    Mem.get (Mem.set m a v) b = if b = a then v else Mem.get m b := Mem.get_setFrom h a b v

/-! ### Several bytes -/

/-- Writing n bytes keeps the canonical form. -/
theorem Mem.wf_writeN {m : Mem} (a n v : Nat) (h : Mem.wf m = true) : Mem.wf (Mem.writeN m a n v) = true := by
  induction n generalizing m a v with
  | zero => exact h
  | succ n ih => exact ih (a + 1) (v / 256) (Mem.wf_set a _ h)

/-- Writing a list of bytes keeps the canonical form. -/
theorem Mem.wf_writeBytes {m : Mem} (a : Nat) (bs : List Byte) (h : Mem.wf m = true) : Mem.wf (Mem.writeBytes m a bs) = true := by
  induction bs generalizing m a with
  | nil => exact h
  | cons b bs ih => exact ih (a + 1) (Mem.wf_set a b h)

/-- A filter keeps the form. -/
theorem Mem.wfFrom_filter {m : Mem} {lo : Nat} (p : Host.Cell → Bool) (h : Mem.wfFrom lo m = true) : Mem.wfFrom lo (m.filter p) = true := by
  induction m generalizing lo with
  | nil => rfl
  | cons c m ih =>
    obtain ⟨b, v⟩ := c
    simp only [Mem.wfFrom, Bool.and_eq_true, decide_eq_true_eq] at h
    rw [List.filter_cons]
    split
    · simp only [Mem.wfFrom, Bool.and_eq_true, decide_eq_true_eq]
      exact ⟨h.1, ih h.2⟩
    · exact Mem.wfFrom_mono (ih h.2) (by omega)

/-- Clearing a range keeps the canonical form. -/
theorem Mem.wf_clear {m : Mem} (a n : Nat) (h : Mem.wf m = true) : Mem.wf (Mem.clear m a n) = true := Mem.wfFrom_filter _ h

/-- A byte outside n written bytes reads as before. -/
theorem Mem.get_writeN_out {m : Mem} (h : Mem.wf m = true) (a n v b : Nat) (hb : b < a ∨ a + n ≤ b) :
    Mem.get (Mem.writeN m a n v) b = Mem.get m b := by
  induction n generalizing m a v with
  | zero => rfl
  | succ n ih =>
    simp only [Mem.writeN]
    rw [ih (Mem.wf_set a _ h) (a + 1) (v / 256) (by omega), Mem.get_set h, if_neg (by omega)]

/-- Byte k of n bytes just written is byte k of the number (R3). -/
theorem Mem.get_writeN_in {m : Mem} (h : Mem.wf m = true) (a n v k : Nat) (hk : k < n) :
    Mem.get (Mem.writeN m a n v) (a + k) = BitVec.ofNat 8 (v / 256 ^ k) := by
  induction n generalizing m a v k with
  | zero => omega
  | succ n ih =>
    simp only [Mem.writeN]
    cases k with
    | zero =>
      rw [Mem.get_writeN_out (Mem.wf_set a _ h) (a + 1) n (v / 256) (a + 0) (by omega), Mem.get_set h]
      simp
    | succ j =>
      have := ih (Mem.wf_set a (BitVec.ofNat 8 v) h) (a + 1) (v / 256) j (by omega)
      rw [show a + (j + 1) = a + 1 + j by omega, this, Nat.div_div_eq_div_mul, Nat.pow_succ, Nat.mul_comm]

/-- Reading n bytes depends on those bytes alone. -/
theorem Mem.readN_congr {m m' : Mem} {a n : Nat} (h : ∀ b, a ≤ b → b < a + n → Mem.get m b = Mem.get m' b) :
    Mem.readN m a n = Mem.readN m' a n := by
  induction n generalizing a with
  | zero => rfl
  | succ n ih =>
    simp only [Mem.readN]
    rw [h a (by omega) (by omega), ih fun b h1 h2 => h b (by omega) (by omega)]

/-- Reading back n bytes gives the number written, but for what n bytes cannot hold. -/
theorem Mem.readN_writeN {m : Mem} (h : Mem.wf m = true) (a n v : Nat) : Mem.readN (Mem.writeN m a n v) a n = v % 256 ^ n := by
  induction n generalizing m a v with
  | zero => simp [Mem.readN, Nat.mod_one]
  | succ n ih =>
    have h0 := Mem.get_writeN_in h a (n + 1) v 0 (by omega)
    simp only [Nat.add_zero, Nat.pow_zero, Nat.div_one] at h0
    simp only [Mem.readN, h0, BitVec.toNat_ofNat]
    simp only [Mem.writeN]
    rw [ih (Mem.wf_set a _ h) (a + 1) (v / 256), Nat.pow_succ' (n := n) (m := 256), Nat.mod_mul]

/-! ### The package's memory -/

/-- A write of bytes to the package keeps the canonical form. -/
theorem State.writePA_wf {s : State} (pa n v : Nat) (bad : Bool) (h : Mem.wf s.mem = true) :
    Mem.wf (s.writePA pa n v bad).mem = true := Mem.wf_writeN _ _ _ h

/-- Reading back what was just written (R43, R3). -/
theorem State.readPA_writePA {s : State} (pa n v : Nat) (bad : Bool) (h : Mem.wf s.mem = true) :
    (s.writePA pa n v bad).readPA pa n = v % 256 ^ n := Mem.readN_writeN h _ _ _

/-- A write leaves every byte outside it alone. -/
theorem State.writePA_other {s : State} (pa n v b : Nat) (bad : Bool) (h : Mem.wf s.mem = true)
    (hb : b < paLocal pa ∨ paLocal pa + n ≤ b) : Mem.get (s.writePA pa n v bad).mem b = Mem.get s.mem b :=
  Mem.get_writeN_out h _ _ _ _ hb

/-- A translation put into a TLB changes nothing but the TLBs. -/
theorem State.tlbInsert_mem (s : State) (t : TlbEntry) (va : Nat) : (s.tlbInsert t va).mem = s.mem := rfl

/-- What walk caches take in leaves memory alone. -/
theorem State.walksInsert_mem (s : State) (ws : List WalkEntry) : (s.walksInsert ws).mem = s.mem := by
  unfold State.walksInsert
  induction ws generalizing s with
  | nil => rfl
  | cons w ws ih => rw [List.foldl_cons, ih]

/-- An entry's AC and DT bits written back keep the canonical form, whether or not they change. -/
theorem State.flagsWritten_wf {s : State} (h : Mem.wf s.mem = true) (c : Prop) [Decidable c] (pa v : Nat) :
    Mem.wf (if c then s else s.writePA pa 8 v false).mem = true := by
  split
  · exact h
  · exact State.writePA_wf _ _ _ _ h

/-- A walk that fills a TLB keeps the canonical form. -/
theorem State.walkFill_wf {s : State} (core asid va : Nat) (write : Bool) (h : Mem.wf s.mem = true) :
    Mem.wf (s.walkFill core asid va write).2.mem = true := by
  unfold State.walkFill
  split
  · exact h
  · exact h
  · split
    · exact h
    · exact State.flagsWritten_wf (s := s.walksInsert _) ((State.walksInsert_mem s _).symm ▸ h) _ _ _

/-- A translation keeps the canonical form. -/
theorem State.translate_wf {s : State} (core asid va : Nat) (write : Bool) (h : Mem.wf s.mem = true) :
    Mem.wf (s.translate core asid va write).2.mem = true := by
  unfold State.translate
  split
  · exact h
  · split
    · exact h
    · exact State.walkFill_wf core asid va write h

/-- A hub's translation keeps the canonical form. -/
theorem State.translateHub_wf {s : State} (asid va : Nat) (write : Bool) (h : Mem.wf s.mem = true) :
    Mem.wf (s.translateHub asid va write).2.mem = true := by
  unfold State.translateHub
  split
  · exact h
  · exact h
  · simp only
    split
    · exact h
    · exact State.flagsWritten_wf h _ _ _

/-- A write through the hub keeps the canonical form. -/
theorem State.writeVA_wf {s t : State} {asid va n v : Nat} (h : Mem.wf s.mem = true) (ht : s.writeVA asid va n v = some t) :
    Mem.wf t.mem = true := by
  unfold State.writeVA at ht
  split at ht
  · rename_i he
    have h1 := State.translateHub_wf asid va true h
    rw [he] at h1
    split at ht
    · cases ht
    · split at ht
      · cases ht
        exact State.writePA_wf _ _ _ _ h1
      · cases ht
        exact h1
  · cases ht

/-- The reset memory has the form. -/
theorem State.reset_wf : Memory.wf State.reset.mem = true := rfl

end Sys2Proof.Machine
end

