-- ==== Sys2Proof/Laws/PerInstr.lean ====
section
/-! SUPPORT. The family HeaderBits: the top three bits of the first word of an instruction are C, U and S (R17). -/

namespace Sys2Proof.Laws.HeaderBits

/-- The top three bits of a field are C, U and S of a header. -/
def Top {n : Nat} (x : BitVec n) (h : Hdr) : Prop :=
  3 ≤ n ∧ x.getLsbD (n - 1) = h.c ∧ x.getLsbD (n - 2) = h.u ∧ x.getLsbD (n - 3) = h.s

/-- Bits behind them do not matter. -/
theorem Top.app {n m : Nat} {x : BitVec n} {h : Hdr} (y : BitVec m) (t : Top x h) : Top (x ++ y) h := by
  obtain ⟨hn, hc, hu, hs⟩ := t
  have e : ∀ k, 1 ≤ k → k ≤ 3 → (x ++ y).getLsbD (n + m - k) = x.getLsbD (n - k) := by
    intro k hk hk3
    rw [BitVec.getLsbD_append, if_neg (by omega)]
    congr 1; omega
  refine ⟨Nat.le_trans hn (Nat.le_add_right n m), ?_, ?_, ?_⟩
  · exact (e 1 (by decide) (by decide)).trans hc
  · exact (e 2 (by decide) (by decide)).trans hu
  · exact (e 3 (by decide) (by decide)).trans hs

/-- Two fields behind them, and four. -/
theorem Top.app2 {n m k : Nat} {x : BitVec n} {h : Hdr} {y : BitVec m} {z : BitVec k} (t : Top x h) : Top (x ++ y ++ z) h := (t.app y).app z
theorem Top.app4 {n m k i j : Nat} {x : BitVec n} {h : Hdr} {y : BitVec m} {z : BitVec k} {u : BitVec i} {w : BitVec j} (t : Top x h) :
    Top (x ++ y ++ z ++ u ++ w) h := t.app2.app2

/-- The top of every first word (R17). -/
theorem top_top (h : Hdr) (mj : BitVec 7) : Top (top h mj) h := by
  have e : Top (b1 h.c ++ b1 h.u ++ b1 h.s) h := by
    rcases h with ⟨c, u, s⟩; revert c u s; unfold Top; decide
  exact e.app mj

theorem encR_top (h : Hdr) (mj : BitVec 7) (vd va : BitVec 6) (pa : BitVec 2) (vb : BitVec 6) (pb : BitVec 2) : Top (encR h mj vd va pa vb pb) h :=
  (top_top h mj).app4.app _
theorem encQ_top (h : Hdr) (mj : BitVec 7) (vd va vb : BitVec 6) (vc : BitVec 4) : Top (encQ h mj vd va vb vc) h :=
  (top_top h mj).app4
theorem encI_top (h : Hdr) (mj : BitVec 7) (vd va : BitVec 6) (imm : BitVec 10) : Top (encI h mj vd va imm) h :=
  (top_top h mj).app2.app _
theorem encM_top (h : Hdr) (mj : BitVec 7) (vt : BitVec 6) (m : MOp) : Top (encM h mj vt m) h :=
  (top_top h mj).app4.app2
theorem encMk_top (h : Hdr) (mj : BitVec 7) (vt : BitVec 6) (an : BitVec 4) (vo : BitVec 6) (nt : Bool) : Top (encMk h mj vt an vo nt) h :=
  (top_top h mj).app4.app _
theorem encLm_top (h : Hdr) (mj : BitVec 7) (vt vo : BitVec 6) (sz : LmSize) (imm : BitVec 8) : Top (encLm h mj vt vo sz imm) h :=
  (top_top h mj).app4
theorem encP_top (h : Hdr) (mj : BitVec 7) (pd cond : BitVec 3) (va vb : BitVec 6) (pacc : BitVec 3) (comb : Bool) : Top (encP h mj pd cond va vb pacc comb) h :=
  (top_top h mj).app4.app2
theorem encN_top (h : Hdr) (mj : BitVec 7) (vd va : BitVec 6) (f : BitVec 2) (r : Rnd) (vb : BitVec 6) : Top (encN h mj vd va f r vb) h :=
  (top_top h mj).app4.app _
theorem encOwn_top (h : Hdr) (mj : BitVec 7) (p : BitVec 22) : Top (encOwn h mj p) h :=
  (top_top h mj).app _

/-- R17: the first word of an instruction (not of an event) has C, U and S in its top bits. -/
def Statement (i : Instr) : Prop := i.isWord = true → Top (encode1 i) i.hdr

theorem nop : ∀ y0, Statement (.nop y0) :=
  fun _ _ => encOwn_top _ _ _
theorem iadd : ∀ y0 y1 y2 y3 y4 y5, Statement (.iadd y0 y1 y2 y3 y4 y5) :=
  fun _ _ _ _ _ _ _ => encR_top _ _ _ _ _ _ _
theorem isub : ∀ y0 y1 y2 y3 y4 y5, Statement (.isub y0 y1 y2 y3 y4 y5) :=
  fun _ _ _ _ _ _ _ => encR_top _ _ _ _ _ _ _
theorem imul : ∀ y0 y1 y2 y3 y4 y5, Statement (.imul y0 y1 y2 y3 y4 y5) :=
  fun _ _ _ _ _ _ _ => encR_top _ _ _ _ _ _ _
theorem imulh : ∀ y0 y1 y2 y3 y4 y5, Statement (.imulh y0 y1 y2 y3 y4 y5) :=
  fun _ _ _ _ _ _ _ => encR_top _ _ _ _ _ _ _
theorem imulhu : ∀ y0 y1 y2 y3 y4 y5, Statement (.imulhu y0 y1 y2 y3 y4 y5) :=
  fun _ _ _ _ _ _ _ => encR_top _ _ _ _ _ _ _
theorem imad : ∀ y0 y1 y2 y3 y4, Statement (.imad y0 y1 y2 y3 y4) :=
  fun _ _ _ _ _ _ => encQ_top _ _ _ _ _ _
theorem iaddi : ∀ y0 y1 y2 y3, Statement (.iaddi y0 y1 y2 y3) :=
  fun _ _ _ _ _ => encI_top _ _ _ _ _
theorem and : ∀ y0 y1 y2 y3 y4 y5, Statement (.and y0 y1 y2 y3 y4 y5) :=
  fun _ _ _ _ _ _ _ => encR_top _ _ _ _ _ _ _
theorem or : ∀ y0 y1 y2 y3 y4 y5, Statement (.or y0 y1 y2 y3 y4 y5) :=
  fun _ _ _ _ _ _ _ => encR_top _ _ _ _ _ _ _
theorem xor : ∀ y0 y1 y2 y3 y4 y5, Statement (.xor y0 y1 y2 y3 y4 y5) :=
  fun _ _ _ _ _ _ _ => encR_top _ _ _ _ _ _ _
theorem andi : ∀ y0 y1 y2 y3, Statement (.andi y0 y1 y2 y3) :=
  fun _ _ _ _ _ => encI_top _ _ _ _ _
theorem ori : ∀ y0 y1 y2 y3, Statement (.ori y0 y1 y2 y3) :=
  fun _ _ _ _ _ => encI_top _ _ _ _ _
theorem xori : ∀ y0 y1 y2 y3, Statement (.xori y0 y1 y2 y3) :=
  fun _ _ _ _ _ => encI_top _ _ _ _ _
theorem shf : ∀ y0 y1 y2 y3 y4, Statement (.shf y0 y1 y2 y3 y4) :=
  fun _ _ _ _ _ _ => encQ_top _ _ _ _ _ _
theorem shfi : ∀ y0 y1 y2 y3 y4, Statement (.shfi y0 y1 y2 y3 y4) :=
  fun _ _ _ _ _ _ => encI_top _ _ _ _ _
theorem minmax : ∀ y0 y1 y2 y3 y4, Statement (.minmax y0 y1 y2 y3 y4) :=
  fun _ _ _ _ _ _ => encQ_top _ _ _ _ _ _
theorem unary : ∀ y0 y1 y2 y3, Statement (.unary y0 y1 y2 y3) :=
  fun _ _ _ _ _ => encQ_top _ _ _ _ _ _
theorem bfe : ∀ y0 y1 y2 y3 y4, Statement (.bfe y0 y1 y2 y3 y4) :=
  fun _ _ _ _ _ _ => encQ_top _ _ _ _ _ _
theorem bfi : ∀ y0 y1 y2 y3 y4, Statement (.bfi y0 y1 y2 y3 y4) :=
  fun _ _ _ _ _ _ => encQ_top _ _ _ _ _ _
theorem sel : ∀ y0 y1 y2 y3 y4 y5, Statement (.sel y0 y1 y2 y3 y4 y5) :=
  fun _ _ _ _ _ _ _ => (top_top _ _).app4.app _
theorem icmp : ∀ y0 y1 y2 y3 y4 y5 y6, Statement (.icmp y0 y1 y2 y3 y4 y5 y6) :=
  fun _ _ _ _ _ _ _ _ => encP_top _ _ _ _ _ _ _ _
theorem icmpi : ∀ y0 y1 y2 y3 y4, Statement (.icmpi y0 y1 y2 y3 y4) :=
  fun _ _ _ _ _ _ => (top_top _ _).app4
theorem pcomb : ∀ y0 y1 y2 y3 y4, Statement (.pcomb y0 y1 y2 y3 y4) :=
  fun _ _ _ _ _ _ => (top_top _ _).app4.app _
theorem mov : ∀ y0 y1 y2 y3, Statement (.mov y0 y1 y2 y3) :=
  fun _ _ _ _ _ => encR_top _ _ _ _ _ _ _
theorem movi : ∀ y0 y1 y2, Statement (.movi y0 y1 y2) :=
  fun _ _ _ _ => (top_top _ _).app2
theorem movhi : ∀ y0 y1 y2, Statement (.movhi y0 y1 y2) :=
  fun _ _ _ _ => (top_top _ _).app2
theorem li : ∀ y0 y1 y2, Statement (.li y0 y1 y2) :=
  fun _ _ _ _ => (top_top _ _).app2
theorem vote : ∀ y0 y1 y2 y3, Statement (.vote y0 y1 y2 y3) :=
  fun _ _ _ _ _ => (top_top _ _).app4
theorem shfl : ∀ y0 y1 y2 y3 y4, Statement (.shfl y0 y1 y2 y3 y4) :=
  fun _ _ _ _ _ _ => encR_top _ _ _ _ _ _ _
theorem int64 : ∀ y0 y1 y2 y3 y4, Statement (.int64 y0 y1 y2 y3 y4) :=
  fun _ _ _ _ _ _ => encQ_top _ _ _ _ _ _
theorem redux : ∀ y0 y1 y2 y3, Statement (.redux y0 y1 y2 y3) :=
  fun _ _ _ _ _ => encQ_top _ _ _ _ _ _
theorem fadd : ∀ y0 y1 y2 y3 y4 y5, Statement (.fadd y0 y1 y2 y3 y4 y5) :=
  fun _ _ _ _ _ _ _ => encR_top _ _ _ _ _ _ _
theorem fsub : ∀ y0 y1 y2 y3 y4 y5, Statement (.fsub y0 y1 y2 y3 y4 y5) :=
  fun _ _ _ _ _ _ _ => encR_top _ _ _ _ _ _ _
theorem fmul : ∀ y0 y1 y2 y3 y4 y5, Statement (.fmul y0 y1 y2 y3 y4 y5) :=
  fun _ _ _ _ _ _ _ => encR_top _ _ _ _ _ _ _
theorem fma : ∀ y0 y1 y2 y3 y4, Statement (.fma y0 y1 y2 y3 y4) :=
  fun _ _ _ _ _ _ => encQ_top _ _ _ _ _ _
theorem fmac : ∀ y0 y1 y2 y3 y4 y5, Statement (.fmac y0 y1 y2 y3 y4 y5) :=
  fun _ _ _ _ _ _ _ => encR_top _ _ _ _ _ _ _
theorem fminmax : ∀ y0 y1 y2 y3 y4, Statement (.fminmax y0 y1 y2 y3 y4) :=
  fun _ _ _ _ _ _ => encQ_top _ _ _ _ _ _
theorem func : ∀ y0 y1 y2 y3, Statement (.func y0 y1 y2 y3) :=
  fun _ _ _ _ _ => encQ_top _ _ _ _ _ _
theorem fcmp : ∀ y0 y1 y2 y3 y4 y5 y6, Statement (.fcmp y0 y1 y2 y3 y4 y5 y6) :=
  fun _ _ _ _ _ _ _ _ => encP_top _ _ _ _ _ _ _ _
theorem hadd2 : ∀ y0 y1 y2 y3 y4 y5, Statement (.hadd2 y0 y1 y2 y3 y4 y5) :=
  fun _ _ _ _ _ _ _ => encR_top _ _ _ _ _ _ _
theorem hmul2 : ∀ y0 y1 y2 y3 y4 y5, Statement (.hmul2 y0 y1 y2 y3 y4 y5) :=
  fun _ _ _ _ _ _ _ => encR_top _ _ _ _ _ _ _
theorem hfma2 : ∀ y0 y1 y2 y3 y4, Statement (.hfma2 y0 y1 y2 y3 y4) :=
  fun _ _ _ _ _ _ => encQ_top _ _ _ _ _ _
theorem hfmac2 : ∀ y0 y1 y2 y3 y4 y5, Statement (.hfmac2 y0 y1 y2 y3 y4 y5) :=
  fun _ _ _ _ _ _ _ => encR_top _ _ _ _ _ _ _
theorem cvt : ∀ y0 y1 y2 y3 y4 y5, Statement (.cvt y0 y1 y2 y3 y4 y5) :=
  fun _ _ _ _ _ _ _ => (top_top _ _).app4.app _
theorem cvtn : ∀ y0 y1 y2 y3 y4 y5, Statement (.cvtn y0 y1 y2 y3 y4 y5) :=
  fun _ _ _ _ _ _ _ => encN_top _ _ _ _ _ _ _
theorem cvtw : ∀ y0 y1 y2 y3 y4 y5, Statement (.cvtw y0 y1 y2 y3 y4 y5) :=
  fun _ _ _ _ _ _ _ => encN_top _ _ _ _ _ _ _
theorem fscale : ∀ y0 y1 y2 y3 y4 y5, Statement (.fscale y0 y1 y2 y3 y4 y5) :=
  fun _ _ _ _ _ _ _ => encR_top _ _ _ _ _ _ _
theorem fredux : ∀ y0 y1 y2 y3, Statement (.fredux y0 y1 y2 y3) :=
  fun _ _ _ _ _ => encQ_top _ _ _ _ _ _
theorem fmtset : ∀ y0 y1 y2, Statement (.fmtset y0 y1 y2) :=
  fun _ _ _ _ => (top_top _ _).app4
theorem dot4s : ∀ y0 y1 y2 y3 y4 y5, Statement (.dot4s y0 y1 y2 y3 y4 y5) :=
  fun _ _ _ _ _ _ _ => encR_top _ _ _ _ _ _ _
theorem dot4u : ∀ y0 y1 y2 y3 y4 y5, Statement (.dot4u y0 y1 y2 y3 y4 y5) :=
  fun _ _ _ _ _ _ _ => encR_top _ _ _ _ _ _ _
theorem aset : ∀ y0 y1 y2, Statement (.aset y0 y1 y2) :=
  fun _ _ _ _ => (top_top _ _).app4
theorem aadvPair : ∀ y0 y1 y2, Statement (.aadvPair y0 y1 y2) :=
  fun _ _ _ _ => (top_top _ _).app4
theorem aadvImm : ∀ y0 y1 y2, Statement (.aadvImm y0 y1 y2) :=
  fun _ _ _ _ => (top_top _ _).app2.app _
theorem aget : ∀ y0 y1 y2 y3, Statement (.aget y0 y1 y2 y3) :=
  fun _ _ _ _ _ => (top_top _ _).app4
theorem anarrow : ∀ y0 y1 y2 y3 y4, Statement (.anarrow y0 y1 y2 y3 y4) :=
  fun _ _ _ _ _ _ => (top_top _ _).app4
theorem ldB : ∀ y0 y1 y2, Statement (.ldB y0 y1 y2) :=
  fun _ _ _ _ => encM_top _ _ _ _
theorem ldH : ∀ y0 y1 y2, Statement (.ldH y0 y1 y2) :=
  fun _ _ _ _ => encM_top _ _ _ _
theorem ldW : ∀ y0 y1 y2, Statement (.ldW y0 y1 y2) :=
  fun _ _ _ _ => encM_top _ _ _ _
theorem ldD : ∀ y0 y1 y2, Statement (.ldD y0 y1 y2) :=
  fun _ _ _ _ => encM_top _ _ _ _
theorem ldQ : ∀ y0 y1 y2, Statement (.ldQ y0 y1 y2) :=
  fun _ _ _ _ => encM_top _ _ _ _
theorem stB : ∀ y0 y1 y2, Statement (.stB y0 y1 y2) :=
  fun _ _ _ _ => encM_top _ _ _ _
theorem stH : ∀ y0 y1 y2, Statement (.stH y0 y1 y2) :=
  fun _ _ _ _ => encM_top _ _ _ _
theorem stW : ∀ y0 y1 y2, Statement (.stW y0 y1 y2) :=
  fun _ _ _ _ => encM_top _ _ _ _
theorem stD : ∀ y0 y1 y2, Statement (.stD y0 y1 y2) :=
  fun _ _ _ _ => encM_top _ _ _ _
theorem stQ : ∀ y0 y1 y2, Statement (.stQ y0 y1 y2) :=
  fun _ _ _ _ => encM_top _ _ _ _
theorem ldkW : ∀ y0 y1 y2 y3 y4, Statement (.ldkW y0 y1 y2 y3 y4) :=
  fun _ _ _ _ _ _ => encMk_top _ _ _ _ _ _
theorem ldkD : ∀ y0 y1 y2 y3 y4, Statement (.ldkD y0 y1 y2 y3 y4) :=
  fun _ _ _ _ _ _ => encMk_top _ _ _ _ _ _
theorem ldl : ∀ y0 y1 y2 y3 y4, Statement (.ldl y0 y1 y2 y3 y4) :=
  fun _ _ _ _ _ _ => encLm_top _ _ _ _ _ _
theorem stl : ∀ y0 y1 y2 y3 y4, Statement (.stl y0 y1 y2 y3 y4) :=
  fun _ _ _ _ _ _ => encLm_top _ _ _ _ _ _
theorem atom : ∀ y0 y1 y2 y3 y4 y5, Statement (.atom y0 y1 y2 y3 y4 y5) :=
  fun _ _ _ _ _ _ _ => encM_top _ _ _ _
theorem atoml : ∀ y0 y1 y2 y3 y4 y5 y6 y7, Statement (.atoml y0 y1 y2 y3 y4 y5 y6 y7) :=
  fun _ _ _ _ _ _ _ _ _ => encM_top _ _ _ _
theorem red : ∀ y0 y1 y2 y3 y4, Statement (.red y0 y1 y2 y3 y4) :=
  fun _ _ _ _ _ _ => encM_top _ _ _ _
theorem cas : ∀ y0 y1 y2 y3 y4 y5, Statement (.cas y0 y1 y2 y3 y4 y5) :=
  fun _ _ _ _ _ _ _ => encM_top _ _ _ _
theorem fence : ∀ y0 y1 y2, Statement (.fence y0 y1 y2) :=
  fun _ _ _ _ => (top_top _ _).app2.app _
theorem pref : ∀ y0 y1 y2 y3 y4, Statement (.pref y0 y1 y2 y3 y4) :=
  fun _ _ _ _ _ _ => encMk_top _ _ _ _ _ _
theorem cctl : ∀ y0 y1 y2, Statement (.cctl y0 y1 y2) :=
  fun _ _ _ _ => (top_top _ _).app2.app _
theorem qsub : ∀ y0 y1 y2 y3, Statement (.qsub y0 y1 y2 y3) :=
  fun _ _ _ _ _ => encI_top _ _ _ _ _
theorem cbinit : ∀ y0 y1 y2 y3, Statement (.cbinit y0 y1 y2 y3) :=
  fun _ _ _ _ _ => encI_top _ _ _ _ _
theorem cbwait : ∀ y0 y1 y2, Statement (.cbwait y0 y1 y2) :=
  fun _ _ _ _ => encI_top _ _ _ _ _
theorem sleepuntil : ∀ y0 y1, Statement (.sleepuntil y0 y1) :=
  fun _ _ _ => encI_top _ _ _ _ _
theorem sleepuntilChk : ∀ y0 y1 y2 y3, Statement (.sleepuntilChk y0 y1 y2 y3) :=
  fun _ _ _ _ _ => encI_top _ _ _ _ _
theorem publish : ∀ y0 y1, Statement (.publish y0 y1) :=
  fun _ _ _ => (top_top _ _).app2
theorem accst : ∀ y0 y1 y2 y3 y4 y5, Statement (.accst y0 y1 y2 y3 y4 y5) :=
  fun _ _ _ _ _ _ _ => (top_top _ _).app4.app2.app _
theorem accld : ∀ y0 y1 y2 y3 y4, Statement (.accld y0 y1 y2 y3 y4) :=
  fun _ _ _ _ _ _ => (top_top _ _).app4.app2
theorem obres : ∀ y0 y1 y2 y3, Statement (.obres y0 y1 y2 y3) :=
  fun _ _ _ _ _ => (top_top _ _).app4.app _
theorem obrel : ∀ y0 y1, Statement (.obrel y0 y1) :=
  fun _ _ _ => (top_top _ _).app2.app _
theorem bres : ∀ y0 y1 y2 y3, Statement (.bres y0 y1 y2 y3) :=
  fun _ _ _ _ _ => (top_top _ _).app4.app _
theorem brel : ∀ y0 y1, Statement (.brel y0 y1) :=
  fun _ _ _ => (top_top _ _).app2.app _
theorem mxloop : ∀ y0 y1 y2 y3 y4 y5 y6 y7 y8 y9, Statement (.mxloop y0 y1 y2 y3 y4 y5 y6 y7 y8 y9) :=
  fun _ _ _ _ _ _ _ _ _ _ _ => (top_top _ _).app4.app2.app _
theorem mxwait : ∀ y0, Statement (.mxwait y0) :=
  fun _ _ => encOwn_top _ _ _
theorem accz : ∀ y0 y1, Statement (.accz y0 y1) :=
  fun _ _ _ => (top_top _ _).app2
theorem acczFree : ∀ y0 y1, Statement (.acczFree y0 y1) :=
  fun _ _ _ => (top_top _ _).app2.app _
theorem accrd : ∀ y0 y1 y2 y3 y4 y5, Statement (.accrd y0 y1 y2 y3 y4 y5) :=
  fun _ _ _ _ _ _ _ => (top_top _ _).app4.app2
theorem accwr : ∀ y0 y1 y2 y3 y4 y5, Statement (.accwr y0 y1 y2 y3 y4 y5) :=
  fun _ _ _ _ _ _ _ => (top_top _ _).app4.app2.app _
theorem mxfrz : ∀ y0, Statement (.mxfrz y0) :=
  fun _ _ => encOwn_top _ _ _
theorem mxfrzThaw : ∀ y0, Statement (.mxfrzThaw y0) :=
  fun _ _ => encOwn_top _ _ _
theorem mxsta : ∀ y0 y1, Statement (.mxsta y0 y1) :=
  fun _ _ _ => (top_top _ _).app2
theorem mkrcp : ∀ y0 y1 y2, Statement (.mkrcp y0 y1 y2) :=
  fun _ _ _ _ => (top_top _ _).app2.app _
theorem rmat : ∀ y0 y1, Statement (.rmat y0 y1) :=
  fun _ _ _ => (top_top _ _).app2
theorem rmatAll : ∀ y0, Statement (.rmatAll y0) :=
  fun _ _ => encOwn_top _ _ _
theorem rstat : ∀ y0 y1 y2, Statement (.rstat y0 y1 y2) :=
  fun _ _ _ _ => (top_top _ _).app2.app _
theorem scopeOpen : ∀ y0 y1 y2, Statement (.scopeOpen y0 y1 y2) :=
  fun _ _ _ _ => (top_top _ _).app4
theorem scopeClose : ∀ y0, Statement (.scopeClose y0) :=
  fun _ _ => encOwn_top _ _ _
theorem bra : ∀ y0 y1 y2 y3 y4, Statement (.bra y0 y1 y2 y3 y4) :=
  fun _ _ _ _ _ _ => (top_top _ _).app2.app _
theorem jmp : ∀ y0 y1, Statement (.jmp y0 y1) :=
  fun _ _ _ => encOwn_top _ _ _
theorem call : ∀ y0 y1 y2, Statement (.call y0 y1 y2) :=
  fun _ _ _ _ => (top_top _ _).app2
theorem calli : ∀ y0 y1 y2 y3, Statement (.calli y0 y1 y2 y3) :=
  fun _ _ _ _ _ => (top_top _ _).app4
theorem jmpi : ∀ y0 y1 y2, Statement (.jmpi y0 y1 y2) :=
  fun _ _ _ _ => (top_top _ _).app2.app _
theorem jmpiDesc : ∀ y0 y1 y2 y3, Statement (.jmpiDesc y0 y1 y2 y3) :=
  fun _ _ _ _ _ => (top_top _ _).app4
theorem ret : ∀ y0, Statement (.ret y0) :=
  fun _ _ => encOwn_top _ _ _
theorem pad : ∀ y0 y1, Statement (.pad y0 y1) :=
  fun _ _ _ => (top_top _ _).app2
theorem rjoinSet : ∀ y0 y1, Statement (.rjoinSet y0 y1) :=
  fun _ _ _ => (top_top _ _).app2.app _
theorem rjoinAdd : ∀ y0 y1, Statement (.rjoinAdd y0 y1) :=
  fun _ _ _ => (top_top _ _).app2.app _
theorem rjoinWait : ∀ y0 y1, Statement (.rjoinWait y0 y1) :=
  fun _ _ _ => (top_top _ _).app2.app _
theorem exit : ∀ y0, Statement (.exit y0) :=
  fun _ _ => encOwn_top _ _ _
theorem bar : ∀ y0 y1, Statement (.bar y0 y1) :=
  fun _ _ _ => (top_top _ _).app2
theorem waitSleep : ∀ y0 y1, Statement (.waitSleep y0 y1) :=
  fun _ _ _ => (top_top _ _).app2
theorem waitYield : ∀ y0, Statement (.waitYield y0) :=
  fun _ _ => encOwn_top _ _ _
theorem loop : ∀ y0 y1 y2, Statement (.loop y0 y1 y2) :=
  fun _ _ _ _ => (top_top _ _).app2.app _
theorem henter : ∀ y0 y1 y2 y3 y4, Statement (.henter y0 y1 y2 y3 y4) :=
  fun _ _ _ _ _ _ => (top_top _ _).app4.app _
theorem hstore : ∀ y0 y1 y2 y3 y4, Statement (.hstore y0 y1 y2 y3 y4) :=
  fun _ _ _ _ _ _ => (top_top _ _).app4.app _
theorem hexit : ∀ y0, Statement (.hexit y0) :=
  fun _ _ => (top_top _ _).app2
theorem habort : ∀ y0, Statement (.habort y0) :=
  fun _ _ => (top_top _ _).app2
theorem mark : ∀ y0 y1 y2, Statement (.mark y0 y1 y2) :=
  fun _ _ _ _ => (top_top _ _).app2.app _
theorem cut : ∀ y0 y1 y2 y3, Statement (.cut y0 y1 y2 y3) :=
  fun _ _ _ _ _ => (top_top _ _).app4
theorem graft : ∀ y0 y1, Statement (.graft y0 y1) :=
  fun _ _ _ => (top_top _ _).app2.app _
theorem unmark : ∀ y0 y1, Statement (.unmark y0 y1) :=
  fun _ _ _ => (top_top _ _).app2.app _
theorem tdrop : ∀ y0 y1, Statement (.tdrop y0 y1) :=
  fun _ _ _ => (top_top _ _).app2.app _
theorem tinfo : ∀ y0 y1 y2, Statement (.tinfo y0 y1 y2) :=
  fun _ _ _ _ => (top_top _ _).app4
theorem launch : ∀ y0 y1 y2, Statement (.launch y0 y1 y2) :=
  fun _ _ _ _ => (top_top _ _).app4
theorem mfs : ∀ y0 y1 y2, Statement (.mfs y0 y1 y2) :=
  fun _ _ _ _ => (top_top _ _).app2.app _
theorem mts : ∀ y0 y1 y2, Statement (.mts y0 y1 y2) :=
  fun _ _ _ _ => (top_top _ _).app2.app _
theorem trap : ∀ y0 y1, Statement (.trap y0 y1) :=
  fun _ _ _ => (top_top _ _).app2.app _
theorem tret : ∀ y0, Statement (.tret y0) :=
  fun _ _ => (top_top _ _).app2.app _
theorem icinv : ∀ y0 y1, Statement (.icinv y0 y1) :=
  fun _ _ _ => (top_top _ _).app4
theorem icinvAll : ∀ y0, Statement (.icinvAll y0) :=
  fun _ _ => (top_top _ _).app2.app _
theorem bkpt : ∀ y0 y1, Statement (.bkpt y0 y1) :=
  fun _ _ _ => (top_top _ _).app2.app _
theorem pageWalk : ∀ y0 y1 y2, Statement (.pageWalk y0 y1 y2) :=
  fun _ _ _ h => nomatch h
theorem demandFault : ∀ y0 y1, Statement (.demandFault y0 y1) :=
  fun _ _ h => nomatch h
theorem operandLogReplay : ∀ y0, Statement (.operandLogReplay y0) :=
  fun _ h => nomatch h
theorem orphanThreshold : ∀ y0, Statement (.orphanThreshold y0) :=
  fun _ h => nomatch h
theorem migration : ∀ y0 y1 y2, Statement (.migration y0 y1 y2) :=
  fun _ _ _ h => nomatch h
theorem copyChunk : ∀ y0, Statement (.copyChunk y0) :=
  fun _ h => nomatch h
theorem cbwaitWake : ∀ y0, Statement (.cbwaitWake y0) :=
  fun _ h => nomatch h
theorem sleepuntilWake : ∀ y0, Statement (.sleepuntilWake y0) :=
  fun _ h => nomatch h
theorem sleepExpiry : ∀ y0 y1, Statement (.sleepExpiry y0 y1) :=
  fun _ _ h => nomatch h
theorem publishFlip : ∀ y0, Statement (.publishFlip y0) :=
  fun _ h => nomatch h
theorem heartbeatTick : Statement .heartbeatTick :=
  fun h => nomatch h
theorem patrolScrub : ∀ y0 y1, Statement (.patrolScrub y0 y1) :=
  fun _ _ h => nomatch h
theorem idle : ∀ y0 y1, Statement (.idle y0 y1) :=
  fun _ _ h => nomatch h
theorem write : ∀ y0 y1, Statement (.write y0 y1) :=
  fun _ _ h => nomatch h
theorem read : ∀ y0 y1, Statement (.read y0 y1) :=
  fun _ _ h => nomatch h
theorem atomic : ∀ y0 y1, Statement (.atomic y0 y1) :=
  fun _ _ h => nomatch h
theorem readResp : ∀ y0 y1, Statement (.readResp y0 y1) :=
  fun _ _ h => nomatch h
theorem atomicResp : ∀ y0 y1, Statement (.atomicResp y0 y1) :=
  fun _ _ h => nomatch h
theorem ack : ∀ y0 y1, Statement (.ack y0 y1) :=
  fun _ _ h => nomatch h
theorem bulk : ∀ y0 y1, Statement (.bulk y0 y1) :=
  fun _ _ h => nomatch h
theorem nak : ∀ y0 y1, Statement (.nak y0 y1) :=
  fun _ _ h => nomatch h
theorem drain : ∀ y0 y1, Statement (.drain y0 y1) :=
  fun _ _ h => nomatch h
theorem drainAck : ∀ y0 y1, Statement (.drainAck y0 y1) :=
  fun _ _ h => nomatch h
theorem replayTimeout : ∀ y0, Statement (.replayTimeout y0) :=
  fun _ h => nomatch h
theorem portRetrain : ∀ y0 y1, Statement (.portRetrain y0 y1) :=
  fun _ _ h => nomatch h
theorem routeUpdate : ∀ y0 y1, Statement (.routeUpdate y0 y1) :=
  fun _ _ h => nomatch h
theorem matrixWorkBegin : ∀ y0, Statement (.matrixWorkBegin y0) :=
  fun _ h => nomatch h
theorem matrixBlock : ∀ y0, Statement (.matrixBlock y0) :=
  fun _ h => nomatch h
theorem acczClaim : ∀ y0, Statement (.acczClaim y0) :=
  fun _ h => nomatch h
theorem registerFold : ∀ y0 y1, Statement (.registerFold y0 y1) :=
  fun _ _ h => nomatch h
theorem registerUnspill : ∀ y0 y1, Statement (.registerUnspill y0 y1) :=
  fun _ _ h => nomatch h
theorem podBarrierUpdate : ∀ y0, Statement (.podBarrierUpdate y0) :=
  fun _ h => nomatch h
theorem podBarrierRelease : ∀ y0, Statement (.podBarrierRelease y0) :=
  fun _ h => nomatch h
theorem launchComplete : ∀ y0, Statement (.launchComplete y0) :=
  fun _ h => nomatch h
theorem dispatchDecision : ∀ y0, Statement (.dispatchDecision y0) :=
  fun _ h => nomatch h
theorem launchAccept : ∀ y0, Statement (.launchAccept y0) :=
  fun _ h => nomatch h
theorem doorbell : ∀ y0 y1, Statement (.doorbell y0 y1) :=
  fun _ _ h => nomatch h
theorem queueMap : ∀ y0, Statement (.queueMap y0) :=
  fun _ h => nomatch h
theorem packetNop : ∀ y0, Statement (.packetNop y0) :=
  fun _ h => nomatch h
theorem packetLaunch : ∀ y0, Statement (.packetLaunch y0) :=
  fun _ h => nomatch h
theorem packetSignal : ∀ y0, Statement (.packetSignal y0) :=
  fun _ h => nomatch h
theorem packetWait : ∀ y0, Statement (.packetWait y0) :=
  fun _ h => nomatch h
theorem packetFence : ∀ y0, Statement (.packetFence y0) :=
  fun _ h => nomatch h
theorem coreRevocation : ∀ y0, Statement (.coreRevocation y0) :=
  fun _ h => nomatch h
theorem rescueTimeout : ∀ y0, Statement (.rescueTimeout y0) :=
  fun _ h => nomatch h
theorem stopRequest : ∀ y0, Statement (.stopRequest y0) :=
  fun _ h => nomatch h
theorem graceTimer : ∀ y0, Statement (.graceTimer y0) :=
  fun _ h => nomatch h
theorem killTimer : ∀ y0, Statement (.killTimer y0) :=
  fun _ h => nomatch h
theorem instructionHalt : ∀ y0, Statement (.instructionHalt y0) :=
  fun _ h => nomatch h
theorem contextResume : ∀ y0 y1, Statement (.contextResume y0 y1) :=
  fun _ _ h => nomatch h
theorem coreStateError : ∀ y0 y1, Statement (.coreStateError y0 y1) :=
  fun _ _ h => nomatch h
theorem latencyMonitor : Statement .latencyMonitor :=
  fun h => nomatch h
theorem huskCommit : ∀ y0, Statement (.huskCommit y0) :=
  fun _ h => nomatch h
theorem henterWake : ∀ y0, Statement (.henterWake y0) :=
  fun _ h => nomatch h
theorem huskOrphanRequest : ∀ y0, Statement (.huskOrphanRequest y0) :=
  fun _ h => nomatch h
theorem holderReturn : ∀ y0, Statement (.holderReturn y0) :=
  fun _ h => nomatch h
theorem huskPurge : ∀ y0, Statement (.huskPurge y0) :=
  fun _ h => nomatch h
theorem tenantStop : ∀ y0, Statement (.tenantStop y0) :=
  fun _ h => nomatch h
theorem queueReset : ∀ y0, Statement (.queueReset y0) :=
  fun _ h => nomatch h
theorem invcmd : ∀ y0, Statement (.invcmd y0) :=
  fun _ h => nomatch h
theorem invalidationComplete : Statement .invalidationComplete :=
  fun h => nomatch h
theorem partcfg : ∀ y0 y1, Statement (.partcfg y0 y1) :=
  fun _ _ h => nomatch h
theorem partquads : ∀ y0 y1, Statement (.partquads y0 y1) :=
  fun _ _ h => nomatch h
theorem retrain : ∀ y0, Statement (.retrain y0) :=
  fun _ h => nomatch h
theorem routewr : ∀ y0, Statement (.routewr y0) :=
  fun _ h => nomatch h
theorem routerd : ∀ y0, Statement (.routerd y0) :=
  fun _ h => nomatch h
theorem orphth : ∀ y0, Statement (.orphth y0) :=
  fun _ h => nomatch h
theorem qosp50 : ∀ y0, Statement (.qosp50 y0) :=
  fun _ h => nomatch h
theorem qosp99 : ∀ y0, Statement (.qosp99 y0) :=
  fun _ h => nomatch h
theorem fltrespReplay : ∀ y0 y1, Statement (.fltrespReplay y0 y1) :=
  fun _ _ h => nomatch h
theorem fltrespUnresolvable : ∀ y0 y1, Statement (.fltrespUnresolvable y0 y1) :=
  fun _ _ h => nomatch h
theorem fltcfg : ∀ y0 y1, Statement (.fltcfg y0 y1) :=
  fun _ _ h => nomatch h
theorem fltcons : ∀ y0 y1, Statement (.fltcons y0 y1) :=
  fun _ _ h => nomatch h
theorem registerWrite : ∀ y0 y1, Statement (.registerWrite y0 y1) :=
  fun _ _ h => nomatch h
theorem powerOnReset : Statement .powerOnReset :=
  fun h => nomatch h
theorem recov : ∀ y0, Statement (.recov y0) :=
  fun _ h => nomatch h
theorem spdmRequest : ∀ y0, Statement (.spdmRequest y0) :=
  fun _ h => nomatch h
theorem tdispTransition : ∀ y0 y1, Statement (.tdispTransition y0 y1) :=
  fun _ _ h => nomatch h
theorem cxlPortFailure : ∀ y0, Statement (.cxlPortFailure y0) :=
  fun _ h => nomatch h
theorem reservedMajor : ∀ y0, Statement (.reservedMajor y0) :=
  fun _ h => nomatch h
theorem fetchFault : ∀ y0, Statement (.fetchFault y0) :=
  fun _ h => nomatch h
theorem reservedPacket : ∀ y0, Statement (.reservedPacket y0) :=
  fun _ h => nomatch h
theorem crcFailure : ∀ y0, Statement (.crcFailure y0) :=
  fun _ h => nomatch h
theorem flitSlot : ∀ y0, Statement (.flitSlot y0) :=
  fun _ h => nomatch h
theorem fabcmd : ∀ y0, Statement (.fabcmd y0) :=
  fun _ h => nomatch h
theorem fltbase : ∀ y0 y1, Statement (.fltbase y0 y1) :=
  fun _ _ h => nomatch h
theorem hostSideReset : Statement .hostSideReset :=
  fun h => nomatch h
theorem hostMemoryAccess : ∀ y0 y1 y2, Statement (.hostMemoryAccess y0 y1 y2) :=
  fun _ _ _ h => nomatch h
theorem plateSensorLimit : Statement .plateSensorLimit :=
  fun h => nomatch h

end Sys2Proof.Laws.HeaderBits
end

