-- ==== Sys2Proof/Laws/Registers.lean ====
section
/-! SUPPORT. What a write of a register changes and what every register delivers afterwards (R21, R33, R34, R145). -/

namespace Sys2Proof.Machine

theorem Group.vreg_setVreg (g : Group) (r k : Nat) (x : VReg) : (g.setVreg r x).vreg k = if k = r then x else g.vreg k := by
  simp [Group.vreg, Group.setVreg, Tbl.get_set]

theorem Group.width_le {g : Group} (h : g.widthOk = true) : g.width ≤ g.w ∧ g.w ≤ 64 := by
  simp only [Group.widthOk, Bool.or_eq_true, beq_iff_eq] at h
  unfold Group.w
  split <;> omega

/-- What every register delivers after a write of lane values (R34, R145). -/
theorem Group.rdp_writeLanes {g : Group} (h : g.widthOk = true) (act : Mask) (r : Nat) (lanes : List (Word × Bool)) (k i : Nat) :
    (g.writeLanes act r lanes).rdp k i =
      if k = r ∧ i < g.width ∧ act.getLsbD i = true then Tbl.get (0, false) lanes i else g.rdp k i := by
  have hw := Group.width_le h
  unfold Group.writeLanes Group.rdp
  simp only [Group.vreg_setVreg]
  by_cases hi : i < g.width
  · have hiw : i < g.w := by omega
    have hi64 : i < 64 := by omega
    simp only [Group.setVreg, hi, if_true]
    by_cases hk : k = r
    · subst hk
      simp only [if_true, true_and]
      cases hh : (g.vreg k).hold <;> cases ha : act.getLsbD i <;>
        simp [-BitVec.getLsbD_eq_getElem, -BitVec.ofNat_eq_ofNat, Hold.read, Tbl.get_map_range, hiw, hi, hi64, ha]
    · simp [hk]
  · simp [Group.setVreg, hi]

/-- What every register delivers after a write of one value to every active lane (R21). Under a full mask with no lane exited the active lanes
are all the lanes there are. -/
theorem Group.rdp_writeUniform {g : Group} (h : g.widthOk = true) (act : Mask) (full : Bool) (r : Nat) (v : Word) (b : Bool) (k i : Nat)
    (hf : full = true → g.exited = 0 → act = g.all) :
    (g.writeUniform act full r v b).rdp k i = if k = r ∧ i < g.width ∧ act.getLsbD i = true then (v, b) else g.rdp k i := by
  have hw := Group.width_le h
  unfold Group.writeUniform
  split
  · next hc =>
    simp only [Bool.and_eq_true, beq_iff_eq] at hc
    have ha := hf hc.1 hc.2
    unfold Group.rdp
    simp only [Group.vreg_setVreg]
    by_cases hi : i < g.width
    · have hall : act.getLsbD i = true := by
        rw [ha]
        simp only [Group.widthOk, Bool.or_eq_true, beq_iff_eq] at h
        unfold Group.all
        rcases h with (h | h) | h <;> rw [h] at hi ⊢ <;> simp only [if_true, reduceIte, Nat.reduceEqDiff] <;>
          · have : i < 64 := by omega
            revert hi
            revert this
            revert i
            decide
      by_cases hk : k = r
      · subst hk; simp [Group.setVreg, Hold.read, hi, hall]
      · simp [Group.setVreg, hk, hi]
    · simp [Group.setVreg, hi]
  · rw [Group.rdp_writeLanes h]
    by_cases hi : i < g.width
    · rw [Tbl.get_replicate, if_pos (show i < 64 by omega)]
    · simp [hi]

/-- A write of one value keeps no register but its own. -/
theorem Group.vreg_writeLanes_ne {g : Group} (act : Mask) {r k : Nat} (lanes : List (Word × Bool)) (h : k ≠ r) :
    (g.writeLanes act r lanes).vreg k = g.vreg k := by
  unfold Group.writeLanes
  simp [Group.vreg_setVreg, h]

theorem Group.vreg_writeUniform_ne {g : Group} (act : Mask) (full : Bool) {r k : Nat} (v : Word) (b : Bool) (h : k ≠ r) :
    (g.writeUniform act full r v b).vreg k = g.vreg k := by
  unfold Group.writeUniform
  split
  · simp [Group.vreg_setVreg, h]
  · exact Group.vreg_writeLanes_ne act _ h

/-- Under a full mask with no lane exited the active lanes are all the lanes there are. -/
theorem Ctx.full_all {c : Ctx} (hf : c.full = true) (he : c.g.exited = 0) : c.act = c.g.all := by
  simp only [Ctx.full, Group.fullMask, Bool.and_eq_true, beq_iff_eq] at hf
  rw [Ctx.act, hf.2, Group.alive, he]
  exact BitVec.and_allOnes

/-- What a predicate and its poison marks hold after a write (R33). -/
theorem Group.pred_writePred (g : Group) (act : Mask) (r : BitVec 3) (vals bad : Mask) (k : BitVec 3) :
    (g.writePred act r vals bad).pred k = (if k = r ∧ r ≠ 7 then (g.pred k &&& ~~~act) ||| (vals &&& act) else g.pred k) ∧
    (g.writePred act r vals bad).predBad k =
      (if k = r ∧ r ≠ 7 then (g.predBad k &&& ~~~act) ||| (bad &&& act) else g.predBad k) := by
  unfold Group.writePred Group.pred Group.predBad
  by_cases hr : r = 7
  · rw [if_pos hr]
    have : ¬(k = r ∧ r ≠ 7) := fun h => h.2 hr
    rw [if_neg this, if_neg this]
    exact ⟨rfl, rfl⟩
  · rw [if_neg hr]
    by_cases hk : k = r
    · subst hk
      simp only [hr, if_false, Tbl.get_set_same, ne_eq, not_false_eq_true, and_self, if_true]
    · have hne : k.toNat ≠ r.toNat := fun e => hk (BitVec.eq_of_toNat_eq e)
      have : ¬(k = r ∧ r ≠ 7) := fun h => hk h.1
      rw [if_neg this, if_neg this]
      simp only [Tbl.get_set_ne _ _ _ hne]
      exact ⟨rfl, trivial⟩

/-- Where vector registers alone differ, a frame is a matter of them. -/
theorem Group.sameBut_vectors {g : Group} {v : List VReg} {act : Mask} {w : Foot}
    (hv : ∀ r, r < 64 → w.v.getLsbD r = false → Group.vreg { g with v := v } r = g.vreg r)
    (hl : ∀ r i, r < 64 → act.getLsbD i = false → Group.rdp { g with v := v } r i = g.rdp r i) : g.SameBut { g with v := v } act w := by
  unfold Group.SameBut
  exact And.intro rfl (And.intro hv (And.intro hl (by simp [Group.pred, Group.predBad, Group.xreg, Group.areg, Group.freg, Group.all])))

/-- A write of lane values leaves alone what the frame of its register names. -/
theorem Group.sameBut_writeLanes {g : Group} (h : g.widthOk = true) (act : Mask) {r : Nat} (lanes : List (Word × Bool)) {w : Foot}
    (hr : w.v.getLsbD r = true) : g.SameBut (g.writeLanes act r lanes) act w :=
  Group.sameBut_vectors (fun _ _ hk => Group.vreg_writeLanes_ne act lanes fun e => by rw [e, hr] at hk; cases hk)
    fun k i _ hi => (Group.rdp_writeLanes h act r lanes k i).trans (by simp [hi])

theorem Group.sameBut_writeUniform {g : Group} (h : g.widthOk = true) (act : Mask) (full : Bool) {r : Nat} (v : Word) (b : Bool) {w : Foot}
    (hf : full = true → g.exited = 0 → act = g.all) (hr : w.v.getLsbD r = true) : g.SameBut (g.writeUniform act full r v b) act w := by
  have e : g.writeUniform act full r v b = { g with v := (g.writeUniform act full r v b).v } := by
    unfold Group.writeUniform
    split <;> rfl
  rw [e]
  exact Group.sameBut_vectors
    (fun k _ hk => e ▸ Group.vreg_writeUniform_ne act full v b fun e' => by rw [e', hr] at hk; cases hk)
    fun k i _ hi => e ▸ (Group.rdp_writeUniform h act full r v b k i hf).trans (by simp [hi])

theorem Group.sameBut_writePred {g : Group} (act : Mask) {r : BitVec 3} (vals bad : Mask) {w : Foot}
    (hr : r ≠ 7 → w.p.getLsbD r.toNat = true) : g.SameBut (g.writePred act r vals bad) act w := by
  have honly : g.onlyRegs (g.writePred act r vals bad) := by
    unfold Group.writePred
    split <;> rfl
  have hv : (g.writePred act r vals bad).v = g.v ∧ (g.writePred act r vals bad).x = g.x ∧ (g.writePred act r vals bad).a = g.a ∧
      (g.writePred act r vals bad).f = g.f ∧ (g.writePred act r vals bad).width = g.width := by
    unfold Group.writePred
    split <;> exact ⟨rfl, rfl, rfl, rfl, rfl⟩
  refine ⟨honly, ?_, ?_, ?_, ?_, ?_, ?_, ?_⟩
  · intro k _ _; simp [Group.vreg, hv]
  · intro k i _ _; simp [Group.rdp, Group.vreg, hv]
  · intro k hk
    rw [(Group.pred_writePred g act r vals bad k).1, (Group.pred_writePred g act r vals bad k).2]
    by_cases h : k = r ∧ r ≠ 7
    · rw [h.1, hr h.2] at hk; cases hk
    · rw [if_neg h, if_neg h]; exact ⟨rfl, rfl⟩
  · intro k i hi
    rw [(Group.pred_writePred g act r vals bad k).1, (Group.pred_writePred g act r vals bad k).2]
    by_cases h : k = r ∧ r ≠ 7
    · have hlt : ∀ m x : Mask, (m &&& ~~~act ||| x &&& act).getLsbD i = m.getLsbD i := by
        intro m x
        by_cases h64 : i < 64
        · simp [-BitVec.getLsbD_eq_getElem, hi, h64]
        · simp [BitVec.getLsbD_of_ge _ _ (Nat.le_of_not_lt h64)]
      rw [if_pos h, if_pos h]
      exact ⟨hlt _ _, hlt _ _⟩
    · rw [if_neg h, if_neg h]; exact ⟨rfl, rfl⟩
  · intro n _ _; simp [Group.xreg, hv]
  · intro n _; simp [Group.areg, hv]
  · intro n _; simp [Group.freg, hv]

end Sys2Proof.Machine
end

