-- ==== Sys2Proof/Tests/Slice0.lean ====
section
/-! SUPPORT. Tests: ill-formed terms that WellFormed refuses, words written out from the encodings, single steps with values from the spec's tables, and for each
statement of Obligations states that meet its hypotheses. -/

namespace Sys2Proof.Tests

open Sys2Proof Sys2Proof.Machine

set_option Elab.async false

/-! ### A small state -/

/-- No C, U or S; and U alone. -/
def hd : Hdr := ⟨false, false, false⟩
def hu : Hdr := ⟨false, true, false⟩

/-- One node of one group of 32 lanes. -/
def node0 : NodeRec where
  entry := 0x10000
  groups := 1
  width := 32
  floor := 0
  rs := false
  localUnits := 16
  delta := 0
  gang := 0
  gid := 0
  npred := 0
  nsucc := 0
  first := 0
  tiles := []
/-- The launch's header: one section, one node, 4 packets' worth of depth, stack windows of 4 KiB. -/
def hdr0 : Header :=
  let z : Header := ⟨1, false, 0, 1, 4, 0, 0, 0, 0, 0, 0, 4096, 0, 0, 0, 0, 0, 0, 0, 0, 0⟩
  { z with stack := 0x100000 }
/-- The node runs. -/
def runs0 : NodeRun := ⟨.resident, false, 0, 0, 7, none⟩
/-- Its launch: code at 0x10000, stack windows of 4 KiB at 0x100000. -/
def launch0 : Launch where
  serial := 0
  img := 0x40000
  asid := 1
  part := 0
  queue := 0
  parent := none
  qprio := none
  msix := none
  hdr := hdr0
  sects := [(0x10000, 1200)]
  edges := []
  nodes := [node0]
  runs := [runs0]
  podNodes := []
  podWord := 0
  podTotal := 0
  counts := []
  faulted := none
  children := 0
  slots := [0]
  teamCount := 1
  ladder := none
  stopAt := 0
  told := 0
  live := true
/-- Its team on core 0, with 4 KiB of local memory. -/
def team0 : Team where
  teamId := 0
  launch := 0
  node := 0
  core := 0
  width := 32
  floor := 0
  localBase := 0
  localSize := 4096
  localMem := []
  localPoison := []
  counts := []
  safe := true
  prio := 7
  rescue := false
  halting := none
  started := 0
  groups := [0]
  podGen := none
  podDone := false
  live := true

/-- A vector register that holds one value for all lanes. -/
def uni (x : Word) : VReg := ⟨.uniform x false, none, 0⟩
/-- Registers v0 up. -/
def vals (l : List Word) : List VReg := l.map uni

/-- Rights R, W, A and K on 4 KiB of data at 0x20000. -/
def data0 : Desc := ⟨0x20000, 0x20000, 0x1000, 0x1B⟩
/-- Rights R and K on constants at 0x30000. -/
def const0 : Desc := ⟨0x30000, 0x30000, 0x1000, 0x11⟩
/-- The stack descriptor of the launch. -/
def stack0 : Desc := ⟨0x100000, 0x100000, 4096, 0x23⟩

/-- A path that waits for nothing. -/
def path0 (pc : DWord) (m : Mask) : Path := ⟨pc, m, 0, none, none, none, false⟩

/-- The group: v1 to v6 hold 5, 7, 0, 1, 0x3F800000 and 0x40000000, p1 the even lanes, a0 data, a15 the stack. -/
def group0 : Group := { State.writeRegs.default0 with
  key := 9
  v := vals [0, 5, 7, 0, 1, 0x3F800000, 0x40000000]
  p := [0, 0x55555555]
  a := Tbl.set Desc.null [data0, const0] 15 stack0
  slotA := some (path0 0x10000 0xFFFFFFFF)
  live := true }

/-- A leaf entry: a frame and its low 16 bits. -/
def leaf (frame : Nat) (bits : Nat) : DWord := BitVec.ofNat 64 (frame * 65536 + bits)

/-- A translation that core 0's TLB holds. -/
def held (page : Nat) (pte : DWord) : TlbEntry := ⟨.l1 0, 1, page, pte, false, false⟩

/-- The package: the ROM has run, the group is resident, and the translations of its code, data and stack are held. -/
def pkg0 : State := { State.reset with
  boot := { State.reset.boot with state := 2 }
  groups := [some group0]
  teams := [some team0]
  launches := [some launch0]
  tlb := [(1, leaf 2 0x2017), (2, leaf 3 0x602F), (3, leaf 5 0x2047), (16, leaf 4 0x602F), (17, leaf 6 0x602F)].map fun e => held e.1 e.2 }

/-- The package with its group changed, and what the group's path sees there. -/
def pkgWith (g : Group) : State := { pkg0 with groups := [some g] }
def at0 (g : Group) : Ctx := ⟨pkgWith g, 0, .a, g, (g.slotA).getD (path0 0 0)⟩
def ctx0 : Ctx := at0 group0

/-- The state that an outcome goes on with; the reset state where there is none. -/
def after (o : Host.Outcome State Fault Refusal) : State :=
  match o with
  | .next s => s
  | _ => State.reset

/-- The group that an instruction leaves. -/
def run (c : Ctx) (i : Instr) : Group := ((after (exec i c.s)).group 0).getD State.writeRegs.default0

/-! ### Integer and floating instructions -/

theorem test_meets_IntegerLaneResults : ctx0.Quiet (.iadd hd 8 1 0 2 0) ∧ ctx0.act ≠ 0 ∧ ctx0.patternsOk (.iadd hd 8 1 0 2 0) = true ∧
    (Instr.iadd hd 8 1 0 2 0).wellFormed = true ∧ ruleInt ctx0.g 0 (.iadd hd 8 1 0 2 0) ≠ [] := by decide +kernel

theorem test_meets_PredicateLaneResults : ctx0.Quiet (.icmpi hd 2 .lt 1 6) ∧ ctx0.act ≠ 0 ∧ rulePred ctx0.g 0 (.icmpi hd 2 .lt 1 6) = some (2, true, false) ∧
    ctx0.Quiet (.icmpi hd 7 .lt 1 6) ∧ rulePred ctx0.g 0 (.icmpi hd 7 .lt 1 6) = some (7, true, false) := by decide +kernel

theorem test_meets_AcrossLaneResults : ctx0.Quiet (.vote hd 8 1 .count) ∧ ctx0.patternsOk (.vote hd 8 1 .count) = true ∧
    (ruleAcross ctx0.g ctx0.act 0 (.vote hd 8 1 .count)).isSome = true := by decide +kernel

theorem test_meets_FloatLaneResults : ctx0.Quiet (.fadd hd 8 5 0 6 0) ∧ ctx0.act ≠ 0 ∧ ctx0.patternsOk (.fadd hd 8 5 0 6 0) = true ∧
    (ruleFloat ctx0.g 0 (.fadd hd 8 5 0 6 0)).isSome = true := by decide +kernel

theorem test_meets_FloatCompareResults : ctx0.Quiet (.fcmp hd 2 .lt 5 6 7 false) ∧ ctx0.act ≠ 0 ∧ (2 : BitVec 3) ≠ 7 := by decide +kernel

/-- A format register that holds a valid word of an 8-bit format, and one that holds none. -/
def cvtGroup : Group := { group0 with f := [0x7183C000, 0xFFFFFFFF], x := [0xE000] }
def cvtCtx : Ctx := at0 cvtGroup
theorem test_meets_ConversionResults : cvtCtx.Quiet (.cvtn hd 8 1 0 .rne 5) ∧ cvtCtx.act ≠ 0 ∧
    convertFormat (.cvtn hd 8 1 0 .rne 5) = some 0 ∧ fmtValid (cvtCtx.g.freg 0) = true ∧
    (ruleConvert cvtCtx.g 0 0 (.cvtn hd 8 1 0 .rne 5)).isSome = true := by decide +kernel

theorem test_meets_FloatReductionResults : ctx0.Quiet (.fredux hd 8 5 .fradd) := by decide +kernel

theorem test_meets_SingleRounding : (0 : Nat) < 3 ∧ isNan32 0x3F800000 = false ∧ (1 : Nat) ≠ roundAt .rne 0 12 0 false 3 ∧
    Int.natAbs ((roundAt .rne 0 12 0 false 3 : Nat) * 2 ^ 3 - (12 : Int)) = Int.natAbs (((1 : Nat) : Int) * 2 ^ 3 - 12) := by decide +kernel

/-- A reserved pattern and a format word that is none, with active lanes, and under U without. -/
def noLanes : Ctx := at0 { cvtGroup with slotA := some (path0 0x10000 0) }
theorem test_meets_ReservedFormsTrap : cvtCtx.Issues (.iadd hd 8 1 1 2 0) ∧ cvtCtx.plain = true ∧ cvtCtx.act ≠ 0 ∧
    (rulePatterns (.iadd hd 8 1 1 2 0)).find? (fun x => (patternLane (cvtCtx.g.pattern x) cvtCtx.g.w 0).isNone) = some 1 ∧
    cvtCtx.Issues (.cvtn hd 8 1 1 .rne 5) ∧ convertFormat (.cvtn hd 8 1 1 .rne 5) = some 1 ∧ fmtValid (cvtCtx.g.freg 1) = false ∧
    noLanes.Quiet (.iadd hu 8 1 1 2 0) ∧ noLanes.act = 0 ∧ ruleInt noLanes.g 0 (.iadd hu 8 1 1 2 0) ≠ [] ∧ noLanes.Quiet (.cvtn hu 8 1 1 .rne 5) := by
  decide +kernel

/-! ### Encodings -/

/-- WellFormed refuses: a pair in an odd register (R31), a quad not in a multiple of 4, a special register that MTS cannot write, a reserved major's word with
an assigned major. -/
theorem test_ill_formed :
    (Instr.aadvPair hd 0 1).wellFormed = false ∧ (Instr.aset hd 0 2).wellFormed = false ∧ (Instr.mts hd 8 .laneid).wellFormed = false ∧
      (Instr.ldD hd 3 ⟨0, 0, .core, .plain, false⟩).wellFormed = false ∧ (Instr.ldQ hd 2 ⟨0, 0, .core, .plain, false⟩).wellFormed = false ∧
      (Instr.reservedMajor 0x01820410).wellFormed = false := by decide +kernel

/-- Bits of a word from its fields in the tables: IADD v2, v1, v3 (R26: major 0x01, vd [21:16], va [15:10], pa, vb [7:2], pb). -/
theorem test_word_iadd : decode 0x0042040C 0 = .ok (.iadd hd 2 1 0 3 0) := by decide +kernel
theorem test_word_icmpi : decode 0x058D08C8 0 = .ok (.icmpi hd 1 .ge 2 200) := by decide +kernel
theorem test_word_sel : decode 0x05030B02 0 = .ok (.sel hd 3 2 48 1 false) := by decide +kernel
theorem test_word_redux : decode 0x07C50C00 0 = .ok (.redux hd 5 3 .radd) := by decide +kernel
theorem test_word_cut : decode 0x1F441D40 0xE = .ok (.cut hd 7 20 0xE) := by decide +kernel
theorem test_word_mkrcp : decode 0x1B142000 0 = .ok (.mkrcp hd 20 1) := by decide +kernel
theorem test_word_mfs : decode 0x9FC10000 0 = .ok (.mfs ⟨true, false, false⟩ 1 .laneid) := by decide +kernel
/-- A reserved field that is not zero is BAD_FORM (R32 order 2); major 0x36 is reserved (R30). -/
theorem test_word_bad : decode 0x1B142001 0 = .error .badForm ∧ decode 0x0D800000 0 = .error .illegalOp := by decide +kernel

theorem test_meets_EncodedInstructionsDecodeBack :
    (Instr.mxloop hd true 5 2 8 .s4 true 4095 7 6).isWord = true ∧ (Instr.mxloop hd true 5 2 8 .s4 true 4095 7 6).wellFormed = true := by decide +kernel

theorem test_meets_WordsHaveOneMeaning : decode 0x1B142000 0 = .ok (.mkrcp hd 20 1) := by decide +kernel

/-- A word of major 0x36 at the path's PC. -/
theorem test_meets_ReservedMajorsAreIllegal : (Instr.reservedMajor 0x0D800000).wellFormed = true ∧ pkg0.group pkg0.cur.1 = some group0 ∧
    group0.slot pkg0.cur.2 = some ctx0.path ∧ group0.deferredAt ctx0.path = none := by decide +kernel

/-- Code in the package: words at the start of the section. -/
def code (l : List Nat) : State := { pkg0 with mem := Mem.writeN [] 0x20000 (4 * l.length) (l.foldr (fun w acc => w + 2 ^ 32 * acc) 0) }

/-- A fetch of a word that is there, and the state that it leaves. -/
def fetched : Fetch → Option (Word × State)
  | .ok w s => some (w, s)
  | _ => none
theorem fetched_ok {f : Fetch} {w : Word} (h : (fetched f).map Prod.fst = some w) : ∃ s, f = .ok w s := by
  match f, h with
  | .ok x s, h => exact ⟨s, by rw [← Option.some.inj h]⟩

/-- R337 and R16: the second word of LI at a PC. -/
def secondState : State := { code [0x06C80000, 0x12345678] with groups := [some { group0 with slotA := some { ctx0.path with pc := 0x10004 } }] }
def secondCtx : Ctx := ⟨secondState, 0, .a, { group0 with slotA := some { ctx0.path with pc := 0x10004 } }, { ctx0.path with pc := 0x10004 }⟩
theorem test_meets_fetchFault_second : secondCtx.Live ∧ secondCtx.g.deferredAt secondCtx.path = none ∧
    (fetched (secondCtx.fetchWord secondState 0x10004)).map (fun r => (r.1, r.2.cur, r.2.group 0)) =
      some (0x12345678, secondState.cur, some secondCtx.g) := by decide +kernel

/-- IADD v2, v1, v3 alone in its packet is chosen and fetched; and LI in the packet behind it, of two words. -/
def iaddState : State := code [0x0042040C]
def issued (s : State) (pc : DWord) : Ctx :=
  let s0 : State := { s.settled.grant 0 .a with cur := (0, .a), chain := 0 }
  let g := (s0.group 0).getD group0
  ⟨s0, 0, .a, g, (g.slot .a).getD (path0 pc 0)⟩
def iaddCtx : Ctx := issued iaddState 0x10000
/-- What a fetch of a path's own words finds behind a PC that is no second word. -/
def fetchedAt (c : Ctx) (pc : Nat) : Option (Word × State) :=
  match c.secondWord pc 0 c.s with
  | .is false s1 => fetched (c.fetchWord s1 pc)
  | _ => none
theorem test_meets_StepRunsDecodedInstruction :
    iaddState.boot.state = 2 ∧ iaddState.chain = 0 ∧ iaddState.inbox = [] ∧ iaddState.settled.pick = .issue 0 .a ∧
    iaddCtx.s.group 0 = some iaddCtx.g ∧ iaddCtx.g.slot .a = some iaddCtx.path ∧ iaddCtx.g.deferredAt iaddCtx.path = none ∧
    iaddCtx.path.pc = 0x10000 ∧ (sectOf (iaddCtx.s.sectsOf iaddCtx.g) 0x10000).isSome = true ∧
    packetOf (iaddCtx.s.sectsOf iaddCtx.g) 0x10000 = 0x10000 ∧ (fetchedAt iaddCtx 0x10000).map Prod.fst = some 0x0042040C ∧
    (0x0042040C : Word).getLsbD 31 = false ∧ wordsOf 0x0042040C = 1 ∧ decode 0x0042040C 0 = .ok (.iadd hd 2 1 0 3 0) ∧
    iaddCtx.gate (.iadd hd 2 1 0 3 0) = none ∧ iaddCtx.heldBack (.iadd hd 2 1 0 3 0) = false := by decide +kernel
theorem test_meets_twoWords :
    let s := code [0x06C80000, 0x12345678]
    let c := issued s 0x10000
    s.settled.pick = .issue 0 .a ∧ wordsOf 0x06C80000 = 2 ∧ decode 0x06C80000 0x12345678 = .ok (.li hd 8 0x12345678) ∧
    ((fetchedAt c 0x10000).bind fun r => fetched (c.fetchWord r.2 0x10004)).map Prod.fst = some 0x12345678 ∧
    c.gate (.li hd 8 0x12345678) = none ∧ c.heldBack (.li hd 8 0x12345678) = false := by decide +kernel

/-- The second member of a chain: IADD at slot 1 while one member is left. -/
theorem test_meets_chainMember :
    let s := { code [0x8042040C, 0x0042040C] with chain := 1, groups := [some { group0 with slotA := some { ctx0.path with pc := 0x10004 } }] }
    let c : Ctx := ⟨s, 0, .a, { group0 with slotA := some { ctx0.path with pc := 0x10004 } }, { ctx0.path with pc := 0x10004 }⟩
    c.Live ∧ (match c.fetchChain 0x10000 1 1 s with
    | .ok (m :: _) _ => decide (m.decoded = .ok (.iadd hd 2 1 0 3 0))
    | _ => false) = true ∧ s.boot.state ≠ 0 ∧ s.chain ≠ 0 ∧ c.heldBack (.iadd hd 2 1 0 3 0) = false := by decide +kernel

/-- One step of the package runs the instruction: v2 is 5 + 0. -/
theorem test_step_iadd : ((after (step iaddState)).group 0).map (fun g => (g.rd 2 7, (g.slotA.map Path.pc))) = some (5, some 0x10004) := by
  decide +kernel

theorem test_meets_MemoryReadsBack : State.reset.Inv ∧ pkg0.translate (pkg0.coreOf group0) (pkg0.asidOf group0) 0x10000 false = (.ok 0x20000 (leaf 2 0x2017) false, pkg0) ∧
    pkg0.isLocal 0x20000 = true ∧ pteX (leaf 2 0x2017) = true ∧ pkg0.cached (pkg0.coreOf group0) (pkg0.asidOf group0) 0x10000 = none ∧ pteX (leaf 3 0x602F) = false := by decide +kernel

theorem test_reset_inv : State.reset.Inv := by decide +kernel

/-! ### Address registers and memory -/

/-- v8 to v11: base 0x20000, length 64 and rights R and W for ASET; v12 the pair 16. -/
def asetCtx : Ctx := at0 { group0 with v := vals [0, 5, 7, 0, 1, 2, 3, 0, 0x20000, 0, 64, 0x30000, 16, 0, 0, 0, 0x20000, 0, 64, 0x200000] }

theorem test_meets_AddressRegisters :
    (asetCtx.Quiet (.aset hu 3 8) ∧ ruleDesc asetCtx.g asetCtx.low (.aset hu 3 8) = some (3, ⟨0x20000, 0x20000, 64, 3⟩) ∧
      asetCtx.Quiet (.aadvPair hu 0 12) ∧ ruleDesc asetCtx.g asetCtx.low (.aadvPair hu 0 12) = some (0, { data0 with pointer := 0x20010 }) ∧
      asetCtx.Quiet (.aadvImm hu 0 16) ∧ ruleDesc asetCtx.g asetCtx.low (.aadvImm hu 0 16) = some (0, { data0 with pointer := 0x20010 })) ∧
    (asetCtx.Quiet (.anarrow hu 3 0 12 1) ∧ ruleDesc asetCtx.g asetCtx.low (.anarrow hu 3 0 12 1) = some (3, ⟨0x20000, 0x20000, 16, 0x1A⟩) ∧
      asetCtx.Issues (.aset hu 3 16) ∧ asetCtx.plain = true ∧ ruleDescTrap asetCtx.g asetCtx.low (.aset hu 3 16) = some (0x05, 32)) ∧
    asetCtx.Quiet (.aget hu 8 0 .len) ∧ (Instr.aget hu 8 0 .len).wellFormed = true ∧
    asetCtx.Quiet (.fmtset hu 0 1) ∧ asetCtx.act ≠ 0 ∧ asetCtx.g.bad 1 asetCtx.low = false := by
  refine ⟨?_, ?_, ?_⟩ <;> decide +kernel

/-- R72: AADV to one past the end leaves [base, base + length). -/
theorem test_aadv_leaves : ruleDescTrap asetCtx.g asetCtx.low (.aadvImm hd 3 1) = some (0x04, 1) := by decide +kernel

/-- A word with a format word that is valid, and one that is not (R199, R204). -/
theorem test_fmtValid : fmtValid 0x7183C000 = true ∧ fmtValid 5 = false := by decide +kernel

/-- What a check and a translation give, where they do. -/
def checked {ε α : Type} : Except ε α → Option α
  | .ok a => some a
  | .error _ => none
def resolved : Resolved → Option (State × List (LaneAcc × Nat))
  | .ok s l => some (s, l)
  | _ => none
/-- The accesses of an instruction, where they reach memory of this package. -/
def reach (c : Ctx) (i : Instr) (o : MemOp) : Option (State × List (LaneAcc × Nat)) :=
  (globalForm i).bind fun f =>
    (checked (c.s.checkGlobal c.g (partLanes i.hdr c.act) (c.g.areg f.1) f.2 o (memData i c.g))).bind fun accs =>
      (resolved (c.s.resolve (c.s.coreOf c.g) (c.s.asidOf c.g) o.need accs)).filter fun r =>
        decide (memOpOf i = some o) && r.2.all fun a => r.1.isLocal a.2
theorem checked_ok {ε α : Type} {e : Except ε α} {a : α} (h : checked e = some a) : e = .ok a := by
  match e, h with
  | .ok _, h => rw [Option.some.inj h]
theorem resolved_ok {r : Resolved} {s : State} {l : List (LaneAcc × Nat)} (h : resolved r = some (s, l)) : r = .ok s l := by
  match r, h with
  | .ok _ _, h => obtain ⟨rfl, rfl⟩ := Prod.mk.inj (Option.some.inj h); rfl
theorem reaches {c : Ctx} {i : Instr} {o : MemOp} (h : (reach c i o).isSome = true) : ∃ s1 at_, c.Reaches i o s1 at_ := by
  obtain ⟨⟨s1, at_⟩, h⟩ := Option.isSome_iff_exists.mp h
  obtain ⟨f, hf, h⟩ := Option.bind_eq_some_iff.mp h
  obtain ⟨accs, ha, h⟩ := Option.bind_eq_some_iff.mp h
  obtain ⟨hr, hm⟩ := Option.filter_eq_some_iff.mp h
  simp only [Bool.and_eq_true, decide_eq_true_eq, List.all_eq_true] at hm
  exact ⟨s1, at_, f.1, f.2, accs, hf, hm.1, checked_ok ha, resolved_ok hr, hm.2⟩

/-- The bytes at a0, all lanes. -/
def m0 : MOp := ⟨0, 63, .core, .plain, false⟩
def mr : MOp := ⟨0, 63, .core, .relaxed, false⟩

/-- The witnesses below name `reach`; this is what it says of a statement's hypothesis. -/
theorem test_reaches : ∃ s1 at_, ctx0.Reaches (.ldW hd 8 m0) (.load 4) s1 at_ := reaches (by decide +kernel)

theorem test_meets_LoadResults : ctx0.Quiet (.ldW hd 8 m0) ∧ (Instr.ldW hd 8 m0).wellFormed = true ∧ (MemOp.load 4).isLoad = true ∧
    memDest (.ldW hd 8 m0) = some (8, 1) ∧ (reach ctx0 (.ldW hd 8 m0) (.load 4)).isSome = true := by decide +kernel
theorem test_meets_ldk : ctx0.Quiet (.ldkW hd 8 1 63 false) ∧ (reach ctx0 (.ldkW hd 8 1 63 false) (.ldk 4)).isSome = true := by decide +kernel

theorem test_meets_StoreResults : ctx0.Quiet (.stW hd 1 m0) ∧ (Instr.stW hd 1 m0).wellFormed = true ∧ ctx0.s.Inv ∧
    (reach ctx0 (.stW hd 1 m0) (.store 4)).isSome = true := by decide +kernel

/-- R78: every lane stores 5 to one address; its bytes are the word's, the lowest first. -/
theorem test_stW : (after (exec (.stW hd 1 m0) ctx0.s)).mem = [(0x30000, 5)] := by decide +kernel

theorem test_meets_AtomicResults : ctx0.Quiet (.atom hd 8 mr .add false 1) ∧ (Instr.atom hd 8 mr .add false 1).wellFormed = true ∧ ctx0.s.Inv ∧
    (MemOp.atomic .add false true).need = .atomic ∧ (reach ctx0 (.atom hd 8 mr .add false 1) (.atomic .add false true)).isSome = true := by decide +kernel
theorem test_meets_cas : ctx0.Quiet (.cas hd 8 mr false 3 1) ∧ (reach ctx0 (.cas hd 8 mr false 3 1) (.cas false)).isSome = true := by decide +kernel
theorem test_meets_red : ctx0.Quiet (.red hd mr .xor false 1) ∧ (reach ctx0 (.red hd mr .xor false 1) (.atomic .xor false false)).isSome = true := by decide +kernel

/-- R86: 32 lanes each add 5: lane 3 receives 15 and memory holds 160. -/
theorem test_atom_add : (run ctx0 (.atom hd 8 mr .add false 1)).rd 8 3 = 15 ∧ (after (exec (.atom hd 8 mr .add false 1) ctx0.s)).readPA 0x30000 4 = 160 := by
  decide +kernel

/-- v8 is poisoned in lane 5, v9 holds 0x2000 and v10 holds 2. -/
def badCtx : Ctx := at0 { group0 with v := vals [0, 5, 7, 0, 1, 2, 3, 0] ++ [⟨.rows [] 0x20, none, 0⟩, uni 0x2000, uni 2] }

theorem test_meets_AccessTraps : badCtx.Issues (.ldW hd 12 { m0 with vo := 8 }) ∧ badCtx.Issues (.ldW hd 12 { m0 with an := 2 }) ∧
    badCtx.Issues (.ldW hd 12 { m0 with vo := 9 }) ∧ badCtx.Issues (.ldW hd 12 { m0 with vo := 10 }) ∧ badCtx.plain = true ∧
    (let lanes := partLanes hd badCtx.act
     let ea := fun vo k => effAddr data0 (badCtx.s.wsOf badCtx.g) k (badCtx.g.offset vo k)
     lanes.find? (badCtx.g.offsetBad 8) = some 5 ∧
     (lanes.head? = some 0 ∧ (MemOp.load 4).permitted (badCtx.g.areg 2).perm = false) ∧
     ((MemOp.load 4).permitted data0.perm = true ∧ lanes.find? (fun k => !inBounds data0 (badCtx.s.wsOf badCtx.g) k 4 (ea 9 k)) = some 0) ∧
     (lanes.all (fun k => inBounds data0 (badCtx.s.wsOf badCtx.g) k 4 (ea 10 k)) = true ∧ lanes.find? (fun k => (ea 10 k).toNat % 4 != 0) = some 0)) := by decide +kernel

theorem test_meets_LocalMemoryResults : ctx0.Quiet (.ldl hd 8 63 .w 2) ∧ ctx0.Quiet (.stl hd 1 63 .w 2) ∧
    ctx0.Quiet (.atoml hd 8 63 .relaxed false .add false 1) ∧ (Instr.ldl hd 8 63 .w 2).wellFormed = true ∧ (Instr.stl hd 1 63 .w 2).wellFormed = true ∧
    (Instr.atoml hd 8 63 .relaxed false .add false 1).wellFormed = true ∧ ctx0.team = some team0 ∧ Memory.wf team0.localMem = true ∧
    (∀ k ∈ partLanes hd ctx0.act, ctx0.g.offsetBad 63 k = false ∧ 4 * 2 + 4 ≤ team0.localSize ∧ 4 * 2 % 4 = 0) := by decide +kernel

theorem test_meets_HintsTakeThePathOn : ctx0.Quiet (.nop false) ∧ ctx0.Quiet (.waitSleep hd 0) ∧ ctx0.Quiet (.waitYield hd) ∧ ctx0.Quiet (.pad hd 0xFF) ∧
    ctx0.Quiet (.fence hd .sc .core) ∧ ctx0.Quiet (.cctl hd .icpf 0) ∧ ctx0.Quiet (.pref hd .l2 0 63 false) := by decide +kernel

/-! ### Special registers, recipes, engines, matrix -/

theorem test_meets_SpecialRegisters : (ctx0.Quiet (.mfs hd 8 .laneid) ∧ (Instr.mfs hd 8 .laneid).wellFormed = true) ∧
    ctx0.Quiet (.mts hu 1 .matcnt) ∧ (Instr.mts hu 1 .matcnt).wellFormed = true ∧ ctx0.act ≠ 0 ∧
    (∀ l, l < 64 → ctx0.act.getLsbD l = true → ctx0.g.badN 1 2 l = false) ∧ (ruleSetSpecial ctx0.g 5 .matcnt).isSome = true ∧
    ctx0.Quiet (.mts hu 1 .foldpol) ∧ ruleSetSpecial ctx0.g 5 .foldpol = none ∧ ctx0.Quiet (.mts hd 1 .rngs) := by
  constructor <;> decide +kernel

/-- R188: LANEID is the lane's number. -/
theorem test_mfs_laneid : (run ctx0 (.mfs hd 8 .laneid)).rd 8 13 = 13 := by decide +kernel

/-- MKRCP v20, 1 and its slice, IADD v20, v1, v2. -/
def sliceWord : Word := encode1 (.iadd hd 20 1 0 2 0)
def sliceCtx : Ctx := { ctx0 with s := code [0x1B140000, sliceWord.toNat] }
def fetchedAll : FetchAll → Option (List Word)
  | .ok ws _ => some ws
  | _ => none
theorem test_meets_RecipeBegins : sliceCtx.Quiet (.mkrcp hd 20 0) ∧ sliceInSection (sliceCtx.s.sectsOf sliceCtx.g) 0x10004 1 = true ∧
    slicePastLoop sliceCtx.path.loop 0x10004 1 = false ∧
    fetchedAll (sliceCtx.fetchWords 1 0x10004 sliceCtx.s) = some [sliceWord] ∧
    sliceEnds (sliceCtx.s.sectsOf sliceCtx.g) 0x10004 [sliceWord] 20 = true := by decide +kernel

/-- v20 is folded: its recipe is IADD v20, v1, v2. Scopes stand open over v24 to v31 and over v1 to v2, which the recipe pins. -/
def recipe0 : Recipe := ⟨0x10004, [sliceWord], 20, 0xFFFFFFFF, { Pins.none with v := 6 }⟩
def foldGroup : Group := { group0 with
  v := vals ([0, 5, 7, 0, 1, 2, 3] ++ List.replicate 13 0) ++ [⟨.folded, some recipe0, 0⟩]
  scopes := [(24, 31)] }
def foldCtx : Ctx := at0 foldGroup
def pinCtx : Ctx := at0 { foldGroup with scopes := [(1, 2)] }
def fullScopes : Ctx := at0 { group0 with scopes := List.replicate 8 (24, 31) }
def formed : Regen → Bool
  | .ok _ _ => true
  | _ => false
theorem test_meets_RegisterStates :
    (foldCtx.Issues (.rmat hu 20) ∧ foldCtx.settled ∧ (foldCtx.g.vreg 20).hold = .folded ∧ formed (foldCtx.s.formReg foldCtx.g 20) = true ∧
      foldCtx.Issues (.rmat hu 3) ∧ (foldCtx.g.vreg 3).hold ≠ .folded ∧ foldCtx.Issues (.rmatAll hu) ∧
      formed (foldCtx.s.materializeAll foldCtx.g (List.range 64)) = true) ∧
    (foldCtx.g.widthOk = true ∧ (foldCtx.g.vreg 20).recipe = some recipe0 ∧
      formed (foldCtx.s.regenRun recipe0.m 20 8 recipe0.words (foldCtx.g.setVreg 20 VReg.empty)) = true) ∧
    (ctx0.Issues (.rstat hu 8 1) ∧ ctx0.settled ∧ (ctx0.g.vreg 8).recipe = none ∧ ctx0.g.widthOk = true ∧
      (∀ r, r < 64 → (ctx0.g.vreg r).recipe = none)) ∧
    (ctx0.Issues (.scopeOpen hu 24 31) ∧ ctx0.g.scopes.length < 8 ∧ fullScopes.Issues (.scopeOpen hu 24 31) ∧ fullScopes.g.scopes.length = 8 ∧
      ctx0.Issues (.scopeClose hu) ∧ ctx0.g.scopes = []) ∧
    (pinCtx.Issues (.scopeClose hu) ∧ pinCtx.settled ∧ pinCtx.g.scopes = [(1, 2)] ∧ ((rangeFoot 1 2).v &&& pinCtx.g.busyV) = 0 ∧
      recipe0.pinsAny (rangeFoot 1 2) = true ∧ formed (pinCtx.s.prepareWrite pinCtx.g (rangeFoot 1 2) pinCtx.g.all true) = true) ∧
    foldCtx.Issues (.scopeClose hu) ∧ foldCtx.settled ∧ ((rangeFoot 24 31).v &&& foldCtx.g.busyV) = 0 ∧ recipe0.pinsAny (rangeFoot 24 31) = false := by
  refine ⟨?_, ?_, ?_, ?_, ?_, ?_⟩ <;> decide +kernel

/-- R157: the folded register regenerates: 5 + 7. R187, R158: a close of the scope over its sources materializes it first. -/
theorem test_rmat : (run foldCtx (.rmat hu 20)).rd 20 9 = 12 ∧ (run pinCtx (.scopeClose hu)).rd 20 9 = 12 ∧ (run pinCtx (.scopeClose hu)).rd 1 9 = 0 := by
  decide +kernel

/-- 16 RAW bytes from L[0x100] to L[0x200], barrier at L[0x300] (R92, R93). -/
def block0 : Nat := 0x100 + 0x200 * 2 ^ 64 + 16 * 2 ^ 128 + 2 ^ 152 + 2 ^ 168 + 2 ^ 448 + 2 ^ 452 + 0x30 * 2 ^ 494
def copyTeam : Team := { team0 with localMem := Mem.writeN [] 0 64 block0 }
def copyCtx : Ctx := { ctx0 with s := { pkg0 with teams := [some copyTeam] } }
def reqBlock : BitVec 512 := BitVec.ofNat 512 (copyTeam.readLocal 0 64).1
theorem test_meets_CopyEngineInstructions :
    (copyCtx.Quiet (.qsub hu 8 63 0) ∧ (Instr.qsub hu 8 63 0).wellFormed = true ∧ copyCtx.team = some copyTeam ∧
      copyCtx.g.offsetBad 63 copyCtx.low = false ∧ 0 + 64 ≤ copyTeam.localSize ∧ (copyTeam.readLocal 0 64).2 = false) ∧
    (blkLcnt reqBlock = 0 ∧ copyCheck copyCtx.g copyTeam.localSize reqBlock [] = 0 ∧
      (copyCtx.s.copies.filter fun r => r.core == copyTeam.core).length < 32 ∧ copyCtx.g.remoteWrites = false ∧ copyCtx.g.mxUses reqBlock = false) ∧
    copyCtx.Quiet (.cbinit hu 2 63 48) ∧ copyCtx.g.badN 2 2 copyCtx.low = false ∧ 0 + 16 * 48 + 16 ≤ copyTeam.localSize ∧
    Memory.wf copyTeam.localMem = true := by
  refine ⟨?_, ?_, ?_⟩ <;> decide +kernel

/-- R99: CBINIT leaves the count of bytes expected. -/
theorem test_cbinit : ((after (exec (.cbinit hu 2 63 48) copyCtx.s)).team 0).map (fun t => barCount (t.barrier 0x300)) = some 7 := by decide +kernel

/-- A barrier at L[0] that expects 16 bytes; the cycle counter at 100; a3 names an empty region to publish. -/
def busyTeam : Team := { team0 with localMem := [(0, 16)] }
def busyCtx : Ctx := { ctx0 with s := { pkg0 with teams := [some busyTeam] } }
def lateGroup : Group := { group0 with a := [data0, const0, Desc.null, ⟨0x40000, 0x40000, 0, 0x80⟩] }
def lateCtx : Ctx := { at0 lateGroup with s := { pkgWith lateGroup with cycle := 100 } }
theorem test_meets_WaitsComplete :
    (ctx0.team = some team0 ∧ ctx0.Quiet (.cbwait hu 63 0) ∧ barFault (team0.barrier 0) = false ∧ (team0.readLocal 0 16).2 = false ∧
      barCount (team0.barrier 0) = 0) ∧
    (busyCtx.team = some busyTeam ∧ busyCtx.Quiet (.cbwait hu 63 0) ∧ barFault (busyTeam.barrier 0) = false ∧ (busyTeam.readLocal 0 16).2 = false ∧
      barCount (busyTeam.barrier 0) ≠ 0) ∧
    (lateCtx.team = some team0 ∧ lateCtx.Quiet (.sleepuntil hu 2) ∧ lateCtx.g.badN 2 2 lateCtx.low = false ∧
      (lateCtx.g.rd2 2 lateCtx.low).toNat ≤ lateCtx.s.cycle ∧ lateCtx.Quiet (.sleepuntilChk hu 2 63 0) ∧ lateCtx.g.offsetBad 63 lateCtx.low = false) ∧
    (ctx0.Quiet (.sleepuntil hu 2) ∧ ctx0.s.cycle < (ctx0.g.rd2 2 ctx0.low).toNat ∧ ctx0.Quiet (.sleepuntilChk hu 2 63 0)) ∧
    lateCtx.Quiet (.publish hu 3) ∧ (lateCtx.g.areg 3).perm.getLsbD 7 = true ∧ (lateCtx.g.areg 3).base.toNat % 65536 = 0 ∧
    (lateCtx.g.areg 3).length = 0 ∧ lateCtx.g.remoteWrites = false := by
  refine ⟨?_, ?_, ?_, ?_, ?_⟩ <;> decide +kernel

theorem test_meets_MatrixInstructionsQueue : (mxQueued (.accz hu false) = true ∧ ctx0.Quiet (.accz hu false) ∧ ctx0.g.mxTrap = none ∧
    ctx0.g.mx.length < 8 ∧ ctx0.s.mxOnCore (ctx0.s.coreOf ctx0.g) < 16) ∧ ctx0.Quiet (.mxloop hu false 0 0 4 .dense true 0 0 0) ∧
    ctx0.Quiet (.obres hu 8 0 2) ∧ ctx0.Quiet (.accst hu 0 false .f32 .rne 8) := by
  constructor <;> decide +kernel

/-- An ACCZ in the matrix queue; the group at trap level; a deferred fault of matrix work, and one of poison. -/
def work0 : MxWork where
  instr := .accz hu false
  pc := 0x10000
  mask := 0xFFFFFFFF
  ops := none
  desc := Desc.null
  it := 0
  k := 0
  ahead := false
  waitPage := none
  spoiled := none
  handler := false
def mxCtx : Ctx := at0 { group0 with mx := [work0] }
def frozenCtx : Ctx := at0 { group0 with mx := [work0], frozen := true }
def trapped : TrapState where
  level := true
  slot := .a
  df := false
  cause := 0x16
  pc := 0x10004
  info := 7
  savedA := some (path0 0x10000 0xFFFFFFFF)
  savedB := none
def handlerCtx : Ctx := at0 { group0 with trap := trapped }
def mxBad (reason : Nat) : Ctx := at0 { group0 with mxFault := some ⟨reason, 1, 0x10008⟩ }
theorem test_meets_MatrixControl :
    (ctx0.g.mxTrap = none ∧ ctx0.Quiet (.mxwait hu) ∧ ctx0.g.mxAwaited = false ∧ mxCtx.g.mxTrap = none ∧ mxCtx.Issues (.mxwait hu) ∧
      mxCtx.g.mxAwaited = true ∧ frozenCtx.g.frozen = true ∧ frozenCtx.g.mxAwaited = false) ∧
    (handlerCtx.g.mxTrap = none ∧ handlerCtx.Quiet (.mxfrz hu) ∧ handlerCtx.g.trap.level = true ∧ handlerCtx.Quiet (.mxfrzThaw hu)) ∧
    (ctx0.Issues (.mxfrz hu) ∧ ctx0.Issues (.mxfrzThaw hu) ∧ ctx0.g.trap.level = false) ∧
    (mxCtx.Quiet (.mxsta hu 8) ∧ (Instr.mxsta hu 8).wellFormed = true ∧ mxCtx.g.mx.length ≤ 16 ∧ mxCtx.g.mxFault = none) ∧
    (mxBad 0).Issues (.mxwait hu) ∧ (mxBad 0).g.trap.level = false ∧ (mxBad 0).g.mxFault = some ⟨0, 1, 0x10008⟩ ∧ (mxBad 3).Issues (.accz hu false) ∧
    mxQueued (.accz hu false) = true := by
  refine ⟨?_, ?_, ?_, ?_, ?_⟩ <;> decide +kernel
/-- R236: MXWAIT takes the pending fault: MATRIX_FAULT with reason 3, tile 1 and the PC. -/
theorem test_mxwait_fault : (after (exec (.mxwait hu) (mxBad 3).s)).sheafLog.map (fun n => (n.cause, n.info)) =
    [(0x1A, 0x20010103), (0x1A, 0x20010103)] := by decide +kernel

/-! ### Control flow and traps -/

/-- A check that passes, with what it gives and the state that it leaves. -/
def valOf {α : Type} : Chk α → Option α
  | .ok a _ => some a
  | _ => none
def stateOf {α : Type} : Chk α → State
  | .ok _ s | .trap _ s | .wait _ s => s
def passed {α : Type} (r : Chk α) : Bool := (valOf r).isSome
def trapOf {α : Type} : Chk α → Option (BitVec 8 × Nat)
  | .trap t _ => some (t.cause, t.info)
  | _ => none
theorem passed_ok {α : Type} {r : Chk α} (h : passed r = true) : ∃ a s, r = .ok a s := by
  match r, h with
  | .ok a s, _ => exact ⟨a, s, rfl⟩

theorem test_meets_JumpsGoToTheirTarget : ctx0.Quiet (.jmp hd 1) ∧ ctx0.targetOk (ctx0.packetAt 1) := by decide +kernel
/-- R291: the word of JMP −1: major 0x71 and the offset. -/
theorem test_word_jmp : decode 0x1C7FFFFF 0 = .ok (.jmp hd (-1)) := by decide +kernel

/-- PAD 5 at the second and the third packet; v8:v9 hold the second one's address, v10:v11 that in even lanes and the third one's in odd lanes; a4 names the
code, with X. -/
def padState : State := code [0, 0, 0, (encode1 (.pad hd 5)).toNat, 0, 0, (encode1 (.pad hd 5)).toNat]
def twoTargets : VReg := ⟨.rows ((List.range 32).map fun l => if l % 2 = 0 then 0x1000C else 0x10018) 0, none, 0⟩
def padGroup : Group := { group0 with
  v := vals [0, 5, 7, 0, 1, 2, 3, 0, 0x1000C, 0] ++ [twoTargets]
  a := Tbl.set Desc.null [data0, const0, Desc.null, Desc.null, ⟨0x10000, 0x10000, 1200, 4⟩] 15 stack0 }
def padCtx : Ctx := { at0 padGroup with s := { padState with groups := [some padGroup] } }
/-- The other slot taken; and a stack without room. -/
def bothCtx : Ctx := at0 { group0 with
  slotA := some (path0 0x10000 0xFFFF)
  slotB := some (path0 0x10018 0xFFFF0000) }
def fullCtx : Ctx := at0 { group0 with stack := List.replicate 20 ⟨.parked, 0x10000, 0, 0⟩, spilt := 0 }
def roomOf (c : Ctx) : Nat := c.g.stackCap (((c.s.launchOf c.g).map fun l => l.hdr.d).getD 0)
theorem test_meets_branches :
    (ctx0.Quiet (.bra hd 0 false 2 0) ∧ ctx0.g.predBad 0 &&& ctx0.act = 0 ∧ ctx0.g.pred 0 &&& ctx0.act = 0) ∧
    (ctx0.Quiet (.bra hd 7 false 2 0) ∧ ctx0.act ≠ 0 ∧ ctx0.targetOk (ctx0.packetAt 2) ∧ ctx0.g.pred 7 &&& ctx0.act = ctx0.act) ∧
    (ctx0.Quiet (.bra hd 1 false 2 3) ∧ ctx0.g.predBad 1 &&& ctx0.act = 0 ∧ ctx0.g.pred 1 &&& ctx0.act ≠ 0 ∧ ctx0.g.pred 1 &&& ctx0.act ≠ ctx0.act ∧
      ctx0.g.slot ctx0.slot.other = none ∧ ctx0.g.curStack.length + 1 ≤ roomOf ctx0) ∧
    (bothCtx.Quiet (.bra hd 1 false 2 3) ∧ bothCtx.g.pred 1 &&& bothCtx.act ≠ 0 ∧ bothCtx.g.pred 1 &&& bothCtx.act ≠ bothCtx.act ∧
      ((bothCtx.g.slot bothCtx.slot.other).map Path.loop) = some none ∧ bothCtx.g.curStack.length + 2 ≤ roomOf bothCtx) ∧
    fullCtx.Issues (.bra hd 1 false 2 3) ∧ fullCtx.targetOk (fullCtx.packetAt 2) ∧ roomOf fullCtx < fullCtx.g.curStack.length + 1 := by
  refine ⟨?_, ?_, ?_, ?_, ?_⟩ <;> decide +kernel
theorem test_meets_JumpsThroughRegistersAndBranches :
    (padCtx.act ≠ 0 ∧ (∀ l, l < 64 → padCtx.act.getLsbD l = true → padCtx.g.badN 8 2 l = false ∧ padCtx.g.rd2 8 l = 0x1000C) ∧
      passed (padCtx.s.checkTargets padCtx.g (padCtx.g.pairTargets padCtx.act 8) (some 5)) = true ∧ padCtx.Quiet (.jmpi hd 8 5) ∧
      padCtx.Quiet (.jmpiDesc hd 8 5 4) ∧ (padCtx.g.areg 4).perm.getLsbD 2 = true ∧ (padCtx.g.areg 4).perm.getLsbD 5 = false ∧
      (∀ x ∈ padCtx.g.pairTargets padCtx.act 8, 0x10000 ≤ x.2.toNat ∧ x.2.toNat < 0x10000 + 1200)) ∧
    (passed (padCtx.s.checkTargets padCtx.g (padCtx.g.pairTargets padCtx.act 10) (some 5)) = true ∧ padCtx.Quiet (.jmpi hd 10 5) ∧
      (groupTargets 64 (padCtx.g.pairTargets padCtx.act 10)).map Prod.fst = [0x1000C, 0x10018] ∧
      padCtx.s.stackRoom padCtx.g (pushCount (groupTargets 64 (padCtx.g.pairTargets padCtx.act 10)) false) = true) ∧
    (padCtx.g.pairTargets padCtx.act 10).length ≤ 64 ∧ (∀ x ∈ padCtx.g.pairTargets padCtx.act 10, x.1 < 64) ∧
    ((padCtx.g.pairTargets padCtx.act 10).map Prod.fst).Nodup ∧ (3, 0x10018) ∈ padCtx.g.pairTargets padCtx.act 10 := by
  refine ⟨?_, ?_, ?_⟩ <;> decide +kernel
/-- R289: lane 0's set goes on in the slot, the other is parked. -/
theorem test_jmpi : (let g := run padCtx (.jmpi hd 10 5); (g.slotA.map fun p => (p.pc, p.mask), g.stack.map fun e => (e.kind, e.pc, e.mask))) =
    (some (0x1000C, 0x55555555), [(.parked, 0x10018, 0xAAAAAAAA)]) := by decide +kernel

/-- Two lanes on a path; v62 is 0 and v63 is 16; v8:v9 hold the second packet's address. -/
def frameGroup : Group := { padGroup with
  v := padGroup.v ++ vals (List.replicate 52 0 ++ [16])
  slotA := some (path0 0x10000 3) }
def frameCtx : Ctx := { at0 frameGroup with s := { padState with groups := [some frameGroup] } }
/-- The context of the path of slot A as a state has it. -/
def ctxOf (s : State) : Ctx :=
  let g := (s.group 0).getD State.writeRegs.default0
  ⟨{ s with cur := (0, .a) }, 0, .a, g, (g.slotA).getD (path0 0 0)⟩
/-- After CALL: the frames are in memory. After that, MARK. -/
def calledCtx : Ctx := ctxOf (after (exec (.call hd 1 1) frameCtx.s))
def writes0 (c : Ctx) (tag flags : Nat) : Chk (List (LaneAcc × Nat)) := c.s.writeFrames c.g (c.act.lanes.map (c.header (c.packetAt 1) tag flags))
def returns (c : Ctx) : Chk (List Returned) :=
  Chk.each (fun l s => State.retLane c.g l (c.s.wsOf c.g / 16 + 2) (c.g.rd 62 l).toNat (c.g.rd 63 l).toNat false s) c.act.lanes c.s
theorem test_meets_CallsAndReturns :
    (frameCtx.s.Inv ∧ frameCtx.act ≠ 0 ∧ (∀ l, l < 64 → frameCtx.act.getLsbD l = true → frameCtx.stackTakes l 16) ∧ frameCtx.Quiet (.call hd 1 1) ∧
      frameCtx.targetOk (frameCtx.packetAt 1) ∧ passed (writes0 frameCtx 0 0) = true ∧
      ((valOf (writes0 frameCtx 0 0)).getD []).all (fun a => (stateOf (writes0 frameCtx 0 0)).isLocal a.2) = true) ∧
    (frameCtx.Quiet (.calli hd 10 5 1) ∧ (∀ l, l < 64 → frameCtx.act.getLsbD l = true → frameCtx.g.badN 10 2 l = false) ∧
      passed (frameCtx.s.checkTargets frameCtx.g (frameCtx.g.pairTargets frameCtx.act 10) (some 5)) = true ∧
      (stateOf (frameCtx.s.checkTargets frameCtx.g (frameCtx.g.pairTargets frameCtx.act 10) (some 5))).stackRoom frameCtx.g
        (pushCount (groupTargets 64 (frameCtx.g.pairTargets frameCtx.act 10)) true) = true) ∧
    (frameCtx.Quiet (.mark hd 3 1) ∧ isPacket (frameCtx.s.sectsOf frameCtx.g) (frameCtx.packetAt 1).toNat = true ∧ passed (writes0 frameCtx 3 1) = true) ∧
    (calledCtx.Quiet (.ret hd) ∧ calledCtx.act ≠ 0 ∧ (∀ l, l < 64 → calledCtx.act.getLsbD l = true → calledCtx.g.bad 62 l = false) ∧
      (valOf (returns calledCtx)).map (List.map fun r => (r.target, r.bad)) = some [(some 0x1000C, false), (some 0x1000C, false)] ∧
      calledCtx.targetOk 0x1000C) ∧
    frameCtx.Quiet (.ret hd) ∧ (valOf (returns frameCtx)).map (List.map fun r => (r.target, r.bad)) = some [(none, false), (none, false)] ∧
    frameCtx.g.alive &&& ~~~frameCtx.act ≠ 0 ∧ frameCtx.g.stack = [] := by
  refine ⟨?_, ?_, ?_, ?_, ?_⟩ <;> decide +kernel
/-- R284: a marker's header above a call's: the return goes past it; and the header that a return reads in a lane. -/
def markedCtx : Ctx := ctxOf (after (exec (.mark hd 3 1) calledCtx.s))
def readIn (c : Ctx) (fp : Nat) : Option Frame := valOf (c.s.readFrame c.g 0 fp (c.g.rd 63 0).toNat)
theorem test_meets_retLane : (readIn calledCtx 16).map (fun f => (f.marker, f.distOk 16, f.retpc)) = some (false, true, 0x1000C) ∧
    (readIn markedCtx (markedCtx.g.rd 62 0).toNat).map (fun f => (f.marker, f.distOk 32, f.retpc)) = some (true, true, 0x10018) ∧
    (readIn frameCtx 0).map (fun f => (f.marker, f.retpc)) = some (false, 0) := by decide +kernel

/-- R292, R294: CALL then RET: the path comes back to the next packet and both offsets are as before; RET of roots ends the path's lanes. -/
theorem test_call_ret : (let g := run calledCtx (.ret hd); ((g.slotA.map Path.pc), g.rd 62 1, g.rd 63 1)) = (some 0x1000C, 0, 16) ∧
    (run frameCtx (.ret hd)).exited = 3 := by decide +kernel

/-- One lane of four that joins; all of them that join. -/
def joining (m : Mask) : Ctx := at0 { group0 with j := [15], slotA := some (path0 0x10000 m) }
def joinCtx : Ctx := joining 1
def joinAllCtx : Ctx := joining 15
theorem test_meets_JoinsAndBarriers :
    (joinCtx.Quiet (.rjoinSet hd 0) ∧ joinCtx.Quiet (.rjoinAdd hd 0) ∧ joinCtx.Quiet (.rjoinWait hd 0) ∧
      joinCtx.g.trap.level = false ∧ joinCtx.g.jreg 0 &&& ~~~(joinCtx.act ||| joinCtx.g.heldAt 0 ||| joinCtx.g.exited) ≠ 0 ∧
      joinCtx.s.stackRoom joinCtx.g 1 = true) ∧
    (joinAllCtx.Quiet (.rjoinWait hd 0) ∧ joinAllCtx.g.jreg 0 &&& ~~~(joinAllCtx.act ||| joinAllCtx.g.heldAt 0 ||| joinAllCtx.g.exited) = 0) ∧
    (ctx0.Quiet (.bar hd .core) ∧ ctx0.g.trap.level = false ∧ ctx0.s.barAllowed ctx0.g (levelNum .core) = true ∧
      ctx0.s.stackRoom ctx0.g 1 = true ∧ ctx0.Quiet (.bar hd .pod) ∧ ctx0.s.barAllowed ctx0.g (levelNum .pod) = false) ∧
    handlerCtx.Issues (.bar hd .core) ∧ handlerCtx.Issues (.rjoinWait hd 0) ∧ handlerCtx.g.trap.level = true := by
  refine ⟨?_, ?_, ?_, ?_⟩ <;> decide +kernel

def asleepGroup : Group := { group0 with slotA := some { path0 0x10000 0xFFFFFFFF with wait := some (.sleep 90) } }
def asleepPkg : State := { pkgWith asleepGroup with cycle := 100 }
/-- A group with an entry in its operand log. -/
def entry0 : LogEntry where
  instr := .stW hd 1 ⟨0, 2, .core, .plain, false⟩
  pc := 0x10000
  slot := .a
  mask := 1
  lanes := [⟨0, 0x20000, 5, 0⟩]
  pages := []
  due := 0
  kind := .access
  acq := false
  seq := 0
def owingCtx : Ctx := at0 { group0 with log := [entry0] }
theorem test_meets_ExitsAndSleeps :
    (joinCtx.Quiet (.exit hd) ∧ joinCtx.team = some team0 ∧ joinCtx.g.alive &&& ~~~joinCtx.act ≠ 0) ∧
    (ctx0.Quiet (.exit hd) ∧ ctx0.team = some team0 ∧ ctx0.g.alive &&& ~~~ctx0.act = 0 ∧ ctx0.g.trap.level = false ∧ ctx0.g.log = [] ∧
      ctx0.g.remote = [] ∧ ctx0.s.copies = [] ∧ ctx0.g.copyFaults = [] ∧ ctx0.g.mxTrap = none ∧ ctx0.g.mx = [] ∧ ctx0.g.husk = none) ∧
    (owingCtx.Quiet (.exit hd) ∧ owingCtx.team = some team0 ∧ owingCtx.g.alive &&& ~~~owingCtx.act = 0 ∧ owingCtx.g.log ≠ []) ∧
    ctx0.Quiet (.waitSleep hd 20) ∧ (20 : BitVec 16) ≠ 0 ∧ asleepPkg.group 0 = some asleepGroup ∧ (asleepGroup.slotA.map Path.wait) = some (some (.sleep 90)) ∧
    90 ≤ asleepPkg.cycle := by
  refine ⟨?_, ?_, ?_, ?_⟩ <;> decide +kernel
/-- R301: the sleep's end takes the path on. -/
theorem test_sleepExpiry : ((after (exec (.sleepExpiry 0 false) asleepPkg)).group 0).bind (fun g => g.slotA.map Path.pc) = some 0x10004 := by decide +kernel

/-- The last packet of the section; and a path at the end of a body. -/
def endCtx : Ctx := at0 { group0 with slotA := some (path0 0x104A4 0xFFFFFFFF) }
def turning : Path := { path0 0x10018 1 with loop := some ⟨0x1000C, 0x10018, 2, [(0x1000C, 0)], true⟩ }
theorem test_meets_LoopsTurn : ctx0.Quiet (.loop hu 1 0) ∧ ctx0.g.bad 1 ctx0.low = false ∧ ctx0.g.rd 1 ctx0.low ≠ 0 ∧
    sectOf (ctx0.s.sectsOf ctx0.g) ctx0.packet = some (0x10000, 1200) ∧ (ctx0.packetAt 2).toNat < 0x10000 + 1200 ∧ ctx0.Quiet (.loop hu 3 0) ∧
    ctx0.g.rd 3 ctx0.low = 0 ∧ endCtx.Quiet (.loop hu 1 0) ∧ sectOf (endCtx.s.sectsOf endCtx.g) endCtx.packet = some (0x10000, 1200) ∧
    ¬ (endCtx.packetAt 2).toNat < 0x10000 + 1200 ∧ turning.pc = 0x10018 := by decide +kernel
/-- R302: a turn to go: back to the start; ICINV has made the buffer old. -/
theorem test_turn : turning.turn.map (fun p => (p.pc, p.loop)) = some (0x1000C, some ⟨0x1000C, 0x10018, 1, [], false⟩) := by decide +kernel

/-- A handler at the second packet: PAD 0xFF, and a14 with X. -/
def handlerState : State := code [0, 0, 0, (encode1 (.pad hd 0xFF)).toNat]
def handlerGroup : Group := { group0 with a := Tbl.set Desc.null group0.a 14 ⟨0x1000C, 0x10000, 1200, 4⟩ }
def handled : State := { handlerState with groups := [some handlerGroup] }
theorem test_meets_TrapEntry : handled.group 0 = some handlerGroup ∧ handlerGroup.trap.level = false ∧
    (match handled.handlerOf handlerGroup with | .enter p _ => p == 0x1000C | _ => false) = true ∧
    handlerCtx.s.group 0 = some handlerCtx.g ∧ handlerCtx.g.trap.level = true ∧ handlerCtx.Issues (.hexit hd) ∧ pkg0.group 0 = some group0 ∧
    (match pkg0.handlerOf group0 with | .refused => true | _ => false) = true ∧ pkg0.team 0 = some team0 ∧ pkg0.launch 0 = some launch0 := by
  decide +kernel

/-- R334: the handler begins at a14's pointer with every lane; TRAPPC is the next word. -/
theorem test_trap_entry : (let g := ((after (exec (.trap hd 5) handled)).group 0).getD group0
    (g.slotA, g.trap.level, g.trap.cause, g.trap.pc, g.trap.info)) = (some (path0 0x1000C 0xFFFFFFFF), true, 0x16, 0x10004, 5) := by decide +kernel

/-- A path without an active lane. -/
def idleCtx : Ctx := at0 { group0 with slotA := some (path0 0x10000 0) }
theorem test_meets_SoftwareTraps : ctx0.Issues (.trap hd 5) ∧ ctx0.act ≠ 0 ∧ ctx0.Issues (.bkpt hd 5) ∧ idleCtx.Quiet (.trap hd 5) ∧
    idleCtx.Quiet (.bkpt hd 5) ∧ idleCtx.act = 0 ∧ decode 0x1FC02005 0 = .ok (.trap hd 5) ∧ decode 0x1FC15005 0 = .error .badForm := by decide +kernel

/-- A handler that ends a deferred fault. -/
def deferredCtx : Ctx := at0 { group0 with trap := { trapped with df := true } }
theorem test_meets_TrapReturns : handlerCtx.Issues (.tret hd) ∧ handlerCtx.g.trap.level = true ∧ handlerCtx.g.trap.df = false ∧ handlerCtx.settled ∧
    deferredCtx.Issues (.tret hd) ∧ deferredCtx.g.trap.df = true ∧ deferredCtx.path.slice = none ∧ ctx0.Issues (.tret hd) ∧
    ctx0.g.trap.level = false := by decide +kernel
/-- R338: TRET takes the trapping path to TRAPPC. -/
theorem test_tret : ((run handlerCtx (.tret hd)).slotA.map Path.pc, (run handlerCtx (.tret hd)).trap.level) = (some 0x10004, false) := by decide +kernel

/-- v8:v9 hold the address of an image. -/
def launchCtx : Ctx := at0 { group0 with v := vals [0, 5, 7, 0, 1, 2, 3, 0, 0x40000, 0] }
theorem test_meets_CacheInvalidationAndLaunch :
    (ctx0.g.storesDone = true ∧ ctx0.Issues (.icinv hu 0) ∧ ctx0.settled ∧ (∀ e ∈ ctx0.s.resident, e.2.recipesIn 0x20000 0x21000 = []) ∧
      ctx0.Issues (.icinvAll hu) ∧ (∀ e ∈ ctx0.s.resident, e.2.recipesIn 0 (2 ^ 64) = [])) ∧
    (foldCtx.g.storesDone = true ∧ foldCtx.Issues (.icinvAll hu) ∧ foldCtx.settled ∧
      formed (foldCtx.s.dropCode (foldCtx.s.asidOf foldCtx.g) 0 (2 ^ 64) (List.range foldCtx.s.groups.length)).2 = true) ∧
    (pkg0.group 0 = some group0 ∧ group0.live = true ∧ pkg0.asidOf group0 = 1) ∧
    (launchCtx.Quiet (.launch hu 8 3) ∧ launchCtx.act ≠ 0 ∧ launchCtx.g.badN 8 2 launchCtx.low = false ∧ launchCtx.team = some team0 ∧
      launchCtx.s.launchOf launchCtx.g = some launch0 ∧ launch0.runs[team0.node]? = some runs0 ∧
      (launchCtx.g.rd2 8 launchCtx.low).toNat % 256 = 0) ∧
    (launchCtx.Quiet (.launch hu 2 3) ∧ (launchCtx.g.rd2 2 launchCtx.low).toNat % 256 ≠ 0) ∧ idleCtx.Quiet (.launch hu 8 3) ∧ idleCtx.act = 0 := by
  refine ⟨?_, ?_, ?_, ?_, ?_, ?_⟩ <;> decide +kernel

/-! ### Husks and tillers -/

/-- Page tables of address space 1 in memory: the record table at 0xA0000, the tables in frames 5 to 7, and leaves for pages 1, 2, 4, 16 and 17. -/
def tables : Mem := [(0xA0010, 0x50000), (0xA0018, 0x10001), (0x50000, 0x60001), (0x60000, 0x70001), (0x70008, 0x22017), (0x70010, 0x3602F),
  (0x70020, 0x8602F), (0x70080, 0x4602F), (0x70088, 0x9602F)].foldl (fun m (e : Nat × Nat) => Mem.writeN m e.1 8 e.2) []
/-- The package with tables in memory and nothing held. -/
def tablePkg : State := { pkg0 with mem := tables, tlb := [], regs := { pkg0.regs with astbase := 0xA0000 } }

def oneLane : Group := { group0 with slotA := some (path0 0x10000 1) }
def ctxIn (s : State) (g : Group) : Ctx := ⟨{ s with groups := [some g] }, 0, .a, g, (g.slotA).getD (path0 0 0)⟩
def enterCtx : Ctx := ctxIn tablePkg oneLane
def transOk : Trans × State → Option Nat
  | (.ok pa _ _, _) => some pa
  | _ => none
/-- The same with a lock block at 0x20000 whose first words are given. -/
def lockCtx (words : List Nat) : Ctx := ctxIn (tablePkg.setLockWords 0x30000 0 words) oneLane
def fateOf (c : Ctx) : LockFate := (c.s.translate 0 1 0x20000 true).2.lockFate 0x30000 1
/-- Held by key 77; of a mask that is not well formed; and an orphan of a dead holder's. -/
def heldLock : List Nat := [lkHead 3 0 true false false, 77, 0x10008, lkInfo 6 1 0 0 1]
def badLock : List Nat := [lkHead 3 0 true false false, 77, 0x10008, lkInfo 0xFFFF 1 0 0 1]
def orphanLock : List Nat := [lkHead 3 2 true true false, 77, 0x10008, lkInfo 6 1 0 0 1]
def enter0 : Instr := .henter hd 8 0 1 10

theorem test_meets_HusksAreEntered : (enterCtx.Quiet enter0 ∧ enter0.wellFormed = true ∧ enterCtx.s.Inv ∧
      enterCtx.g.trap.level = false ∧ enterCtx.huskHolds = false ∧ enterCtx.g.inHusk = false ∧ 0 < enterCtx.g.width ∧ enterCtx.act = Mask.bit 0) ∧
    (data0.perm.getLsbD 0 = true ∧ data0.perm.getLsbD 1 = true ∧ data0.perm.getLsbD 3 = true ∧ data0.perm.getLsbD 6 = false ∧
      data0.pointer.toNat % 256 = 0 ∧ inBounds data0 (enterCtx.s.wsOf enterCtx.g) 0 256 (effAddr data0 (enterCtx.s.wsOf enterCtx.g) 0 0) = true ∧
      transOk (enterCtx.s.translate 0 1 0x20000 true) = some 0x30000 ∧ pagePermits (leaf 3 0x602F) .atomic = true ∧
      (∀ r, r < 32 → (10 : Word).getLsbD r = true → (enterCtx.g.rdp r 0).2 = false) ∧ enterCtx.g.predsBad 0 = false) ∧
    (fateOf enterCtx = .free ∧ (lockCtx heldLock).Quiet enter0 ∧ fateOf (lockCtx heldLock) = .sleep ∧ (lockCtx badLock).Quiet enter0 ∧
      fateOf (lockCtx badLock) = .bad) ∧
    (lockCtx orphanLock).Quiet enter0 ∧ (lockCtx orphanLock).s.Inv ∧ fateOf (lockCtx orphanLock) = .adopt 0 ∧
    (lockCtx orphanLock).g.maskLocked (lkMask (lkInfo 6 1 0 0 1)) = false := by
  refine ⟨?_, ?_, ?_, ?_⟩ <;> decide +kernel

/-- The state after HENTER by lane 0: its group is inside the husk of the lock at 0x20000; and after an adoption there. -/
def huskCtx : Ctx := ctxOf (after (exec enter0 enterCtx.s))
def adoptCtx : Ctx := ctxOf (after (exec enter0 (lockCtx orphanLock).s))
/-- R356: the lock shows HELD, the next epoch and the group's key. R363: an adoption goes to the checkpoint's PC. -/
theorem test_henter : huskCtx.s.lockWord 0x30000 0 = 0x100000001 ∧ huskCtx.s.lockWord 0x30000 1 = 9 ∧ huskCtx.path.pc = 0x10008 ∧
    adoptCtx.path.pc = 0x10008 ∧ adoptCtx.s.lockWord 0x30000 14 = 9 := by decide +kernel

def noHusk : Husk where
  lock := 0
  inside := false
  adopt := false
  orphd := false
  waitd := false
  lane := 0
  epoch := 0
  mask := 0
  nres := 0
  icount := 0
  step := 0
  henter := 0
  dispos := 0
  smask := 0
  sregs := []
  spreds := 0
  sa0 := Desc.null
  sa1 := Desc.null
  desched := false
  commit := none
def husk0 : Husk := (huskCtx.g.husk).getD noHusk
def adopted0 : Husk := (adoptCtx.g.husk).getD noHusk
/-- The data of a commit lie behind the lock block. -/
def hstore0 : Instr := .hstore hd .w 1 1 3
def huskCtx2 : Ctx := ctxIn huskCtx.s (huskCtx.g.setAreg 1 { data0 with pointer := 0x20400 })

theorem test_meets_StepsAreRequested : huskCtx2.InCapsule hstore0 husk0 ∧ huskCtx2.g.trap.level = false ∧
    checked (huskCtx2.s.checkGlobal huskCtx2.g [husk0.lane] (huskCtx2.g.areg 1) 3 (.store 4) (storeData huskCtx2.g 1 4)) = some [⟨0, 0x20400, 5, 0⟩] ∧
    huskCtx2.g.predsBad husk0.lane = false ∧
    (resolved (huskCtx2.s.resolve 0 1 .store [⟨0, 0x20400, 5, 0⟩])).map Prod.snd = some [(⟨0, 0x20400, 5, 0⟩, 0x30400)] ∧
    huskCtx2.s.isLocal 0x30400 = true := by decide +kernel

/-- At trap level, without a husk and with one; and with an adoption. -/
def abortCtx : Ctx := ctxIn huskCtx.s { huskCtx.g with trap := trapped }
def abortAdopt : Ctx := ctxIn adoptCtx.s { adoptCtx.g with trap := trapped }
theorem test_meets_HusksAreLeft :
    (huskCtx.InCapsule (.hexit hd) husk0 ∧ huskCtx.s.Inv ∧ huskCtx.g.trap.level = false ∧ husk0.inside = true ∧
      huskCtx.g.maskLocked husk0.mask = false ∧ (huskCtx.s.huskReach huskCtx.g husk0.lock).1 = some 0x30000 ∧
      lkEpoch (huskCtx.s.lockWord 0x30000 0) = husk0.epoch.toNat) ∧
    (adoptCtx.InCapsule (.hexit hd) adopted0 ∧ adoptCtx.s.Inv ∧ adoptCtx.g.trap.level = false ∧ adopted0.inside = false ∧ adopted0.adopt = true ∧
      adoptCtx.g.maskLocked adopted0.mask = false ∧ (adoptCtx.s.huskReach adoptCtx.g adopted0.lock).1 = some 0x30000 ∧
      lkEpoch (adoptCtx.s.lockWord 0x30000 0) = adopted0.epoch.toNat ∧ adopted0.dispos < 4 ∧
      adoptCtx.s.slotKey 0x30000 adopted0.dispos = adoptCtx.s.lockWord 0x30000 1 ∧ adoptCtx.s.purged = []) ∧
    (handlerCtx.Quiet (.habort hd) ∧ handlerCtx.g.trap.level = true ∧ handlerCtx.g.husk = none ∧ abortCtx.Quiet (.habort hd) ∧
      abortCtx.g.trap.level = true ∧ abortCtx.g.husk = some husk0 ∧ abortCtx.huskHolds = false ∧ (abortCtx.s.huskReach abortCtx.g husk0.lock).1 = some 0x30000) ∧
    (abortAdopt.Quiet (.habort hd) ∧ abortAdopt.g.husk = some adopted0 ∧ abortAdopt.huskHolds = false ∧ abortAdopt.g.maskLocked adopted0.smask = false ∧
      (abortAdopt.s.huskReach abortAdopt.g adopted0.lock).1 = some 0x30000 ∧ lkEpoch (abortAdopt.s.lockWord 0x30000 0) = adopted0.epoch.toNat) ∧
    ctx0.Quiet (.habort hd) ∧ ctx0.g.trap.level = false := by
  refine ⟨?_, ?_, ?_, ?_, ?_⟩ <;> decide +kernel

/-- A launch with an arena of four slots of 512 bytes at 0x40000, all free; the path of lane 0 has planted marker 3 and called once. -/
def arenaLaunch : Launch := { launch0 with hdr := { launch0.hdr with arena := 0x40000, alen := 0x1000 } }
def arenaMem : Mem := [(0x80008, 4), (0x80010, 512), (0x80018, 0), (0x80020, 4), (0x80100, 0x10000), (0x80300, 0x20000)].foldl
  (fun m (e : Nat × Nat) => Mem.writeN m e.1 8 e.2) tables
def frameOne : Group := { frameGroup with slotA := some (path0 0x10000 1) }
def arenaCtx : Ctx := ctxIn { tablePkg with mem := arenaMem, launches := [some arenaLaunch] } frameOne
def markCtx : Ctx := ctxOf (after (exec (.mark hd 3 4) arenaCtx.s))
def deepCtx : Ctx := ctxOf (after (exec (.call hd 4 3) markCtx.s))
/-- A check of the one lane of a path. -/
def inLanes {α : Type} (c : Ctx) (f : Nat → State → Chk α) : Chk (List α) := Chk.each f c.act.lanes c.s

theorem test_meets_MarkersArePopped :
    (markCtx.Quiet (.unmark hd 3) ∧ passed (inLanes markCtx fun l s => State.unmarkCheck s markCtx.g 3 l) = true ∧ markCtx.act ≠ 0 ∧
      (∀ l, l < 64 → markCtx.act.getLsbD l = true → markCtx.g.bad 62 l = false)) ∧
    (markCtx.Issues (.unmark hd 4) ∧ markCtx.plain = true ∧ trapOf (inLanes markCtx fun l s => State.unmarkCheck s markCtx.g 4 l) = some (0x10, 3)) ∧
    markCtx.s.inWindow markCtx.g 0 16 16 = true ∧ markCtx.g.stackR = true ∧ markCtx.s.stackEA markCtx.g 0 16 % 16 = 0 ∧
    passed (markCtx.s.peek markCtx.g 0 (markCtx.s.stackEA markCtx.g 0 16) 16) = true ∧ (markCtx.g.rd 62 0).toNat = 16 := by
  refine ⟨?_, ?_, ?_⟩ <;> decide +kernel

/-- The arena as its header says it. What CUT finds and takes, lane by lane. -/
def arena1 : Arena := ⟨0x40000, 4, 512, 0, 4⟩
def noArena : Arena := ⟨0, 0, 0, 0, 0⟩
def cutArena : Chk (Option Arena) := deepCtx.s.arena deepCtx.g deepCtx.low
def cutLanes : Chk (List Cut) := Chk.each (fun l s => State.cutLane s deepCtx.g (some arena1) 3 l) deepCtx.act.lanes (stateOf cutArena)
def cutPops : Chk (List (Nat × Nat) × Nat) := State.popSlots deepCtx.g deepCtx.low arena1 deepCtx.act.lanes.length arena1.head (stateOf cutLanes)
def cutWords : List Word8 :=
  let pops := ((valOf cutPops).getD ([], 0))
  ((((valOf cutLanes).getD []).zip pops.1).flatMap fun x => x.1.slotWords deepCtx.g arena1 x.2.1 x.2.2 3 7 0xE (deepCtx.packetAt 1)) ++
    [⟨deepCtx.low, arena1.base + 0x18, pops.2, false⟩, ⟨deepCtx.low, arena1.base + 0x20, arena1.nfree - deepCtx.act.lanes.length, false⟩]
def cutStore : Chk (List (LaneAcc × Nat)) := (stateOf cutPops).store8 deepCtx.g cutWords
/-- Accesses given all of which lie in the package. -/
def allHere (r : Chk (List (LaneAcc × Nat))) : Bool := (valOf r).any fun l => l.all fun x => (stateOf r).isLocal x.2
theorem test_meets_TillersAreCut :
    (deepCtx.Quiet (.cut hd 3 7 0xE) ∧ (Instr.cut hd 3 7 0xE).wellFormed = true ∧ deepCtx.s.Inv ∧ deepCtx.act ≠ 0 ∧
      (∀ l, l < 64 → deepCtx.act.getLsbD l = true → deepCtx.g.bad 62 l = false ∧ deepCtx.g.bad 63 l = false)) ∧
    valOf cutArena = some (some arena1) ∧ passed cutLanes = true ∧ deepCtx.act.lanes.length ≤ arena1.nfree ∧ passed cutPops = true ∧ allHere cutStore = true ∧
    (stateOf cutLanes).stackRoom deepCtx.g (pushCount (groupTargets 64 (((valOf cutLanes).getD []).map fun x => (x.lane, x.label))) false) = true := by
  constructor <;> decide +kernel
/-- A tiller of one frame of 16 bytes has no masked word, and its words from the second on are filled. -/
theorem test_meets_slotWords : ((valOf cutLanes).getD []).map (fun x => (x.masked, (x.data.map Prod.fst).length, x.data.all fun d => decide (d.1 < 2 ^ 64))) =
    [([], 6, true)] := by decide +kernel

/-- After CUT: v7 holds the handle of slot 0, and the path stands at the marker's label. -/
def cutCtx : Ctx := ctxOf (after (exec (.cut hd 3 7 0xE) deepCtx.s))
theorem test_cut : (cutCtx.g.rd 7 0, cutCtx.g.rd 63 0, cutCtx.g.rd 62 0, cutCtx.path.pc) = (0, 16, 0, 0x10030) := by decide +kernel

/-- After the first step of GRAFT: slot 0 is pinned. What each of its two steps checks, reads and writes. -/
def pinnedCtx : Ctx := ctxOf (after (exec (.graft hd 7) cutCtx.s))
def graftLanes (c : Ctx) : Chk (List Tiller) := inLanes c fun l s => State.graftLane s c.g 7 c.path.pinned l
def tillers (c : Ctx) : List Tiller := (valOf (graftLanes c)).getD []
def graftStored (c : Ctx) : List Word8 :=
  match (stateOf (graftLanes c)).graftAll c.g (c.packetAt 1) (tillers c) with
  | .ok ws => ws
  | .error _ => []
def graftStore (c : Ctx) : Chk (List (LaneAcc × Nat)) := (stateOf (graftLanes c)).store8 c.g (graftStored c)
def graftArena (c : Ctx) : Chk (Option Arena) := (stateOf (graftStore c)).arena c.g c.low
def graftSlots (c : Ctx) : List (Nat × Nat) := slotCounts ((tillers c).map Tiller.slot)
def graftArena1 (c : Ctx) : Arena := (((valOf (graftArena c)).getD none).getD noArena)
def graftPins (c : Ctx) : Chk (List (List (Nat × Bool))) := (stateOf (graftArena c)).slotWords c.g c.low (graftArena1 c) ((graftSlots c).map Prod.fst)
def graftUnit (c : Ctx) : Chk (List (LaneAcc × Nat)) :=
  let ps := (valOf (graftPins c)).getD []
  let a := graftArena1 c
  (stateOf (graftPins c)).store8 c.g
    (if c.path.pinned then unpinWords a c.low a.head a.nfree ((graftSlots c).zip ps) else pinWords a c.low (graftSlots c) ps)
/-- The premises of a GRAFT's step. -/
def Grafts (c : Ctx) : Prop :=
    (c.Quiet (.graft hd 7) ∧ passed (graftLanes c) = true ∧ (Instr.graft hd 7).wellFormed = true ∧ c.s.Inv ∧ c.act ≠ 0 ∧
      (∀ l, l < 64 → c.act.getLsbD l = true → c.g.bad 7 l = false ∧ c.g.bad 62 l = false ∧ c.g.bad 63 l = false) ∧
      (∀ r, r < 64 → c.g.busyV.getLsbD r = false)) ∧
    (stateOf (graftLanes c)).stackRoom c.g (pushCount (groupTargets 64 ((tillers c).map fun t => (t.lane, t.rpc))) true) = true ∧
    (graftStored c).length = 6 ∧ valOf (graftArena c) = some (some (graftArena1 c)) ∧ passed (graftPins c) = true ∧
    allHere (graftStore c) = true ∧ allHere (graftUnit c) = true ∧
    (tillers c).map (fun t => ((t.walk (c.g.rd 63 t.lane).toNat (t.size / 16 + 1) t.fpr).toOption, t.data.length,
      t.data.all fun d => decide (d.1 < 2 ^ 64))) = [(some [], 6, true)]
theorem test_meets_GraftPins : Grafts cutCtx ∧ cutCtx.path.pinned = false := by
  constructor
  · unfold Grafts; constructor <;> decide +kernel
  · decide +kernel
theorem test_meets_TillersAreGrafted : Grafts pinnedCtx ∧ pinnedCtx.path.pinned = true := by
  constructor
  · unfold Grafts; constructor <;> decide +kernel
  · decide +kernel
/-- R386, R388: an unpin of the one pin of a slot that was dropped. -/
theorem test_meets_unpin : slotLive 5 = false ∧ 1 % 2 ^ 16 = 1 ∧
    (unpinWords arena1 0 0 3 [((1, 1), [(5, false), (1, false)])]).map (fun w => (w.ea, w.val)) =
      [(0x40308, 0), (0x40300, 5), (0x40018, 1), (0x40020, 4)] := by decide +kernel

def dropped : Chk (List (Arena × Nat)) := State.dropCheck cutCtx.g 7 cutCtx.act.lanes [] cutCtx.s
theorem test_meets_TillersAreDroppedAndReported :
    (cutCtx.Quiet (.tdrop hd 7) ∧ cutCtx.s.Inv ∧ cutCtx.act ≠ 0 ∧ (∀ l, l < 64 → cutCtx.act.getLsbD l = true → cutCtx.g.bad 7 l = false) ∧
      passed dropped = true ∧ allHere ((stateOf dropped).dropAll cutCtx.g cutCtx.low ((valOf dropped).getD [])) = true) ∧
    (cutCtx.Issues (.tdrop hd 1) ∧ cutCtx.plain = true ∧ trapOf (State.dropCheck cutCtx.g 1 cutCtx.act.lanes [] cutCtx.s) = some (0x11, 5)) ∧
    (cutCtx.Quiet (.tinfo hd 10 7) ∧ (Instr.tinfo hd 10 7).wellFormed = true ∧
      passed (inLanes cutCtx fun l s => State.infoLane s cutCtx.g 7 l) = true) ∧
    valOf (cutCtx.s.handleRead cutCtx.g 0 (cutCtx.g.rd 1 0).toNat) = some (none, false) ∧
    (valOf (cutCtx.s.handleRead cutCtx.g 0 (cutCtx.g.rd 7 0).toNat)).map (fun x => (x.1.map Prod.snd, x.2)) = some (some 0, false) ∧
    valOf (cutCtx.s.handle cutCtx.g 0 (cutCtx.g.rd 1 0).toNat) = some none ∧ (valOf (cutCtx.s.handle cutCtx.g 0 (cutCtx.g.rd 7 0).toNat)).map (Option.map Prod.snd) = some (some 0) := by
  refine ⟨?_, ?_, ?_, ?_⟩ <;> decide +kernel

/-! ### Events of memory and time -/

/-- A fault posted for an address space 1 page. -/
def fault0 (page : Nat) (at_ : FaultAt) : PageFault := ⟨1, page, .store, at_, false⟩
/-- The package with tables in memory: page 18 is a demand page without a frame, page 19 a demand twin page, and frames 12 to 15 are free. -/
def demandPkg : State := { (tablePkg.setPart 0 { tablePkg.part 0 with freeFrames := [12, 13, 14, 15] }) with
  mem := Mem.writeN (Mem.writeN tables 0x70090 8 0x2E) 0x70098 8 0x12E
  faults := [fault0 2 .posted, fault0 18 .posted, fault0 19 .posted] }
/-- A group whose log holds a store of 4 bytes to 0x20000 by lane 0. -/
def logged : Group := { group0 with log := [entry0] }
def loggedPkg : State := { demandPkg with groups := [some logged], cycle := 10 ^ 9 }
/-- The holder of huskCtx with an overdue entry. -/
def overdue : Group := { huskCtx.g with log := [entry0] }
def overduePkg : State := { huskCtx.s with groups := [some overdue], cycle := 10 ^ 9 }
/-- A page frozen for its move to frame 12. -/
def movingPkg : State := { demandPkg with
  mem := Mem.writeN demandPkg.mem 0x70010 8 0x3702F
  migrating := [(1, 0x20000, 12)] }

theorem test_meets_TranslationEventsComplete :
    (demandPkg.walk 1 0x20000 = .leaf 0x70010 0x3602F false ∧ demandPkg.walkFrom 0 1 0x20000 = .leaf 0x70010 0x3602F false ∧ pteFZ 0x3602F = false) ∧
    (demandPkg.faults[0]? = some (fault0 2 .posted) ∧ demandPkg.faults[1]? = some (fault0 18 .posted) ∧ demandPkg.faults[2]? = some (fault0 19 .posted) ∧
      demandPkg.walk 1 (18 * 65536) = .fault 0x70090 0x2E 3 ∧ pteLeaf 0x2E = true ∧ demandPkg.demandBad 0x2E = false ∧ pteTW 0x2E = false ∧
      demandPkg.demandFrames (fault0 18 .posted) 0x2E ≠ [] ∧ demandPkg.walk 1 (19 * 65536) = .fault 0x70098 0x12E 3 ∧ pteLeaf 0x12E = true ∧
      demandPkg.demandBad 0x12E = false ∧ pteTW 0x12E = true ∧ demandPkg.demandFrames (fault0 19 .posted) 0x12E ≠ []) ∧
    (loggedPkg.Inv ∧ loggedPkg.group 0 = some logged ∧ memOpOf entry0.instr = some (.store 4) ∧ loggedPkg.entryWaits (loggedPkg.asidOf logged) entry0 = false ∧
      logged.remoteWrites = false ∧ logged.spiltNow = logged.spilt ∧
      (resolved (loggedPkg.resolve 0 1 .store entry0.lanes)).map Prod.snd = some [(⟨0, 0x20000, 5, 0⟩, 0x30000)]) ∧
    (overduePkg.group 0 = some overdue ∧ overdue.husk = some husk0 ∧ husk0.orphd = false ∧ husk0.waitd = false ∧ overduePkg.logOverdue overdue = true) ∧
    (pteTier 0x3602F ≠ 3 ∧ demandPkg.publishing 1 2 = false ∧ demandPkg.isLocal (pteFrame 0x3602F * 65536) = true ∧ demandPkg.migrating = [] ∧
      demandPkg.framesFree (demandPkg.asRec 1).part 12 (leafFrames 0x3602F false) = true) ∧
    (movingPkg.walk 1 0x20000 = .leaf 0x70010 0x3702F false ∧
      (movingPkg.migrating.find? fun m => m.1 == 1 && m.2.1 == 0x20000) = some (1, 0x20000, 12) ∧ movingPkg.accessesOpen 1 = false) ∧
    pteV 0x3702F = true := by
  refine ⟨?_, ?_, ?_, ?_, ?_, ?_, ?_⟩ <;> decide +kernel

/-- R66: the store in the log reaches memory. R66 steps 1 and 4: the page is frozen, then moved. -/
theorem test_operandLogReplay : (after (exec (.operandLogReplay 0) loggedPkg)).readPA 0x30000 4 = 5 ∧
    (after (exec (.migration 1 0x20000 12) demandPkg)).readPA 0x70010 8 = 0x3702F ∧
    (after (exec (.migration 1 0x20000 12) movingPkg)).readPA 0x70010 8 = 0xC602F := by decide +kernel

/-- A FENCE.SC that waits for the heartbeat; v20 stands in a row, foldable, under policy 1; v21 is spilled. -/
def fenced : Group := { group0 with
  asleep := some (.fenceSC .a)
  foldpol := 1
  v := vals ([0, 5, 7, 0, 1, 2, 3] ++ List.replicate 13 0) ++
    [⟨.rows (List.replicate 32 12) 0, some recipe0, 0⟩, ⟨.spilled (List.replicate 32 3) 0, none, 0⟩] }
theorem test_meets_TimeAndRegisterEventsComplete : ((pkgWith fenced).group 0 = some fenced ∧ fenced.foldpol ≠ 0 ∧ fenced.foldable 20 = true) ∧
    (fenced.vreg 21).hold = .spilled (List.replicate 32 3) 0 ∧
    (fenced.setVreg 21 { fenced.vreg 21 with hold := .rows (List.replicate 32 3) 0 }).rowsHeld ≤ (pkgWith fenced).rowLimit 0 fenced ∧
    pkg0.backed (8 * 0x4000) = true ∧ pkg0.Inv ∧ pkg0.backed (paLocal 0x30000) = true ∧ pkg0.backed (paLocal 0x30000 + 2 - 1) = true := by
  constructor <;> decide +kernel

/-! ### Events of the engines -/

/-- The copy of WaitsComplete's block is in the engine's queue. -/
def copying : State := after (exec (.qsub hu 8 63 0) copyCtx.s)
def noReq : CopyReq where
  core := 0
  team := 0
  group := 0
  block := 0
  list := []
  done := 0
  rng := 0
  promise := 0
  waitPage := none
  tags := []
  owed := 0
  inbuf := []
  sent := []
  retried := []
def req0 : CopyReq := (copying.copies.head?).getD noReq
def copier : Group := (copying.group 0).getD group0
def prods0 : List Prod_ := req0.prodsFrom req0.next (8 * Config.chunkBytes + 8)
def chunk0 : Work × Nat × Stop_ :=
  (⟨req0.group, copier, req0.block, req0.inbuf⟩ : Job).chunk
    (fun key => (req0.prodsFrom 0 req0.next).any fun p => p.drow == key.1 && p.dk / ((dstSide req0.block).block : Int) == key.2)
    prods0.length [] prods0 0 ⟨copying, [], req0.rng, [], []⟩
def full : Stop_ → Bool
  | .full => true
  | _ => false
/-- A group asleep in CBWAIT, in SLEEPUNTIL, and in PUBLISH of the page at 0x20000, whose entry has TW. -/
def cbGroup : Group := { group0 with asleep := some (.cbwait .a 0) }
def untilGroup : Group := { group0 with asleep := some (.sleepuntil .a 90 none) }
def untilPkg : State := { pkgWith untilGroup with cycle := 100 }
def pubGroup : Group := { group0 with asleep := some (.publish .a 0x20000 65536) }
def pubPkg : State := { tablePkg with groups := [some pubGroup], mem := Mem.writeN tables 0x70010 8 0x2612F }
/-- An MXLOOP of 64 K positions of BF16 zeros that has begun and has the array. -/
def loop0 : Instr := .mxloop hu false 0 0 4 .dense true 64 0 0
def loopWork : MxWork := { work0 with instr := loop0, ops := some [0, 0, 0, 0] }
def resv0 : Resv := ⟨8192, 4, 0, 0, [], []⟩
def mxGroup : Group := { group0 with mx := [loopWork], ob := [some resv0], b := [some resv0], tiles := [some Tile.zero] }
def mxPkg : State := { pkgWith mxGroup with cores := [{ CoreSt.reset with array := [0] }] }
def acczGroup : Group := { group0 with mx := [{ work0 with ops := some [] }] }
def zeroDesc : MxDesc := ⟨0, 0, 0, 0, 0, 0, 0⟩

theorem test_meets_EngineEventsComplete :
    (copying.copyHead 0 [] copying.copies = some req0 ∧ copying.group req0.group = some copier ∧ (dstSide req0.block).kind ≠ 4 ∧
      full chunk0.2.2 = true ∧ chunk0.2.1 = 16 ∧ blkLcnt req0.block = 0) ∧
    ((pkgWith cbGroup).group 0 = some cbGroup ∧ (pkgWith cbGroup).teamOf cbGroup = some team0 ∧ (team0.readLocal 0 16).2 = false ∧
      barFault (team0.barrier 0) = false ∧ barCount (team0.barrier 0) = 0) ∧
    (untilPkg.group 0 = some untilGroup ∧ untilPkg.teamOf untilGroup = some team0 ∧ (90 : DWord).toNat ≤ untilPkg.cycle) ∧
    (pubPkg.twinBusy (pubPkg.asidOf pubGroup) 0x20000 65536 = false ∧ pubPkg.accessesOpen (pubPkg.asidOf pubGroup) = false ∧
      (∀ a ∈ regionPages 0x20000 65536, pubPkg.twinPage (pubPkg.asidOf pubGroup) a ≠ .frozen) ∧
      pubPkg.walk (pubPkg.asidOf pubGroup) 0x20000 = .leaf 0x70010 0x2612F false ∧ pteTW 0x2612F = true ∧ pteFZ 0x2612F = false) ∧
    (mxCtx.g.mxHead = some (0, work0) ∧ work0.ops = none ∧ work0.spoiled = none ∧ mxCtx.s.tileTaken 0 mxCtx.g (tileNum false) = false ∧
      acczGroup.mxHead = some (0, { work0 with ops := some [] }) ∧ (pkgWith acczGroup).tileTaken 0 acczGroup (tileNum false) = false) ∧
    mxPkg.group 0 = some mxGroup ∧ mxGroup.mxHead = some (0, loopWork) ∧ mxPkg.arrayTurn 0 mxGroup = true ∧ mxGroup.obAt 0 = some resv0 ∧
    mxGroup.bAt 0 = some resv0 ∧ mxGroup.tileAt (tileNum false) = some Tile.zero ∧ MxDesc.of [0, 0, 0, 0] = some zeroDesc ∧
    (⟨zeroDesc, resv0, resv0, none, .dense, 64, 0, 0, 0, 32⟩ : MxPlace).metaOk = true := by
  refine ⟨?_, ?_, ?_, ?_, ?_, ?_⟩ <;> decide +kernel
/-- R106: the sleep to cycle 90 is over at cycle 100. R107: the twin's TA changes. -/
theorem test_wakes : ((after (exec (.sleepuntilWake 0) untilPkg)).group 0).bind (fun g => g.slotA.map Path.pc) = some 0x10004 ∧
    (after (exec (.publishFlip 0) pubPkg)).readPA 0x70010 8 = 0x2E12F := by decide +kernel

/-! ### Events of the fabric -/

/-- Port 0 up, the way to package 1; a load of lane 0 of the group waits for tag 5; tags 6 and 7 stand for a signal and a drain. -/
def load20 : Instr := .ldW hd 20 ⟨0, 2, .core, .plain, false⟩
def waiting : Group := { group0 with remote := [⟨load20, 1, [5], [], 0x10000, [⟨0, 0x20000, 0, 0⟩], false, 0⟩] }
def fabPkg : State := (({ pkgWith waiting with
  remote := [⟨5, 1, 0, false, .lanes 0 [0]⟩, ⟨6, 1, 0, true, .signal 1 (some 9)⟩, ⟨7, 1, 0, true, .drain 0⟩]
  routes := Tbl.set 0 pkg0.routes 1 0x8000010000000000 }).setPort 0 { Port.reset with up := true })
/-- A flit from package 1 for package dst with a tag and a payload of words. -/
def flit0 (cls dst tag : Nat) (words : List Nat) : Flit where
  cls := BitVec.ofNat 2 cls
  rsv := 0
  seq := 0
  ack := 0xFFFF
  dst := BitVec.ofNat 9 dst
  src := 1
  tag := BitVec.ofNat 16 tag
  hops := 0
  rate := 255
  w := false
  payload := words.flatMap (bytesOf 8)
/-- What a flit that port 0 accepts leaves. -/
def taken (type : Nat) (f : Flit) : State := (fabPkg.accepts 0 type f).getD pkg0
def accepted (type : Nat) (f : Flit) : Bool := (fabPkg.accepts 0 type f).isSome
/-- A record of 4 bytes at 0x30000: a WRITE of 5 there, for package dst, and a READ; an ATOMIC that adds 7; a DRAIN and its answer; a chunk of 3 bytes. -/
def rec0 : Nat := 0x30000 + 2 * 2 ^ 54
def write0 (dst : Nat) : Flit := flit0 0 dst 1 [rec0, 5, 0]
def read0 : Flit := flit0 0 0 1 [rec0]
def atomic0 : Flit := flit0 0 0 3 [rec0, 7, 0]
def drain0 : Flit := { flit0 0 0 9 [] with payload := [0, 0] }
def drained0 : Flit := { flit0 1 0 7 [] with payload := [0, 0] }
def bulk0 : Flit := { flit0 2 0 8 [0x30000, 3 + 3 * 2 ^ 16] with payload := bytesOf 8 0x30000 ++ bytesOf 8 (3 + 3 * 2 ^ 16) ++ [1, 2, 3] }

theorem test_meets_FlitsTakeEffect :
    ((fabPkg.port 0).up = true ∧ (fabPkg.port 0).retraining = false ∧ fabPkg.flitOk 1 (write0 0) = true ∧ fabPkg.fits 1 = true ∧
      fabPkg.accepts 0 1 { write0 0 with seq := 5 } = none ∧ accepted 0 (flit0 3 0 0 []) = true ∧ accepted 8 (flit0 3 0 0 []) = true) ∧
    (accepted 1 (write0 1) = true ∧ (taken 1 (write0 1)).routePort 1 = some 0 ∧ (write0 1).dst ≠ (taken 1 (write0 1)).pkgId ∧ (write0 1).hops ≠ 15) ∧
    (accepted 1 (write0 0) = true ∧ (write0 0).dst = (taken 1 (write0 0)).pkgId ∧ (write0 0).payload.length = 24 ∧
      (taken 1 (write0 0)).mine 0x30000 = true ∧ accepted 2 read0 = true ∧ (taken 2 read0).mine 0x30000 = true) ∧
    (accepted 3 atomic0 = true ∧ (taken 3 atomic0).mine 0x30000 = true ∧ atomic0.isRed = false ∧ atomic0.get 16 8 % 32 ≠ casCode ∧
      (AtomOp.of (atomic0.get 16 8 % 32)).isSome = true) ∧
    (accepted 4 (flit0 1 0 5 [9, 0]) = true ∧ accepted 5 (flit0 1 0 5 [9]) = true ∧ accepted 6 (flit0 1 0 6 []) = true ∧
      (taken 6 (flit0 1 0 6 [])).remoteAt 6 = some ⟨6, 1, 0, true, .signal 1 (some 9)⟩ ∧ accepted 10 drained0 = true ∧
      (taken 10 drained0).remoteAt 7 = some ⟨7, 1, 0, true, .drain 0⟩) ∧
    (accepted 9 drain0 = true ∧ (taken 9 drain0).drains = [] ∧ (taken 9 drain0).chunks = [] ∧ (taken 9 drain0).routePort 1 = some 0 ∧ (taken 9 drain0).routeStalled 1 = false ∧ (taken 9 drain0).held = [] ∧
      ((taken 9 drain0).route 1).getLsbD 63 = true ∧ (fabPkg.setPort 0 { Port.reset with down := true }).routeStalled 1 = true) ∧
    accepted 7 bulk0 = true ∧ (taken 7 bulk0).openChunk bulk0 = none ∧ (taken 7 bulk0).remoteAt bulk0.id = none ∧ (taken 7 bulk0).Inv ∧
    bulk0.payload.length = 16 + bulk0.get 10 2 ∧ (∀ k, k < bulk0.get 10 2 → (taken 7 bulk0).mine (bulk0.get 0 8 + k) = true) := by
  refine ⟨?_, ?_, ?_, ?_, ?_, ?_, ?_⟩ <;> decide +kernel
theorem test_meets_awaits : (taken 4 (flit0 1 0 5 [9, 0])).awaits 0 0 5 waiting load20 20 ∧ (taken 5 (flit0 1 0 5 [9])).awaits 0 0 5 waiting load20 20 := by
  constructor <;> exact ⟨1, 0, false, 0x10000, [⟨0, 0x20000, 0, 0⟩], false, 0, by decide +kernel⟩
/-- R130: the third byte of the chunk. R126: the register of the lane that has waited. -/
theorem test_bulk : ((after (exec (.bulk 0 bulk0) fabPkg)).mem.get 0x30002) = 3 ∧
    ((after (exec (.readResp 0 (flit0 1 0 5 [9, 0])) fabPkg)).group 0).map (fun g => g.rd 20 0) = some 9 := by decide +kernel
/-- R123: a flit for which there is no room has the port advertise 0. -/
theorem test_noRoom : ((after (exec (.write 0 (write0 0)) { fabPkg with fill := 3 })).port 0).rateOut = 0 := by decide +kernel

/-- A port with a flit to send; one that owes a NAK; one whose oldest flit is overdue; one that retrains. -/
def sending : Port := { Port.reset with up := true, sendq := [⟨1, write0 1, 0, true⟩] }
def owing : Port := { Port.reset with up := true, nakDue := true }
def overdueFlit : Port := { Port.reset with up := true, replay := [⟨1, write0 1, 0, true⟩], resend := 1 }
def latePkg : State := { pkg0.setPort 0 overdueFlit with cycle := 5000 }
def trained : Port := { Port.reset with retraining := true }
theorem test_meets_PortsKeepTheirOrder :
    (sending.mayStart = true ∧ sending.nakDue = false ∧ sending.replay[sending.resend]? = none ∧ sending.replay.length < Config.replayFlits ∧
      (pkg0.setPort 0 sending).port 0 = sending) ∧
    ((pkg0.setPort 0 owing).port 0 = owing ∧ owing.mayStart = true ∧ owing.nakDue = true) ∧
    ((fabPkg.port 0).nakDue = false ∧ (fabPkg.port 0).replay[(fabPkg.port 0).resend]? = none ∧ (fabPkg.port 0).sendq = []) := by
  refine ⟨?_, ?_, ?_⟩ <;> decide +kernel
theorem test_meets_portTimers : (latePkg.port 0) = overdueFlit ∧ overdueFlit.resend ≠ 0 ∧ 0 + 4200 ≤ latePkg.cycle ∧ pkg0.openTo 1 = false ∧
    pkg0.fabRunning 2 = false := by decide +kernel
theorem test_meets_portDown : (fabPkg.setPort 0 trained).port 0 = trained ∧ (fabPkg.setPort 0 trained).fabRunning 1 = false ∧ trained.replay = [] ∧
    trained.sendq = [] ∧ ((fabPkg.setPort 0 trained).route 1).getLsbD 63 = true ∧ bitsOf ((fabPkg.setPort 0 trained).route 1).toNat 58 5 = 0 := by
  decide +kernel
/-- R117: the CRC32C of the nine ASCII digits is 0xE3069283 by its polynomial, its first value and its final XOR. -/
theorem test_crc : crc32c ((List.range 9).map fun k => BitVec.ofNat 8 (0x31 + k)) = 0xE3069283 := by decide +kernel

/-! ### Events of the hub -/

/-- An image at 0x20000 of one node of one group, with code at 0x10000, its areas in a pinned page, and a ring of one queue at 0x20800. -/
def imageWords : List (Nat × Nat) := [(0x70098, 0xE662F), (0x30000, 0x31495A4F + 2 ^ 32 + 2 ^ 40), (0x30008, 0x20100), (0x30010, 1 + 2 ^ 16), (0x30018, 0x20200), (0x30020, 0x20200),
  (0x30028, 0x130000), (0x30030, 0x134000), (0x30038, 16 * 2 ^ 16), (0x30040, 0x138000), (0x30100, 0x10000), (0x30108, 1 + 16 * 2 ^ 8), (0x30200, 0x10000),
  (0x30208, 1200), (0x100, 0x20800), (0x108, 6 + 2 ^ 20), (0x110, 1)]
/-- Queue 1 mapped to slot 0, with a packet at its read index. -/
def queuePkg (words : List Nat) : State := { tablePkg with
  mem := (imageWords ++ words.mapIdx fun k x => (0x30800 + 8 * k, x)).foldl (fun m (e : Nat × Nat) => Mem.writeN m e.1 8 e.2) tables
  groups := []
  teams := []
  launches := []
  qslots := Tbl.set QSlot.reset tablePkg.qslots 0 { QSlot.reset with queue := some 1, upto := 1 } }
def packetOf (words : List Nat) : Packet := ⟨0, 1, 1, 0, words⟩
def readRing (words : List Nat) : State := stateOf ((queuePkg words).packetWords 1)
/-- The packet of some words stands next in the ring of queue 1. -/
def isNext (words : List Nat) : Prop :=
  let s := queuePkg words
  let p := packetOf words
  ((s.qslot 0).queue = some 1 ∧ s.queueOpen 0 1 = true ∧ s.queueAsOk 1 = true) ∧ valOf (s.packetWords 1) = some p.w ∧ p.asid = s.qAsid 1 ∧
    p.part = s.qPart 1 ∧ (p.type < 5 → p.wellFormed = true ∧ (bitsOf (p.word 0) 8 1 = 1 → s.queueBusy 1 false = false))
theorem next_of {words : List Nat} (h : isNext words) : (queuePkg words).nextPacket 0 (packetOf words) (readRing words) := by
  obtain ⟨⟨hq, ho, ha⟩, hw, hi, hp, ht⟩ := h
  refine ⟨1, hq, ho, ha, ?_, rfl, rfl, hi, hp, ht⟩
  unfold readRing
  revert hw
  cases (queuePkg words).packetWords 1 <;> simp [valOf, stateOf]

def nopWords : List Nat := [0, 0, 0, 0, 0, 0, 0, 0]
def launchWords : List Nat := [1, 0x20000, 0, 0, 0, 0, 0, 0]
def signalWords : List Nat := [2, 0x20400, 3, 0, 0, 0, 0, 0]
def waitWords : List Nat := [3, 0x20400, 0, 0, 0, 0, 0, 0]
def fenceWords : List Nat := [4, 5, 0, 0, 0, 0, 0, 0]
def reservedWords : List Nat := [9, 0, 0, 0, 0, 0, 0, 0]
theorem test_meets_nextPacket : (queuePkg nopWords).nextPacket 0 (packetOf nopWords) (readRing nopWords) ∧
    (queuePkg launchWords).nextPacket 0 (packetOf launchWords) (readRing launchWords) ∧
    (queuePkg signalWords).nextPacket 0 (packetOf signalWords) (readRing signalWords) ∧
    (queuePkg waitWords).nextPacket 0 (packetOf waitWords) (readRing waitWords) ∧
    (queuePkg fenceWords).nextPacket 0 (packetOf fenceWords) (readRing fenceWords) ∧
    (queuePkg reservedWords).nextPacket 0 (packetOf reservedWords) (readRing reservedWords) := by
  refine ⟨?_, ?_, ?_, ?_, ?_, ?_⟩ <;> exact next_of (by unfold isNext; decide +kernel)
def hubTrans (words : List Nat) (w : Bool) : Trans × State := (readRing words).translateHub 1 0x20400 w
theorem test_meets_QueuesServeTheirPackets :
    (tablePkg.boot.state = 2 ∧ tablePkg.mayKick 0 5 = true ∧ tablePkg.slotOfQueue 5 = none ∧ tablePkg.queues.contains 5 = false ∧
      ({ queuePkg nopWords with queues := [1] } : State).queueAsOk 1 = true ∧ ({ queuePkg nopWords with queues := [1] } : State).slotFor = some 1) ∧
    ((readRing launchWords).launches = [] ∧ passed ((readRing launchWords).readImage 1 0 0x20000 none) = true) ∧
    ((readRing signalWords).queueBusy 1 false = false ∧ (readRing signalWords).signalsOut 0 = false ∧
      (readRing signalWords).signalStalled 1 0x20400 = false ∧ transOk (hubTrans signalWords true) = some 0x30400 ∧
      ((hubTrans signalWords true).2.signalOp 0 1 0x20400 .add 3 none).isSome = true) ∧
    (transOk (hubTrans waitWords false) = some 0x30400 ∧ pteR 0x3602F = true ∧ (hubTrans waitWords false).2.isLocal 0x30400 = true ∧
      0 ≤ (hubTrans waitWords false).2.readPA 0x30400 8) ∧
    (readRing fenceWords).queueBusy 1 false = false ∧ (readRing fenceWords).signalsOut 0 = false := by
  refine ⟨?_, ?_, ?_, ?_, ?_⟩ <;> decide +kernel

/-- R322: the LAUNCH packet's node is ready. -/
theorem test_packetLaunch : ((after (exec (.packetLaunch 0) (queuePkg launchWords))).launch 0).map (fun l => l.runs.map NodeRun.st) = some [.ready] := by
  decide +kernel
/-- A node is ready, and core 0 belongs to its partition. -/
def readyPkg : State :=
  let s := after (exec (.packetLaunch 0) (queuePkg launchWords))
  s.setPart 0 { s.part 0 with cfg := 0x8000000000000000, quads := 1 }
/-- team0 saved, its launch live, and the core's. -/
def savedPkg : State :=
  let s := { pkg0 with
    groups := [], teams := [], launches := [some { launch0 with runs := [{ runs0 with st := .saved }] }]
    saved := [some ⟨{ team0 with groups := [] }, [group0], [], 0, 0, 0⟩] }
  s.setPart 0 { s.part 0 with cfg := 0x8000000000000000, quads := 1 }
/-- A group asleep in LAUNCH of the image at 0x20000. -/
def launching : Group := { group0 with asleep := some (.launch .a 0x20000 1) }
def launchingPkg : State := { queuePkg nopWords with groups := [some launching], teams := [some team0], launches := [some launch0] }
/-- A launch with nothing left. -/
def finished : Launch := { launch0 with runs := [{ runs0 with st := .complete }] }
/-- A launch whose node takes part in a pod barrier with its word at 0x20400; its team's group stands at the barrier; and waits for a generation. -/
def podLaunch : Launch := { launch0 with hdr := { launch0.hdr with podbar := 0x20300 }, podNodes := [0], podWord := 0x20400, podTotal := 2 }
def podPkg : State := after (exec (.bar hd .pod) { tablePkg with launches := [some podLaunch] })
def podTeam0 : Team := (podPkg.team 0).getD team0
def podWaits : State := { podPkg with teams := [some { podTeam0 with podGen := some 5 }] }

/-- The image of launchCtx's LAUNCH, at 0x20000. -/
def askCtx : Ctx := ctxIn { queuePkg nopWords with teams := [some team0], launches := [some launch0] } { group0 with v := vals [0, 5, 7, 0, 1, 2, 3, 0, 0x20000, 0] }
def asking : State := after (exec (.launch hu 8 3) askCtx.s)
theorem test_meets_HubEventsComplete :
    (readyPkg.boot.state = 2 ∧ readyPkg.rampFree = true ∧ (readyPkg.core 0).out = false ∧ (readyPkg.cfgApply 0).bestFor 0 (readyPkg.cfgApply 0).items = some (.fresh 0 0)) ∧
    (savedPkg.boot.state = 2 ∧ savedPkg.rampFree = true ∧ savedPkg.bestFor 0 savedPkg.items = some (.saved 0)) ∧
    (launchingPkg.group 0 = some launching ∧ launchingPkg.teamOf launching = some team0 ∧ launchingPkg.launchOf launching = some launch0 ∧
      launchingPkg.launchRuns launch0 = true ∧ passed (launchingPkg.readImage 1 1 0x20000 (some 0)) = true) ∧
    (({ pkg0 with launches := [some finished] } : State).launch 0 = some finished ∧ ({ pkg0 with launches := [some finished] } : State).drained finished = true ∧
      finished.live = true ∧ finished.told = 0 ∧ (finished.runs.all fun x => x.st == .complete) = true ∧
      finished.hdr.record = 0 ∧ finished.hdr.status = 0 ∧ finished.hdr.signal = 0 ∧ finished.msix = none ∧ finished.parent = none) ∧
    askCtx.Quiet (.launch hu 8 3) ∧ askCtx.s.launchRuns launch0 = true ∧ passed (asking.readImage 1 1 0x20000 (some 0)) = true := by
  refine ⟨?_, ?_, ?_, ?_, ?_⟩ <;> decide +kernel
theorem test_meets_podBarrier :
    (podPkg.podTeam 0 = some (podTeam0, podLaunch) ∧ podPkg.podArrives podTeam0 = true ∧ (podPkg.podPA podLaunch).1 = some 0x30400 ∧
      (podPkg.podPA podLaunch).2.isLocal 0x30400 = true) ∧
    podWaits.podTeam 0 = some ({ podTeam0 with podGen := some 5 }, podLaunch) ∧ podTeam0.live = true ∧ podWaits.team 0 = some { podTeam0 with podGen := some 5 } ∧
    (podWaits.podPA podLaunch).1 = some 0x30400 ∧ (podWaits.podPA podLaunch).2.isLocal 0x30400 = true ∧
    (podWaits.podPA podLaunch).2.readPA 0x30400 8 / 2 ^ 48 % 65536 ≠ 5 := by
  constructor <;> decide +kernel
/-- R325: the first of two arrivals is counted; the second, of one arrived and none retired, begins generation 1. -/
theorem test_podNext : podNext 2 0 true = 1 ∧ podNext 2 1 true = 2 ^ 48 := by decide +kernel

/-! ### Events that stop work, of the husk units, of the host and of the device -/

/-- The package with launch 0, its ladder and the cycle counter. -/
def stopPkg (lad : Option Ladder) : State := { pkg0 with launches := [some { launch0 with ladder := lad }], cycle := 10 ^ 12 }
/-- A launch on its way down, with no team. -/
def haltedPkg : State := { stopPkg (some .halt) with groups := [], teams := [] }
/-- A team that halts, in a partition with a save pool of 64 KiB at 0x130000. -/
def haltTeam : Team := { team0 with halting := some 0 }
def haltPkg : State :=
  let s : State := { tablePkg with
    teams := [some haltTeam]
    mem := Mem.writeN tables 0x70098 8 0xE662F }
  s.setPart 0 { s.part 0 with cfg := 0x8000000000000000, quads := 1, saveBase := 0x130000, saveLen := 0x10000 }
/-- Core 0 belongs to partition 0 and is lent to partition 1; and its owner has revoked it. -/
def lentPkg : State :=
  let s : State := { pkg0 with cores := Tbl.set CoreSt.reset pkg0.cores 0 { CoreSt.reset with lentTo := some 1 } }
  s.setPart 0 { s.part 0 with cfg := 0x8000000000000000, quads := 1 }
def revokedPkg : State := { lentPkg with groups := [], teams := [], cores := Tbl.set CoreSt.reset pkg0.cores 0 { CoreSt.reset with lentTo := some 1, revoking := some 0 } }
/-- A saved team of rescue priority waits beside a resident one. -/
def rescuePkg : State :=
  let s := { pkg0 with saved := [some ⟨{ team0 with rescue := true, groups := [] }, [group0], [], 0, 0, 0⟩], cycle := 10 ^ 6 }
  s.setPart 0 { s.part 0 with cfg := 0x8000000000000000, quads := 1 }
/-- A restartable node's team. -/
def restartable : State := { pkg0 with launches := [some { launch0 with nodes := [{ node0 with rs := true }] }] }
def stoppingPkg : State := pkg0.setPart 3 { pkg0.part 3 with stopping := true }
def resetQueue : State := pkg0.setQFlag 9 2 true
def monitored : State := { pkg0 with cycle := 2 ^ 20, qslots := Tbl.set QSlot.reset pkg0.qslots 0 { QSlot.reset with queue := some 1, hist := [3] } }

theorem test_meets_StopsBeginAndEnd :
    ((stopPkg none).launch 0 = some { launch0 with ladder := none } ∧ (stopPkg (some .soft)).launch 0 = some { launch0 with ladder := some .soft } ∧
      (launch0.runs.any fun x => x.st == .resident) = true ∧
      0 + Config.cyclesOfUs ((stopPkg (some .soft)).part 0).grace ≤ (stopPkg (some .soft)).cycle ∧ haltedPkg.liveTeams 0 = [] ∧ haltedPkg.savedOf 0 = [] ∧
      0 + Config.cyclesOfUs (haltedPkg.part 0).kill ≤ haltedPkg.cycle) ∧
    (haltPkg.team 0 = some haltTeam ∧ haltPkg.rampFree = true ∧ haltPkg.gangTeams 0 haltTeam = [(0, haltTeam)] ∧
      (haltPkg.groupsOf haltTeam).all (fun x => haltPkg.groupStops x.1 x.2) = true ∧ (haltPkg.launch haltTeam.launch).bind Launch.ladder = none ∧ haltPkg.podOpen 0 = false ∧
      ((haltPkg.orphanGroups (haltPkg.groupsOf haltTeam)).groupsOf haltTeam).all (fun x => !x.2.orphanOwed) = true ∧
      ((haltPkg.orphanGroups (haltPkg.groupsOf haltTeam)).saveTeam 0 haltTeam).isSome = true) ∧
    ((lentPkg.core 0).lentTo = some 1 ∧ lentPkg.ownerOf 0 = some 0 ∧ lentPkg.margin 0 < lentPkg.lentOut 0 ∧ (lentPkg.core 0).revoking = none ∧
      (revokedPkg.core 0).revoking = some 0 ∧ (revokedPkg.core 0).lentTo = some 1 ∧ revokedPkg.ownerOf 0 = some 0 ∧ revokedPkg.teamsOn 0 = []) ∧
    ((rescuePkg.savedAt 0).map (fun x => x.team.rescue) = some true ∧ 0 < rescuePkg.saved.length ∧ 0 + 105000 ≤ rescuePkg.cycle ∧
      rescuePkg.youngest 0 = some (0, team0) ∧ team0.halting = none ∧ rescuePkg.launch 0 = some launch0) ∧
    (pkg0.teamsOn 7 = [] ∧ restartable.teamsOn 0 = [(0, team0)] ∧ team0.safe = true ∧ (restartable.nodeOf team0).map NodeRec.rs = some true) ∧
    ((pkg0.part 3).stopping = false ∧ (pkg0.anyLaunch fun l => l.part == 3) = false ∧ (stoppingPkg.part 3).stopping = true ∧
      (stoppingPkg.anyLaunch fun l => l.part == 3) = false ∧ stoppingPkg.remote = [] ∧ stoppingPkg.outgoing = [] ∧
      (stoppingPkg.part 3).wrote = [] ∧ (stoppingPkg.part 3).dirtyCap = 0 ∧ stoppingPkg.boot.tdiNext = []) ∧
    pkg0.qFlag 9 2 = false ∧ (pkg0.anyLaunch fun l => l.queue == 9) = false ∧ resetQueue.qFlag 9 2 = true ∧ resetQueue.remote = [] ∧ resetQueue.outgoing = [] ∧
    (resetQueue.part (resetQueue.qPart 9)).wrote = [] ∧ monitored.monitorAt ≤ monitored.cycle ∧ (monitored.qslot 0).queue ≠ none := by
  refine ⟨?_, ?_, ?_, ?_, ?_, ?_, ?_⟩ <;> decide +kernel

/-- The commit that the HSTORE of step 1 has asked for; one of the step committed before; one of a step far ahead. -/
def committing : Group := (((after (exec hstore0 huskCtx2.s)).group 0)).getD group0
def commit0 : Commit := ((committing.husk.bind Husk.commit)).getD ⟨none, 0, 0, 0, 0, 0, 0, 0, []⟩
def husk1 : Husk := (committing.husk).getD husk0
def commitPkg (q : Commit) : State := { huskCtx.s with groups := [some { committing with husk := some { husk1 with commit := some q } }] }
/-- A holder taken off its core, and as an orphan that comes back. -/
def offGroup : Group := { huskCtx.g with husk := some { husk0 with desched := true } }
def offPkg : State := { huskCtx.s with groups := [some offGroup] }
def backPkg : State := after (exec (.huskOrphanRequest 0) offPkg)
def backGroup : Group := (backPkg.group 0).getD group0
/-- A group asleep in HENTER for a lock that is free. -/
def enterAsleep : Group := { enterCtx.g with asleep := some (.henter .a) }
theorem test_meets_HuskUnitsAnswer :
    ((commitPkg commit0).Inv ∧ committing.husk = some husk1 ∧ husk1.commit = some commit0 ∧ ((commitPkg commit0).huskReach committing husk1.lock).1 = some 0x30000 ∧
      commit0.pa = some 0x30400 ∧ lkEpoch ((commitPkg commit0).lockWord 0x30000 0) = commit0.epoch.toNat ∧
      commit0.step = lkStep ((commitPkg commit0).lockWord 0x30000 0) + 1 ∧ commit0.step < 32 ∧ commit0.vals.length ≤ 8 ∧ commit0.bytes = 4 ∧
      paLocal 0x30000 + 256 ≤ paLocal 0x30400) ∧
    ({ commit0 with step := 0 }.step = lkStep ((commitPkg commit0).lockWord 0x30000 0) ∧
      { commit0 with step := 9 }.step ≠ lkStep ((commitPkg commit0).lockWord 0x30000 0)) ∧
    ((ctxIn tablePkg enterAsleep).s.henterLock enterAsleep .a = some 0x30000 ∧
      (ctxIn tablePkg enterAsleep).s.lockFate 0x30000 ((ctxIn tablePkg enterAsleep).s.asidOf enterAsleep) = .free) ∧
    (offPkg.group 0 = some offGroup ∧ offGroup.husk = some { husk0 with desched := true } ∧ husk0.orphd = false ∧ husk0.waitd = false ∧
      (offPkg.huskReach offGroup husk0.lock).1 = some 0x30000 ∧ lkHeld (offPkg.lockWord 0x30000 0) = true ∧ offPkg.lockWord 0x30000 1 = offGroup.key.toNat) ∧
    ((backGroup.husk.map fun h => (h.orphd, h.adopt, h.commit.isNone)) = some (true, false, true) ∧ backPkg.logOverdue backGroup = false ∧
      (backPkg.huskReach backGroup husk0.lock).1 = some 0x30000 ∧ backGroup.deferred = none ∧ backPkg.lockWord 0x30000 1 = backGroup.key.toNat ∧
      (backGroup.husk.map fun h => h.epoch.toNat) = some (lkEpoch (backPkg.lockWord 0x30000 0)) ∧ lkOrph (backPkg.lockWord 0x30000 0) = true) ∧
    pkg0.keyLive 77 = false ∧ (lockCtx heldLock).s.Inv ∧ (lockCtx heldLock).s.lockWord 0x30000 1 = 77 := by
  refine ⟨?_, ?_, ?_, ?_, ?_, ?_⟩ <;> decide +kernel
/-- R367: the dead holder's lock becomes an orphan. -/
theorem test_purge : lkOrph (((lockCtx heldLock).s.purgeBlock 77 0x30000).lockWord 0x30000 0) = true := by decide +kernel

/-- A command register that is busy; a port that is down; a page fault with the driver of partition 0; and a package in recovery. -/
def invBusy : State := { pkg0 with regs := { pkg0.regs with invcmd := 0x8000000100000001 } }
def fabBusy : State := { pkg0 with regs := { pkg0.regs with fabcmd := 0x8000000000000000 } }
def downPkg : State := pkg0.setPort 3 { Port.reset with down := true }
def routePkg : State := { pkg0 with regs := { pkg0.regs with fabdata := 0 } }
def driverPkg : State := { tablePkg with faults := [fault0 18 .driver] }
def recovering : State := { pkg0 with boot := { pkg0.boot with state := 3 } }
/-- Partition 2, not enabled, of a launch that is live. -/
def busyPart : State := { pkg0 with launches := [some { launch0 with part := 2 }] }
/-- FLTRESP for page 18 of address space 1: resolved, and not to be resolved. -/
def answer0 (action : Nat) : DWord := BitVec.ofNat 64 (2 ^ 52 + 18 * 65536 + action)
theorem test_meets_HostCommandsTakeEffect :
    (pkg0.regs.invcmd.getLsbD 63 = false ∧ invBusy.regs.invcmd.getLsbD 63 = true ∧ invBusy.accessesOpen (bitsOf invBusy.regs.invcmd.toNat 32 12) = false) ∧
    (pkg0.tdiFixes 2 = false ∧ (pkg0.part 2).cfg.getLsbD 63 = false ∧ (pkg0.part 2).cfgNext = none ∧ pkg0.quadsTaken 2 (pkg0.part 2).quads = false ∧
      pkg0.partBusy 2 = false ∧ busyPart.partBusy 2 = true ∧ busyPart.quadsTaken 2 (busyPart.part 2).quads = false ∧ pkg0.quadsTaken 2 5 = false ∧ fabBusy.regs.fabcmd.getLsbD 63 = true ∧ pkg0.regs.fabcmd.getLsbD 63 = false) ∧
    ((0x4000000000000301 : DWord).getLsbD 62 = true ∧ bitsOf 0x4000000000000301 0 4 = 1 ∧ bitsOf 0x4000000000000301 8 5 = 3 ∧
      (downPkg.port 3).down = true ∧ downPkg.regs.fabcmd.getLsbD 63 = false ∧ bitsOf 0x4000000000000002 0 4 = 2 ∧ routeOk routePkg.regs.fabdata = true ∧
      bitsOf 0x4000000000000003 0 4 = 3 ∧ bitsOf 0x4000000000000007 0 4 ∉ [1, 2, 3]) ∧
    (pkg0.part 2).ringOn = false ∧ pkg0.faults = [] ∧ driverPkg.answered 0 (answer0 1) = some (fault0 18 .driver) ∧
    driverPkg.answered 0 (answer0 2) = some (fault0 18 .driver) ∧ bitsOf (answer0 1).toNat 0 2 = 1 ∧ bitsOf (answer0 2).toNat 0 2 = 2 := by
  refine ⟨?_, ?_, ?_, ?_⟩ <;> decide +kernel
/-- Whether an image is signed is no part of the spec (log entry 10): of its two cases one holds of each image. -/
theorem test_meets_DeviceEventsTakeEffect : recovering.boot.state = 3 ∧ pkg0.boot.state = 2 ∧ Config.dramBytes ≤ Config.cxlBase ∧
    cxlPort Config.cxlBase < 8 ∧ 1 < pkg0.regs.ramp := by decide +kernel
theorem test_image_cases (image : List Byte) : pkg0.imageOk image = true ∨ pkg0.imageOk image = false := by
  cases pkg0.imageOk image <;> simp
/-- R10, R400: RECOV's image is judged in state 3 only. -/
theorem test_recov : (after (exec (.recov 0) pkg0)).boot.state = 2 := by decide +kernel
/-- R406: the key of TILE_M is 0x0000_4D5F_454C_4954, and the keys stand in rising order. -/
theorem test_discovery : discoveryKey ['T', 'I', 'L', 'E', '_', 'M'] = 0x00004D5F454C4954 ∧ rising (discovery.map Prod.fst) = true := by decide +kernel
end Sys2Proof.Tests
end

section
/-! Settles O18: bytes written to the package read back (R3, R78), and what a fetch of a word gives (R15, R54, R81). -/

namespace Sys2Proof.Machine

/-! ### Bytes and words -/

/-- Byte k of n bytes just written is byte k of the number, the lowest byte at the lowest address (R3, R78). -/
theorem State.get_writePA_in {s : State} (pa n v k : Nat) (bad : Bool) (h : Mem.wf s.mem = true) (hk : k < n) :
    (Mem.get (s.writePA pa n v bad).mem (paLocal pa + k)).toNat = v / 256 ^ k % 256 := by
  simp [State.writePA, Mem.get_writeN_in h _ _ _ _ hk]

/-- Bits put in front of a word weigh as much as the word has room for. -/
theorem toNat_append_eq_add {m n : Nat} (x : BitVec m) (y : BitVec n) : (x ++ y).toNat = x.toNat * 2 ^ n + y.toNat := by
  rw [BitVec.toNat_append, ← Nat.shiftLeft_add_eq_or_of_lt y.isLt, Nat.shiftLeft_eq]

/-- The number that four bytes put together as a word are. -/
theorem wordOfBytes_toNat (b0 b1 b2 b3 : Byte) :
    (wordOfBytes b0 b1 b2 b3).toNat = b0.toNat + 256 * (b1.toNat + 256 * (b2.toNat + 256 * b3.toNat)) := by
  simp only [wordOfBytes, toNat_append_eq_add]
  omega

/-- Four bytes read as one number are the word that they form, the lowest byte first (R3, R15). -/
theorem Mem.readN_four (m : Mem) (a : Nat) :
    BitVec.ofNat 32 (Mem.readN m a 4) = wordOfBytes (Mem.get m a) (Mem.get m (a + 1)) (Mem.get m (a + 2)) (Mem.get m (a + 3)) := by
  have hread : Mem.readN m a 4 =
      (wordOfBytes (Mem.get m a) (Mem.get m (a + 1)) (Mem.get m (a + 2)) (Mem.get m (a + 3))).toNat := by
    rw [wordOfBytes_toNat]
    simp [Mem.readN]
  rw [hread, BitVec.ofNat_toNat, BitVec.setWidth_eq]

/-! ### Fetching -/

/-- A page without X permits no fetch (R54, R81). -/
theorem State.fetchWord_noExec {s s1 : State} {g : Group} {va pa : Nat} {pte : DWord} {big : Bool}
    (ht : s.translate (s.coreOf g) (s.asidOf g) va false = (.ok pa pte big, s1)) (hx : pteX pte = false) :
    s.fetchWord g va = .noExec s1 := by
  simp [State.fetchWord, ht, hx]

/-- A fetch of a word of this package that its core has not cached reads memory, and the core caches the word (R81). -/
theorem State.fetchWord_uncached {s s1 : State} {g : Group} {va pa : Nat} {pte : DWord} {big : Bool}
    (ht : s.translate (s.coreOf g) (s.asidOf g) va false = (.ok pa pte big, s1)) (hl : s1.isLocal pa = true)
    (hx : pteX pte = true) (hc : s1.cached (s.coreOf g) (s.asidOf g) va = none) :
    s.fetchWord g va = .ok (BitVec.ofNat 32 (s1.readPA pa 4))
      (s1.cache (s.coreOf g) (s.asidOf g) va (BitVec.ofNat 32 (s1.readPA pa 4))) := by
  simp [State.fetchWord, ht, hl, hx, hc]

/-- Settles O18, by what is read after a write of bytes and by the two cases of a fetch from a page of this package. -/
theorem memoryReadsBack : Obligations.MemoryReadsBack := by
  unfold Obligations.MemoryReadsBack
  refine ⟨fun s pa n v bad h => ⟨?_, ?_, ?_, ?_⟩, fun s g va pa pte big s1 ht hl => ⟨?_, ?_⟩⟩
  · exact State.writePA_wf pa n v bad h
  · exact State.readPA_writePA pa n v bad h
  · exact fun k hk => State.get_writePA_in pa n v k bad h hk
  · exact fun a ha => State.writePA_other pa n v a bad h ha
  · exact State.fetchWord_noExec ht
  · intro hx hc
    rw [← Mem.readN_four]
    exact ⟨_, State.fetchWord_uncached ht hl hx hc⟩

end Sys2Proof.Machine
end

section
/-! Settles O60: the registers without a behaviour of their own (R4, R397), resets and recovery (R10, R402), the security block (R404, R405), a CXL port
that fails (R50) and the plate sensors. -/

namespace Sys2Proof.Machine

/-! ### The meanings of the events -/

theorem exec_registerWrite (offset : Nat) (val : DWord) (s : State) :
    exec (.registerWrite offset val) s = execRegisterWrite offset val s := rfl
theorem exec_powerOnReset (s : State) : exec .powerOnReset s = .next s.restarted.rom := rfl
theorem exec_tdispTransition (vf : Nat) (st : TdiState) (s : State) :
    exec (.tdispTransition vf st) s = execTdispTransition vf st s := rfl
theorem exec_cxlPortFailure (port : Nat) (s : State) : exec (.cxlPortFailure port) s = execCxlPortFailure port s := rfl

/-! ### Plain registers (R4, R397, R398) -/

/-- A write to an offset of a partition's block is the block's own write (R398). -/
theorem exec_registerWrite_block {part off : Nat} (hp : part < 16) (ho : off < 4096) (val : DWord) (s : State) :
    exec (.registerWrite (0x10000 + off + 4096 * part) val) s = .next (s.blockWrite part off val) := by
  have hpart : (0x10000 + off + 4096 * part) / 4096 - 16 = part := by omega
  have hoff : (0x10000 + off + 4096 * part) % 4096 = off := by omega
  have hlo : 0x10000 ≤ 0x10000 + off + 4096 * part := by omega
  have hhi : 0x10000 + off + 4096 * part < 0x20000 := by omega
  simp only [exec_registerWrite, execRegisterWrite, hlo, hhi, hpart, hoff, decide_true, Bool.and_self, if_true]

/-- Timers within their limits act as written (R328). -/
theorem timerPair_of_within {val : DWord} (h1 : 1 ≤ val.toNat % 2 ^ 32) (h2 : val.toNat % 2 ^ 32 < val.toNat / 2 ^ 32)
    (h3 : val.toNat / 2 ^ 32 ≤ 10000) : timerPair val = (val.toNat % 2 ^ 32, val.toNat / 2 ^ 32) := by
  have hgrace : bitsOf val.toNat 0 32 = val.toNat % 2 ^ 32 := by simp [bitsOf]
  have hkill : bitsOf val.toNat 32 32 = val.toNat / 2 ^ 32 := Nat.mod_eq_of_lt (by omega)
  have hg : Nat.min 9999 (Nat.max 1 (val.toNat % 2 ^ 32)) = val.toNat % 2 ^ 32 := by
    show min 9999 (max 1 _) = _
    omega
  have hk : Nat.min 10000 (Nat.max (val.toNat % 2 ^ 32 + 1) (val.toNat / 2 ^ 32)) = val.toNat / 2 ^ 32 := by
    show min 10000 (max _ _) = _
    omega
  simp only [timerPair, hgrace, hkill, hg, hk]

/-! ### Resets and boot (R10, R402) -/

theorem State.rom_of_good {s : State} (h : s.imageOk s.boot.flash = true) : s.rom = s.bringUp s.boot.flash := if_pos h

theorem State.rom_of_bad {s : State} (h : s.imageOk s.boot.flash = false) :
    s.rom = { s with boot := { s.boot with state := 3, window := [] } } := by simp [State.rom, h]

/-- The Sheaf brings up all 18 E-ports (R402). -/
theorem State.port_bringUp_up (s : State) (image : List Byte) {k : Nat} (hk : k < 18) : ((s.bringUp image).port k).up = true := by
  have hport : (s.bringUp image).port k = { Port.reset with up := true } := (Tbl.get_replicate _ _ 18 k).trans (if_pos hk)
  rw [hport]

/-! ### Security, the CXL ports (R50, R405) -/

theorem State.tdi_setTdi (s : State) (vf : Nat) (st : TdiState) : (s.setTdi vf st).tdi vf = st := by
  simp [State.tdi, State.setTdi]

/-- Behind a CXL port that backs no byte no address is backed (R50). -/
theorem State.backed_of_port_empty {s : State} {la : Nat} (hd : Config.dramBytes ≤ la)
    (h : Tbl.get 0 s.cxlBacked (cxlPort la) = 0) : s.backed la = false := by
  simp [State.backed, h, hd]

/-! ### What each event does -/

/-- Each of the four registers is kept in its writable bits: its arm of the write, and no other, has its offset (R4, R397). -/
theorem plainRegisters_keep_writable (s : State) (val : DWord) :
    exec (.registerWrite 0x1000 val) s = .next { s with regs := { s.regs with astbase := val &&& 0x003FFFFFFFFFF000 } } ∧
    exec (.registerWrite 0x1008 val) s = .next { s with regs := { s.regs with invaddr := val &&& 0x0007FFFFFFFF0000 } } ∧
    exec (.registerWrite 0x3010 val) s = .next { s with regs := { s.regs with fabdata := val } } ∧
    exec (.registerWrite 0x3020 val) s = .next { s with regs := { s.regs with qoscfg := val &&& 0x80000000000007FF } } :=
  ⟨rfl, rfl, rfl, rfl⟩

theorem exec_registerWrite_timers {part : Nat} (hp : part < 16) {val : DWord} (s : State) (h1 : 1 ≤ val.toNat % 2 ^ 32)
    (h2 : val.toNat % 2 ^ 32 < val.toNat / 2 ^ 32) (h3 : val.toNat / 2 ^ 32 ≤ 10000) :
    exec (.registerWrite (0x10008 + 4096 * part) val) s = .next (s.setPart part { s.part part with
      grace := val.toNat % 2 ^ 32, kill := val.toNat / 2 ^ 32 }) := by
  rw [exec_registerWrite_block (off := 0x08) hp (by omega)]
  simp only [State.blockWrite, timerPair_of_within h1 h2 h3]

theorem exec_registerWrite_saveBase {part : Nat} (hp : part < 16) (val : DWord) (s : State) :
    exec (.registerWrite (0x10010 + 4096 * part) val) s = .next (s.setPart part { s.part part with saveBase := val, kept := [] }) :=
  exec_registerWrite_block (off := 0x10) hp (by omega) val s

/-- A power-on reset with a good image in flash: state 2, both counters, memory and groups as at reset, all ports up (R10, R402). -/
theorem exec_powerOnReset_of_good {s : State} (h : s.imageOk s.boot.flash = true) :
    exec .powerOnReset s = .next (s.restarted.bringUp s.boot.flash) := by
  rw [exec_powerOnReset, State.rom_of_good (s := s.restarted) h]
  rfl

/-- A power-on reset with a bad image in flash ends in recovery (R402). -/
theorem exec_powerOnReset_of_bad {s : State} (h : s.imageOk s.boot.flash = false) :
    exec .powerOnReset s = .next { s.restarted with boot := { s.restarted.boot with state := 3, window := [] } } := by
  rw [exec_powerOnReset, State.rom_of_bad (s := s.restarted) h]

/-- A host-side reset with a good image in flash keeps the cycle counter and memory (R10, R402). -/
theorem exec_hostSideReset_of_good {s : State} (h : s.imageOk s.boot.flash = true) :
    ∃ t, exec .hostSideReset s = .next t ∧ t.boot.state = 2 ∧ t.cycle = s.cycle ∧ t.mem = s.mem ∧ t.groups = [] := by
  refine ⟨_, congrArg Host.Outcome.next (State.rom_of_good ?_), rfl, rfl, rfl, rfl⟩
  exact h

/-- In recovery wait, a replacement that passes is run, and one that does not ends in state 5 (R402). -/
theorem exec_recov_of_waiting {s : State} (h : s.boot.state = 3) (len : DWord) :
    let image := (List.range len.toNat).map fun k => Tbl.get 0 s.boot.window k
    let s1 := { s with regs := { s.regs with recov := len } }
    exec (.recov len) s = .next (if s.imageOk image then s1.bringUp image else { s1 with boot := { s1.boot with state := 5 } }) :=
  congrArg Host.Outcome.next (if_neg (by simp [h]))

/-- In state 2 a request receives one answer, and a session may change the IDE keys; nothing else changes (R404). -/
theorem exec_spdmRequest_answers_once {s : State} (h : s.boot.state = 2) (req : List Byte) :
    ∃ a k, exec (.spdmRequest req) s = .next { s with boot := { s.boot with answers := s.boot.answers ++ [a], ideKeys := k } } :=
  ⟨_, _, congrArg Host.Outcome.next (if_neg (by simp [h]))⟩

/-- A TDI goes to LOCKED or RUN at once (R405). -/
theorem exec_tdispTransition_at_once (s : State) {vf : Nat} {st : TdiState} (h0 : 0 < vf) (h1 : vf < 256) (h : st = .locked ∨ st = .run) :
    exec (.tdispTransition vf st) s = .next (s.setTdi vf st) := by
  have hrange : (vf == 0 || decide (256 ≤ vf)) = false := by simp; omega
  have hst : (st == .locked || st == .run) = true := by simpa using h
  simp only [exec_tdispTransition, execTdispTransition, hrange, hst, Bool.false_eq_true, if_false, if_true]

/-- A CXL port that fails has no memory behind it (R50); translations are all that goes with it. -/
theorem exec_cxlPortFailure_unbacks (s : State) {port : Nat} (hp : port < 8) :
    ∃ t, exec (.cxlPortFailure port) s = .next t ∧ t = { s with cxlBacked := t.cxlBacked, tlb := t.tlb, walks := t.walks } ∧
      Tbl.get 0 t.cxlBacked port = 0 := by
  rw [exec_cxlPortFailure, execCxlPortFailure, if_neg (by omega)]
  exact ⟨_, rfl, rfl, Tbl.get_set_same 0 s.cxlBacked port 0⟩

/-- A plate sensor lowers a ramp rate above 1, but not below it, and the host receives an event (R329). -/
theorem exec_plateSensorLimit_lowers (s : State) :
    ∃ t, exec .plateSensorLimit s = .next t ∧ t.hostEvents = s.hostEvents ++ [1] ∧
      (1 < s.regs.ramp → 1 ≤ t.regs.ramp ∧ t.regs.ramp < s.regs.ramp) := by
  refine ⟨_, rfl, rfl, fun hr => ?_⟩
  have hlt : Config.rampAfterSensor s.ticks % (s.regs.ramp - 1) < s.regs.ramp - 1 := Nat.mod_lt _ (by omega)
  simp only [if_neg (show ¬ s.regs.ramp ≤ 1 by omega)]
  omega

/-- Settles O60, by what each event does in the case that the statement names: a plain register, a reset or recovery with a good or a bad image, a request, a
transition, a failed port, a plate sensor. -/
theorem deviceEventsTakeEffect : Obligations.DeviceEventsTakeEffect := by
  unfold Obligations.DeviceEventsTakeEffect
  refine ⟨fun s val => ?registers, fun s => ⟨?good, ?bad, exec_hostSideReset_of_good⟩, fun s len h => ?recovery,
    fun s req h => ?request, fun s vf st h0 h1 h => ?transition, fun s port la hp => ?failedPort, exec_plateSensorLimit_lowers⟩
  case registers =>
    obtain ⟨hast, hinv, hfab, hqos⟩ := plainRegisters_keep_writable s val
    exact ⟨hast, hinv, hfab, hqos, fun part hp => ⟨exec_registerWrite_timers hp s, exec_registerWrite_saveBase hp val s⟩⟩
  case good =>
    exact fun h => ⟨_, exec_powerOnReset_of_good h, rfl, rfl, rfl, rfl, fun k hk => State.port_bringUp_up _ _ hk⟩
  case bad =>
    exact fun h => ⟨_, exec_powerOnReset_of_bad h, rfl, rfl⟩
  case recovery =>
    have hrecov := exec_recov_of_waiting h len
    exact ⟨fun hgood => hrecov.trans (congrArg _ (if_pos hgood)), fun hbad => hrecov.trans (congrArg _ (if_neg (Bool.eq_false_iff.mp hbad)))⟩
  case request => exact exec_spdmRequest_answers_once h req
  case transition => exact ⟨_, exec_tdispTransition_at_once s h0 h1 h, State.tdi_setTdi s vf st, rfl⟩
  case failedPort =>
    obtain ⟨t, ht, hframe, hempty⟩ := exec_cxlPortFailure_unbacks s hp
    exact ⟨t, ht, hframe, fun hd hport _ => State.backed_of_port_empty hd (hport ▸ hempty)⟩

end Sys2Proof.Machine
end

section
/-! Settles O51: the heartbeat (R10, R88), the patrol (R139, R141), registers that fold and return (R156, R160), and the host's write. -/

namespace Sys2Proof.Machine

/-! ### The meanings of the events -/

theorem exec_patrolScrub (word errors : Nat) (s : State) : exec (.patrolScrub word errors) s = execPatrolScrub word errors s := rfl
theorem exec_registerFold (n : Nat) (vd : BitVec 6) (s : State) : exec (.registerFold n vd) s = execRegisterFold n vd s := rfl
theorem exec_registerUnspill (n : Nat) (vd : BitVec 6) (s : State) : exec (.registerUnspill n vd) s = execRegisterUnspill n vd s := rfl
theorem exec_hostMemoryAccess (data : Option (List Byte)) (pa n : Nat) (s : State) :
    exec (.hostMemoryAccess data pa n) s = execHostMemoryAccess data pa n s := rfl

/-! ### The resident groups -/

theorem State.mem_resident {s : State} {n : Nat} {g : Group} : (n, g) ∈ s.resident ↔ s.group n = some g := by
  simp only [State.resident, List.mem_filterMap, List.mem_range, Option.map_eq_some_iff, Prod.mk.injEq]
  constructor
  · rintro ⟨_, -, _, hg, rfl, rfl⟩
    exact hg
  · exact fun hg => ⟨n, Tbl.lt_of_get _ hg, g, hg, rfl, rfl⟩

/-- No group is listed twice. -/
theorem State.resident_nodup (s : State) : (s.resident.map Prod.fst).Nodup := by
  rw [State.resident, List.map_filterMap]
  refine List.nodup_range.filterMap fun n k m hn hk => ?_
  simp only [Option.map_map, Option.mem_def, Option.map_eq_some_iff, Function.comp_apply] at hn hk
  obtain ⟨_, -, rfl⟩ := hn
  obtain ⟨_, -, rfl⟩ := hk
  rfl

/-- A resident group, with those before it and those behind it, none of which has its number. -/
theorem State.resident_split {s : State} {n : Nat} {g : Group} (hg : s.group n = some g) :
    ∃ before behind, s.resident = before ++ (n, g) :: behind ∧ n ∉ before.map Prod.fst ∧ n ∉ behind.map Prod.fst := by
  obtain ⟨before, behind, hsplit⟩ := List.append_of_mem (State.mem_resident.mpr hg)
  have hnodup := s.resident_nodup
  rw [hsplit, List.map_append, List.map_cons, List.nodup_middle, List.nodup_cons, List.mem_append, not_or] at hnodup
  exact ⟨before, behind, hsplit, hnodup.1⟩

/-! ### The heartbeat (R10, R88) -/

/-- Waking a group changes no other part of the state. -/
theorem State.wake_groups (s : State) (n : Nat) (slot : SlotId) (words : Nat) :
    s.wake n slot words = { s with groups := (s.wake n slot words).groups } := by
  unfold State.wake
  split <;> rfl

theorem State.group_wake_ne (s : State) {n k : Nat} (slot : SlotId) (words : Nat) (h : k ≠ n) :
    (s.wake n slot words).group k = s.group k := by
  unfold State.wake
  split
  · rfl
  · exact State.group_setGroup_ne s _ h

/-- A group that waits in FENCE.SC is woken behind it (R88). -/
theorem State.fenceTick_waiting (s : State) {n : Nat} {g : Group} {slot : SlotId} (h : g.asleep = some (.fenceSC slot)) :
    s.fenceTick n g = s.wake n slot 1 := by
  simp [State.fenceTick, h]

theorem State.fenceTick_groups (s : State) (n : Nat) (g : Group) :
    s.fenceTick n g = { s with groups := (s.fenceTick n g).groups } := by
  unfold State.fenceTick
  split
  · exact s.wake_groups ..
  · rfl

theorem State.group_fenceTick_ne (s : State) {n k : Nat} (g : Group) (h : k ≠ n) : (s.fenceTick n g).group k = s.group k := by
  unfold State.fenceTick
  split
  · exact s.group_wake_ne _ _ h
  · rfl

/-- The tick as the listed groups see it. -/
def State.fenceTicks (s : State) (l : List (Nat × Group)) : State := l.foldl (fun s e => s.fenceTick e.1 e.2) s

theorem State.fenceTicks_groups (s : State) (l : List (Nat × Group)) :
    s.fenceTicks l = { s with groups := (s.fenceTicks l).groups } := by
  induction l generalizing s with
  | nil => rfl
  | cons e l ih =>
    have hrest : s.fenceTicks (e :: l) = (s.fenceTick e.1 e.2).fenceTicks l := rfl
    rw [hrest, ih, s.fenceTick_groups]

theorem State.group_fenceTicks_of_notMem (s : State) {l : List (Nat × Group)} {k : Nat} (h : k ∉ l.map Prod.fst) :
    (s.fenceTicks l).group k = s.group k := by
  induction l generalizing s with
  | nil => rfl
  | cons e l ih =>
    rw [List.map_cons, List.mem_cons, not_or] at h
    exact (ih (s.fenceTick e.1 e.2) h.2).trans (s.group_fenceTick_ne e.2 h.1)

/-- Of the resident groups one that waits in FENCE.SC is woken by its own turn in the list, since the others leave it alone. -/
theorem State.group_fenceTicks_resident {s : State} {n : Nat} {g : Group} {slot : SlotId} (hg : s.group n = some g)
    (hwait : g.asleep = some (.fenceSC slot)) :
    (s.fenceTicks s.resident).group n =
      some (Group.setSlot { g with asleep := none } slot ((g.slot slot).map fun p => { p with pc := p.pc + 4 })) := by
  obtain ⟨before, behind, hsplit, hbefore, hbehind⟩ := State.resident_split hg
  have hturn : s.fenceTicks s.resident = ((s.fenceTicks before).fenceTick n g).fenceTicks behind := by
    rw [hsplit, State.fenceTicks, List.foldl_append]
    rfl
  have hthen : (s.fenceTicks before).group n = some g := (s.group_fenceTicks_of_notMem hbefore).trans hg
  rw [hturn, State.group_fenceTicks_of_notMem _ hbehind, State.fenceTick_waiting _ hwait, State.wake_group hthen,
    State.group_setGroup_same]
  rfl

/-- The state at a heartbeat, before any group has seen it (R10). -/
def State.atHeartbeat (s : State) : State :=
  { s with cycle := (s.heartbeats + 1) * Config.heartbeatCycles, heartbeats := s.heartbeats + 1 }

theorem exec_heartbeatTick (s : State) : exec .heartbeatTick s = .next (s.atHeartbeat.fenceTicks s.atHeartbeat.resident) := rfl

/-- Both counters reach the next multiple of 1,024 cycles (R10), and each FENCE.SC ends (R88). -/
theorem exec_heartbeatTick_ends_fences (s : State) :
    ∃ t, exec .heartbeatTick s = .next t ∧ t.heartbeats = s.heartbeats + 1 ∧ t.cycle = 1024 * (s.heartbeats + 1) ∧ t.mem = s.mem ∧
      ∀ n g slot, s.group n = some g → g.asleep = some (.fenceSC slot) →
        t.group n = some (Group.setSlot { g with asleep := none } slot ((g.slot slot).map fun p => { p with pc := p.pc + 4 })) := by
  have hframe := s.atHeartbeat.fenceTicks_groups s.atHeartbeat.resident
  refine ⟨_, exec_heartbeatTick s, ?_, ?_, ?_, fun n g slot hg hwait => ?_⟩
  · rw [hframe]
    rfl
  · rw [hframe]
    exact Nat.mul_comm ..
  · rw [hframe]
    rfl
  · exact State.group_fenceTicks_resident (s := s.atHeartbeat) hg hwait

/-! ### The patrol (R139, R141) -/

theorem mem_addNat {l : List Nat} {n x : Nat} : x ∈ addNat l n ↔ x = n ∨ x ∈ l := by
  unfold addNat
  split
  · next h =>
    rw [List.contains_iff_mem] at h
    exact ⟨.inr, fun hx => hx.elim (fun hn => hn ▸ h) id⟩
  · exact List.mem_cons

/-- One wrong bit is corrected, counted for its structure and noted for the driver (R139). -/
theorem exec_patrolScrub_single (s : State) (w : Nat) : exec (.patrolScrub w 1) s = .next (s.corrects (patrolOf w)) := rfl

/-- More wrong bits poison a word of memory (R141). -/
theorem exec_patrolScrub_poisons {s : State} {w k : Nat} (hk : 2 ≤ k) (hw : w < 2 ^ 42) (hb : s.backed (8 * w) = true) :
    exec (.patrolScrub w k) s = .next { s with memPoison := addNat s.memPoison w } := by
  have h0 : (k == 0) = false := beq_false_of_ne (by omega)
  have h1 : (k == 1) = false := beq_false_of_ne (by omega)
  rw [exec_patrolScrub, execPatrolScrub, if_neg (by simp [h0]), if_neg (by simp [h1]), if_neg (by omega), if_pos hb]

/-! ### Rows (R156, R160) -/

/-- A register under pressure folds where the policy and R155 allow it (R156). -/
theorem exec_registerFold_of_foldable {s : State} {n : Nat} {g : Group} {vd : BitVec 6} (hg : s.group n = some g)
    (hpol : g.foldpol ≠ 0) (hfold : g.foldable vd.toNat = true) :
    exec (.registerFold n vd) s = .next (s.setGroup n (g.setVreg vd.toNat { g.vreg vd.toNat with hold := .folded })) := by
  have hguard : (g.foldpol != 0 && g.foldable vd.toNat) = true := by rw [bne_iff_ne.mpr hpol, hfold, Bool.and_self]
  simp only [exec_registerFold, execRegisterFold, hg, if_pos hguard]

/-- A spilled register returns to a row where its group may hold one more (R160). -/
theorem exec_registerUnspill_of_room {s : State} {n : Nat} {g : Group} {vd : BitVec 6} {vals : List Word} {ps : Mask}
    (hg : s.group n = some g) (hspilled : (g.vreg vd.toNat).hold = .spilled vals ps)
    (hroom : (g.setVreg vd.toNat { g.vreg vd.toNat with hold := .rows vals ps }).rowsHeld ≤ s.rowLimit n g) :
    exec (.registerUnspill n vd) s = .next (s.setGroup n (g.setVreg vd.toNat { g.vreg vd.toNat with hold := .rows vals ps })) := by
  simp only [exec_registerUnspill, execRegisterUnspill, hg, hspilled, if_pos hroom]

/-! ### The host's write -/

/-- What a byte reads as after a list of bytes is written: its own of the list in the range, what it was outside. -/
theorem Mem.get_writeBytes {m : Mem} (h : Mem.wf m = true) (a : Nat) (bs : List Byte) (b : Nat) :
    Mem.get (Mem.writeBytes m a bs) b = if a ≤ b ∧ b < a + bs.length then bs.getD (b - a) 0 else Mem.get m b := by
  induction bs generalizing m a with
  | nil => exact (if_neg (by simp)).symm
  | cons x xs ih =>
    simp only [Mem.writeBytes, List.length_cons]
    rw [ih (Mem.wf_set a x h), Mem.get_set h]
    obtain hlt | rfl | hgt := Nat.lt_trichotomy b a
    · rw [if_neg (by omega), if_neg (by omega), if_neg (by omega)]
    · rw [if_neg (by omega), if_pos rfl, if_pos (by omega), Nat.sub_self]
      rfl
    · have hnext : b - a = b - (a + 1) + 1 := by omega
      rw [hnext, List.getD_cons_succ, if_neg (by omega : b ≠ a)]
      exact if_congr (by omega) rfl rfl

/-- A host's write to a backed range stores its bytes, and the marks of the words that it covers whole are gone (R142). -/
theorem exec_hostMemoryAccess_write {s : State} {l : List Byte} {pa : Nat} (hl : l ≠ []) (hfirst : s.backed (paLocal pa) = true)
    (hlast : s.backed (paLocal pa + l.length - 1) = true) (n : Nat) :
    exec (.hostMemoryAccess (some l) pa n) s = .next { s with
      mem := Mem.writeBytes s.mem (paLocal pa) l, memPoison := poisonAfter s.memPoison (paLocal pa) l.length false } := by
  simp [exec_hostMemoryAccess, execHostMemoryAccess, hl, hfirst, hlast]

/-- Settles O51, by what each event does in the case that the statement names. -/
theorem timeAndRegisterEventsComplete : Obligations.TimeAndRegisterEventsComplete := by
  unfold Obligations.TimeAndRegisterEventsComplete
  refine ⟨exec_heartbeatTick_ends_fences, exec_patrolScrub_single, fun s w k hk hw hb => ?poisoned,
    fun s n g vd hg hpol hfold => exec_registerFold_of_foldable hg hpol hfold,
    fun s n g vd vals ps hg hspilled hroom => ?unspilled, fun s l pa n hinv hl hfirst hlast => ?written⟩
  case poisoned => exact ⟨_, exec_patrolScrub_poisons hk hw hb, rfl, fun _ => mem_addNat⟩
  case unspilled => exact exec_registerUnspill_of_room hg hspilled hroom
  case written => exact ⟨_, exec_hostMemoryAccess_write hl hfirst hlast n, rfl, Mem.get_writeBytes hinv _ l⟩

end Sys2Proof.Machine
end

section
/-! Settles O16: what power-on reset leaves, in the state and as the host reads it (R397, R398, R400, R402), and the discovery table (R406). -/

namespace Sys2Proof.Machine

/-! ### What the host reads -/

/-- A read in a partition's block is the block's own (R398). -/
theorem State.barRead_block (s : State) {part off : Nat} (hp : part < 16) (ho : off < 4096) :
    s.barRead (0x10000 + off + 4096 * part) = s.blockRead part off := by
  have hpart : (0x10000 + off + 4096 * part) / 4096 - 16 = part := by omega
  have hoff : (0x10000 + off + 4096 * part) % 4096 = off := by omega
  have hlo : 0x10000 ≤ 0x10000 + off + 4096 * part := by omega
  have hhi : 0x10000 + off + 4096 * part < 0x20000 := by omega
  simp only [State.barRead, hlo, hhi, hpart, hoff, decide_true, Bool.and_self, if_true]

/-- A doubleword of the discovery table reads the same in every state (R406). -/
theorem State.barRead_discovery (s : State) {k : Nat} (hk : k < 8192) : s.barRead (0x30000 + 8 * k) = discoveryWord k := by
  have hblock : ¬ 0x30000 + 8 * k < 0x20000 := by omega
  have hlo : 0x30000 ≤ 0x30000 + 8 * k := by omega
  have hhi : 0x30000 + 8 * k < 0x40000 := by omega
  have hword : (0x30000 + 8 * k - 0x30000) / 8 = k := by omega
  simp only [State.barRead, hblock, hlo, hhi, hword, decide_true, decide_false, Bool.and_false, Bool.and_self,
    Bool.false_eq_true, if_true, if_false]

theorem State.barRead_orphth (s : State) : s.barRead 0x3000 = s.regs.orphth.setWidth 64 := rfl

theorem State.barRead_ports (s : State) :
    s.barRead 0x3018 = BitVec.ofNat 64 (s.portBits Port.up + s.portBits Port.down * 2 ^ 32) := rfl

/-- No bit is set for a property that no E-port has. -/
theorem State.portBits_of_none {s : State} {f : Port → Bool} (h : ∀ k, f (s.port k) = false) : s.portBits f = 0 := by
  simp [State.portBits, h]

/-- Behind its eight entries the discovery table reads zero, so the key there ends it (R406). -/
theorem discoveryWord_behind {k : Nat} (hk : 16 ≤ k) : discoveryWord k = 0 := by
  have hnone : discovery[k / 2]? = none := List.getElem?_eq_none (show 8 ≤ k / 2 by omega)
  simp only [discoveryWord, hnone]

/-! ### The state after reset -/

/-- Every partition stands as at reset (R58, R328, R398). -/
theorem State.part_reset (k : Nat) : State.reset.part k = Part.reset := Tbl.get_nil _ k

/-- Every E-port stands as at reset. -/
theorem State.port_reset (k : Nat) : State.reset.port k = Port.reset := Tbl.get_nil _ k

/-- Every partition's quota of page-table walks reads 8 (R58, R398). -/
theorem State.barRead_partcfg_reset {k : Nat} (hk : k < 16) : State.reset.barRead (0x10000 + 4096 * k) = 0x0008000000000000 := by
  rw [State.barRead_block _ (off := 0) hk (by omega)]
  simp only [State.blockRead, State.part_reset]
  rfl

/-- Every partition's timers read 20 and 200 (R328, R398). -/
theorem State.barRead_timers_reset {k : Nat} (hk : k < 16) : State.reset.barRead (0x10008 + 4096 * k) = 0x000000C800000014 := by
  rw [State.barRead_block _ (off := 8) hk (by omega)]
  simp only [State.blockRead, State.part_reset]
  rfl

/-- No E-port is up, and none has gone down. -/
theorem State.barRead_ports_reset : State.reset.barRead 0x3018 = 0 := by
  have hup : State.reset.portBits Port.up = 0 := State.portBits_of_none fun k => by rw [State.port_reset]; rfl
  have hdown : State.reset.portBits Port.down = 0 := State.portBits_of_none fun k => by rw [State.port_reset]; rfl
  rw [State.barRead_ports, hup, hdown]
  rfl

/-- Settles O16, by the fields of the reset state and by what the host reads of a partition's block, of the ports and of the discovery table. -/
theorem resetState : Obligations.ResetState := by
  unfold Obligations.ResetState
  refine ⟨rfl, rfl, rfl, rfl, rfl, rfl, congrArg Part.cfg (State.part_reset 3), congrArg Part.grace (State.part_reset 3),
    congrArg Part.kill (State.part_reset 3), rfl, State.reset_wf, State.barRead_orphth _, State.barRead_partcfg_reset (k := 3) (by decide),
    State.barRead_timers_reset (k := 3) (by decide), State.barRead_ports_reset, ?firstKey, ?firstValue, ?behind⟩
  case firstKey => exact State.barRead_discovery _ (k := 0) (by decide)
  case firstValue => exact State.barRead_discovery _ (k := 1) (by decide)
  case behind => exact (State.barRead_discovery _ (k := 16) (by decide)).trans (discoveryWord_behind (by decide))

end Sys2Proof.Machine
end

section
/-! Settles O17: every step keeps memory in its canonical form (log entry 1). What an operation of the model answers carries one state or several: `Inv` of an
answer says that the states it carries have the form. Below stands one lemma for each operation that answers a state, in the order of the model: the
operation keeps the form, because the operations that it is made of do, which are the lemmas its proof names. Memory itself is written by
`State.writePA`, `State.putBlob`, `Side.putByte` (a copy's sink), `State.chunkStore` and the host's write alone; a reset of the host side keeps it. -/

namespace Sys2Proof.Machine

/-! ### Answers that carry a state -/

/-- The state that an effect leaves has the form. -/
@[irreducible] def Res.Inv : Res → Prop
  | .ok s | .hold s | .trap _ s | .trapAt _ _ s => s.Inv

/-- The state that a check leaves has the form. -/
@[irreducible] def Chk.Inv {α : Type} : Chk α → Prop
  | .ok _ s | .trap _ s | .wait _ s => s.Inv

/-- The state that the forming of a register leaves has the form. -/
@[irreducible] def Regen.Inv : Regen → Prop
  | .ok s _ | .trap _ s | .wait s _ _ => s.Inv

/-- The state that a word of a slice leaves has the form. -/
@[irreducible] def SliceEff.Inv : SliceEff → Prop
  | .ok s _ | .trap _ s | .wait s _ => s.Inv

/-- The state that a fetch leaves has the form. -/
@[irreducible] def Fetch.Inv : Fetch → Prop
  | .ok _ s | .noExec s | .wait _ s => s.Inv

/-- The state that the fetch of several words leaves has the form. -/
@[irreducible] def FetchAll.Inv : FetchAll → Prop
  | .ok _ s | .noExec s | .wait _ s => s.Inv

/-- The state that the fetch of a chain leaves has the form. -/
@[irreducible] def Members.Inv : Members → Prop
  | .ok _ s | .noExec s | .wait _ s => s.Inv

/-- The state in which a word is known to be a second word has the form. -/
@[irreducible] def Second.Inv : Second → Prop
  | .is _ s | .wait _ s => s.Inv

/-- The state that the checks of a handler leave has the form. -/
@[irreducible] def Handler.Inv : Handler → Prop
  | .enter _ s | .wait _ s => s.Inv
  | .refused => True

/-- The state that the translation of an access's pages leaves has the form. -/
@[irreducible] def Resolved.Inv : Resolved → Prop
  | .ok s _ | .refused _ s | .poison _ s | .wait s _ => s.Inv

/-- The state of a production that goes on has the form. -/
@[irreducible] def Cp.Inv {α : Type} : Cp α → Prop
  | .ok _ w => w.s.Inv
  | _ => True

/-- The state that an operation answers, where it answers one, has the form. -/
@[irreducible] def OptInv : Option State → Prop
  | some s => s.Inv
  | none => True

/-- The next state, where there is one, has the form. -/
@[irreducible] def OutcomeInv : Host.Outcome State Fault Refusal → Prop
  | .next s => s.Inv
  | _ => True

theorem Res.inv_ok {s : State} : (Res.ok s).Inv ↔ s.Inv := by simp [Res.Inv]
theorem Res.inv_hold {s : State} : (Res.hold s).Inv ↔ s.Inv := by simp [Res.Inv]
theorem Res.inv_trap {t : Trap} {s : State} : (Res.trap t s).Inv ↔ s.Inv := by simp [Res.Inv]
theorem Chk.inv_ok {α : Type} {a : α} {s : State} : (Chk.ok a s).Inv ↔ s.Inv := by simp [Chk.Inv]
theorem Chk.inv_trap {α : Type} {t : Trap} {s : State} : (Chk.trap t s : Chk α).Inv ↔ s.Inv := by simp [Chk.Inv]
theorem Chk.inv_wait {α : Type} {w : Pending} {s : State} : (Chk.wait w s : Chk α).Inv ↔ s.Inv := by simp [Chk.Inv]
theorem Regen.inv_ok {s : State} {g : Group} : (Regen.ok s g).Inv ↔ s.Inv := by simp [Regen.Inv]
theorem Cp.inv_ok {α : Type} {a : α} {w : Work} : (Cp.ok a w).Inv ↔ w.s.Inv := by simp [Cp.Inv]
theorem Cp.inv_fail {α : Type} {reason : Nat} : (Cp.fail reason : Cp α).Inv := by simp [Cp.Inv]
theorem optInv_some {s : State} : OptInv (some s) ↔ s.Inv := by simp [OptInv]
theorem optInv_none : OptInv none := by simp [OptInv]
theorem outcomeInv_next {s : State} : OutcomeInv (.next s) ↔ s.Inv := by simp [OutcomeInv]
theorem outcomeInv_fault {r : Fault} : OutcomeInv (.fault r) := by simp [OutcomeInv]

theorem Res.inv_ite {p : Prop} [Decidable p] {a b : Res} (ha : a.Inv) (hb : b.Inv) : (if p then a else b).Inv := by
  split
  · exact ha
  · exact hb

theorem optInv_getD {o : Option State} {s : State} (ho : OptInv o) (h : s.Inv) : (o.getD s).Inv := by
  cases o with
  | none => exact h
  | some t => exact optInv_some.mp ho

theorem optInv_map {α : Type} {o : Option α} {f : α → State} (hf : ∀ a, (f a).Inv) : OptInv (o.map f) := by
  cases o with
  | none => exact optInv_none
  | some a => exact optInv_some.mpr (hf a)

theorem optInv_bind {α : Type} {o : Option α} {f : α → Option State} (hf : ∀ a, OptInv (f a)) : OptInv (o.bind f) := by
  cases o with
  | none => exact optInv_none
  | some a => exact hf a

theorem optInv_bind_state {o : Option State} {f : State → Option State} (ho : OptInv o) (hf : ∀ s, s.Inv → OptInv (f s)) :
    OptInv (o.bind f) := by
  cases o with
  | none => exact optInv_none
  | some s => exact hf s (optInv_some.mp ho)

theorem optInv_findSome {α : Type} {f : α → Option State} (hf : ∀ a, OptInv (f a)) (l : List α) : OptInv (l.findSome? f) := by
  induction l with
  | nil => exact optInv_none
  | cons a l ih => grind [OptInv]

/-- A fold keeps the form where each of its steps does. -/
theorem foldl_inv {α : Type} {f : State → α → State} (hf : ∀ s a, s.Inv → (f s a).Inv) {l : List α} {s : State} (h : s.Inv) :
    (l.foldl f s).Inv := by
  induction l generalizing s with
  | nil => exact h
  | cons a l ih => exact ih (hf s a h)

/-- Listed bytes written one after another keep the canonical form. -/
theorem Mem.wf_foldl_set {m : Mem} (l : List Host.Cell) (a : Nat) (h : Mem.wf m = true) :
    Mem.wf (l.foldl (fun m c => Mem.set m (a + c.1) c.2) m) = true := by
  induction l generalizing m with
  | nil => exact h
  | cons c l ih => exact ih (Mem.wf_set _ _ h)

/-! ### Reset -/

theorem State.reset_inv : State.reset.Inv := State.reset_wf

/-! ### Memory and translation (R43 to R59) -/

theorem State.writePA_inv {s : State} {pa n v : Nat} {bad : Bool} (h : s.Inv) : (s.writePA pa n v bad).Inv := State.writePA_wf pa n v bad h

theorem State.writeMarked_inv {s : State} {pa n v : Nat} {marks : Marks} (h : s.Inv) : (s.writeMarked pa n v marks).Inv := by
  unfold State.writeMarked
  grind [!State.writePA_inv]

theorem State.tlbInsert_inv {s : State} {t : TlbEntry} {va : Nat} (h : s.Inv) : (s.tlbInsert t va).Inv := h

theorem State.walksInsert_inv {s : State} {ws : List WalkEntry} (h : s.Inv) : (s.walksInsert ws).Inv := by
  unfold State.walksInsert
  grind [foldl_inv]

theorem State.leafFill_inv {s : State} {core asid va pe : Nat} {write big : Bool} {e : DWord} (h : s.Inv) :
    (s.leafFill core asid va write pe e big).2.Inv := by
  unfold State.leafFill
  grind [!State.walksInsert_inv, !State.writePA_inv, !State.tlbInsert_inv]

theorem State.walkFill_inv {s : State} {core asid va : Nat} {write : Bool} (h : s.Inv) : (s.walkFill core asid va write).2.Inv := by
  unfold State.walkFill
  grind [!State.leafFill_inv]

theorem State.translate_inv {s : State} {core asid va : Nat} {write : Bool} (h : s.Inv) : (s.translate core asid va write).2.Inv := by
  unfold State.translate
  grind [!State.tlbInsert_inv, !State.walkFill_inv]

theorem State.translateHub_inv {s : State} {asid va : Nat} {write : Bool} (h : s.Inv) : (s.translateHub asid va write).2.Inv := by
  unfold State.translateHub
  grind [!State.writePA_inv]

theorem State.invalidate_inv {s : State} {asid page n : Nat} (h : s.Inv) : (s.invalidate asid page n).Inv := h

theorem State.postFault_inv {s : State} {asid va : Nat} {kind : AccKind} {malformed : Bool} (h : s.Inv) :
    (s.postFault asid va kind malformed).Inv := by
  unfold State.postFault
  split <;> exact h

theorem State.readVA_inv {s : State} {asid va n : Nat} (h : s.Inv) : (s.readVA asid va n).2.Inv := by
  unfold State.readVA
  grind [!State.translateHub_inv]

theorem State.writeVA_inv {s : State} {asid va n v : Nat} (h : s.Inv) : OptInv (s.writeVA asid va n v) := by
  unfold State.writeVA
  grind [!State.translateHub_inv, !State.writePA_inv, OptInv]

/-! ### Groups, rows, barriers, retirement, traps and issue -/

theorem State.setGroup_inv {s : State} {n : Nat} {g : Group} (h : s.Inv) : (s.setGroup n g).Inv := h

theorem State.setTeam_inv {s : State} {n : Nat} {t : Team} (h : s.Inv) : (s.setTeam n t).Inv := h

theorem State.setLaunch_inv {s : State} {n : Nat} {l : Launch} (h : s.Inv) : (s.setLaunch n l).Inv := h

theorem State.setPart_inv {s : State} {n : Nat} {p : Part} (h : s.Inv) : (s.setPart n p).Inv := h

theorem State.foldFor_inv {s : State} {n k r : Nat} (h : s.Inv) : (s.foldFor n k r).Inv := by
  unfold State.foldFor
  grind [!State.setGroup_inv]

theorem State.spillFor_inv {s : State} {n r : Nat} (h : s.Inv) : (s.spillFor n r).Inv := by
  unfold State.spillFor
  grind [!State.setGroup_inv]

theorem State.fitRows_inv {s : State} {n : Nat} {had : BitVec 64} (h : s.Inv) : (s.fitRows n had).Inv := by
  unfold State.fitRows
  grind [foldl_inv, !State.foldFor_inv, !State.spillFor_inv]

theorem State.putEntries_inv {s : State} {asid acc : Nat} {l : List DivEntry} (h : s.Inv) : (s.putEntries asid acc l).Inv :=
  foldl_inv (fun _ _ hs => optInv_getD (State.writeVA_inv hs) hs) h

theorem State.respill_inv {s : State} {n : Nat} (h : s.Inv) : (s.respill n).Inv := by
  unfold State.respill
  grind [!State.putEntries_inv, !State.setGroup_inv]

theorem State.fitAreas_inv {s : State} {n : Nat} {had : BitVec 64} (h : s.Inv) : (s.fitAreas n had).Inv := State.respill_inv (State.fitRows_inv h)

theorem State.barrierTest_inv {s : State} {n bar : Nat} (h : s.Inv) : (s.barrierTest n bar).Inv := by
  unfold State.barrierTest
  grind [foldl_inv, !State.setGroup_inv]

theorem State.barriersTest_inv {s : State} {n : Nat} (h : s.Inv) : (s.barriersTest n).Inv := by
  unfold State.barriersTest
  grind [!State.barrierTest_inv]

theorem State.endSafe_inv {s : State} {g : Group} (h : s.Inv) : (s.endSafe g).Inv := by
  unfold State.endSafe
  grind [!State.setTeam_inv]

theorem State.teamRetire_inv {s : State} {n : Nat} (h : s.Inv) : (s.teamRetire n).Inv := by
  unfold State.teamRetire
  grind [!State.setTeam_inv, !State.setLaunch_inv]

theorem State.retire_inv {s : State} {n : Nat} (h : s.Inv) : (s.retire n).Inv := by
  unfold State.retire
  grind [!State.setLaunch_inv, !State.teamRetire_inv, !State.barriersTest_inv]

theorem State.setLockWord_inv {s : State} {pa k v : Nat} (h : s.Inv) : (s.setLockWord pa k v).Inv := State.writePA_inv h

theorem State.purgeBlock_inv {s : State} {key pa : Nat} (h : s.Inv) : (s.purgeBlock key pa).Inv := by
  unfold State.purgeBlock
  grind [foldl_inv, !State.setLockWord_inv]

theorem State.purge_inv {s : State} {key : DWord} (h : s.Inv) : (s.purge key).Inv := by
  unfold State.purge
  grind [foldl_inv, !State.purgeBlock_inv]

theorem State.endGroup_inv {s : State} {n reason : Nat} (h : s.Inv) : (s.endGroup n reason).Inv := by
  unfold State.endGroup
  grind [!State.setLaunch_inv, !State.retire_inv, !State.purge_inv]

theorem State.doubleFault_inv {s : State} {n : Nat} {t1 t2 : TrapReq} (h : s.Inv) : (s.doubleFault n t1 t2).Inv := State.endGroup_inv h

theorem State.handlerOf_inv {s : State} {g : Group} (h : s.Inv) : (s.handlerOf g).Inv := by
  unfold State.handlerOf
  grind [!State.translate_inv, !State.postFault_inv, Handler.Inv]

theorem State.takeTrap_inv {s : State} {n : Nat} {slot : SlotId} {t : TrapReq} (h : s.Inv) : (s.takeTrap n slot t).Inv := by
  unfold State.takeTrap
  grind [!State.doubleFault_inv, !State.handlerOf_inv, !State.setGroup_inv, Handler.Inv]

theorem Ctx.setPath_inv {c : Ctx} {s : State} {f : Path → Path} (h : s.Inv) : (c.setPath s f).Inv := by
  unfold Ctx.setPath
  grind [!State.setGroup_inv]

theorem Ctx.setG_inv {c : Ctx} {s : State} {f : Group → Group} (h : s.Inv) : (c.setG s f).Inv := by
  unfold Ctx.setG
  grind [!State.setGroup_inv]

theorem Ctx.advance_inv {c : Ctx} {i : Instr} {s : State} (h : s.Inv) : (c.advance i s).Inv := Ctx.setPath_inv h

theorem Ctx.done_inv {c : Ctx} {i : Instr} {s : State} (h : s.Inv) : (c.done i s).Inv := Res.inv_ok.mpr (Ctx.advance_inv h)

theorem State.giveRecipe_inv {s : State} {n : Nat} {r : SliceRun} (h : s.Inv) : (s.giveRecipe n r).Inv := by
  unfold State.giveRecipe
  grind [!State.setGroup_inv]

theorem Ctx.sliceStep_inv {c : Ctx} {i : Instr} {s : State} (h : s.Inv) : (c.sliceStep i s).Inv := by
  unfold Ctx.sliceStep
  grind [!Ctx.setPath_inv, !State.giveRecipe_inv]

theorem Ctx.huskStep_inv {c : Ctx} {s : State} (h : s.Inv) : (c.huskStep s).Inv := by
  unfold Ctx.huskStep
  grind [!State.setGroup_inv]

theorem issue_inv {i : Instr} {s : State} {body : Ctx → Res} (h : s.Inv) (h₁ : ∀ c, c.s.Inv → (body c).Inv) : OutcomeInv (issue i s body) := by
  unfold issue
  split
  · simp [OutcomeInv]
  · next g _ =>
    split
    · simp [OutcomeInv]
    · next p _ =>
      have hbody := h₁ ⟨s, s.cur.1, s.cur.2, g, p⟩ h
      grind [!State.takeTrap_inv, !State.fitAreas_inv, !Ctx.sliceStep_inv, !Ctx.huskStep_inv, Res.Inv, OutcomeInv]

/-! ### Sending over the fabric (R117 to R126) -/

theorem State.setPort_inv {s : State} {n : Nat} {p : Port} (h : s.Inv) : (s.setPort n p).Inv := h

theorem State.enqueueAs_inv {s : State} {port type : Nat} {f : Flit} {own : Bool} (h : s.Inv) : (s.enqueueAs port type f own).Inv := h

theorem State.enqueue_inv {s : State} {port type : Nat} {f : Flit} (h : s.Inv) : (s.enqueue port type f).Inv := h

theorem State.freshTag_inv {s : State} (h : s.Inv) : (s.freshTag).2.Inv := h

theorem State.noteWrite_inv {s : State} {part dst : Nat} {write : Bool} (h : s.Inv) : (s.noteWrite part dst write).Inv := by
  unfold State.noteWrite
  split <;> exact h

/-! ### Accesses of instructions (R75, R77, R126) -/

theorem State.translateAll_inv {s : State} {core asid : Nat} {write : Bool} {l : List Nat} (h : s.Inv) :
    (s.translateAll core asid write l).1.Inv := by
  fun_induction State.translateAll s core asid write l <;> grind [!State.translate_inv]

theorem State.resolve_inv {s : State} {core asid : Nat} {need : Need} {accs : List LaneAcc} (h : s.Inv) : (s.resolve core asid need accs).Inv := by
  unfold State.resolve
  grind [foldl_inv, !State.translateAll_inv, !State.postFault_inv, Resolved.Inv]

theorem State.performAt_inv {s : State} {o : MemOp} {a : LaneAcc} {pa : Nat} (h : s.Inv) : (s.performAt o a pa).1.Inv := by
  unfold State.performAt
  grind [!State.writeMarked_inv, !State.writePA_inv]

theorem State.l1Fill_inv {s : State} {core pa : Nat} (h : s.Inv) : (s.l1Fill core pa).Inv := h

theorem State.l1Drop_inv {s : State} {core pa n : Nat} (h : s.Inv) : (s.l1Drop core pa n).Inv := h

theorem State.l1Forget_inv {s : State} {pa n : Nat} (h : s.Inv) : (s.l1Forget pa n).Inv := h

theorem State.l1Empty_inv {s : State} {core : Nat} (h : s.Inv) : (s.l1Empty core).Inv := h

theorem State.l1Load_inv {s : State} {g : Group} {o : MemOp} {a : LaneAcc} {pa : Nat} (h : s.Inv) : (s.l1Load g o a pa).1.Inv := by
  unfold State.l1Load
  grind [!State.performAt_inv, !State.l1Fill_inv]

theorem State.performFor_inv {s : State} {n pa : Nat} {plain : Bool} {o : MemOp} {a : LaneAcc} (h : s.Inv) : (s.performFor n plain o a pa).1.Inv := by
  unfold State.performFor
  grind [!State.performAt_inv, !State.l1Load_inv, !State.l1Drop_inv]

theorem State.performList_inv {s : State} {n : Nat} {plain : Bool} {o : MemOp} {l : List (LaneAcc × Nat)} (h : s.Inv) :
    (s.performList n plain o l).1.Inv := by
  fun_induction State.performList s n plain o l <;> grind [!State.performFor_inv]

theorem State.requestLanes_inv {s : State} {n part order dst : Nat} {o : MemOp} {accs : List (LaneAcc × Nat)} (h : s.Inv) :
    (s.requestLanes n part o order dst accs).2.Inv := by
  unfold State.requestLanes
  grind [!State.freshTag_inv, !State.enqueue_inv, !State.noteWrite_inv]

theorem State.requestAll_inv {s : State} {n part order : Nat} {o : MemOp} {l : List (List (LaneAcc × Nat))} (h : s.Inv) :
    (s.requestAll n part o order l).2.2.Inv := by
  fun_induction State.requestAll s n part o order l <;> grind [!State.requestLanes_inv]

theorem State.perform_inv {s : State} {n seq : Nat} {i : Instr} {pc : DWord} {mask : Mask} {acq : Bool} {o : MemOp} {acc : List (LaneAcc × Nat)}
    (h : s.Inv) : (s.perform n i pc mask acq seq o acc).1.Inv := by
  unfold State.perform
  grind [!State.performList_inv, !State.setGroup_inv, !State.requestAll_inv]

/-! ### Operands formed, registers written (R147, R157 to R162) -/

theorem State.sliceEff_inv {s : State} {i : Instr} {g : Group} {act : Mask} (h : s.Inv) : (s.sliceEff i g act).Inv := by
  unfold State.sliceEff
  grind [!State.resolve_inv, Resolved.Inv, SliceEff.Inv]

theorem State.regenRun_inv {s : State} {m : Mask} {r k : Nat} {l : List Word} {g : Group} (h : s.Inv) : (s.regenRun m r k l g).Inv := by
  fun_induction State.regenRun s m r k l g <;> grind [!State.sliceEff_inv, SliceEff.Inv, Regen.Inv]

theorem State.formReg_inv {s : State} {g : Group} {r : Nat} (h : s.Inv) : (s.formReg g r).Inv := by
  unfold State.formReg
  grind [!State.regenRun_inv, Regen.Inv]

theorem State.formAll_inv {s : State} {g : Group} {l : List Nat} (h : s.Inv) : (s.formAll g l).Inv := by
  fun_induction State.formAll s g l <;> grind [!State.formReg_inv, Regen.Inv]

theorem State.materialize_inv {s : State} {g : Group} {r : Nat} (h : s.Inv) : (s.materialize g r).Inv := by
  unfold State.materialize
  grind [!State.formReg_inv, Regen.Inv]

theorem State.materializeAll_inv {s : State} {g : Group} {l : List Nat} (h : s.Inv) : (s.materializeAll g l).Inv := by
  fun_induction State.materializeAll s g l <;> grind [!State.materialize_inv, Regen.Inv]

theorem State.prepareWrite_inv {s : State} {g : Group} {f : Foot} {act : Mask} {compress : Bool} (h : s.Inv) :
    (s.prepareWrite g f act compress).Inv := by
  unfold State.prepareWrite
  grind [!State.materializeAll_inv, Regen.Inv]

theorem State.count_inv {s : State} {g : Group} {cs : List Nat} (h : s.Inv) : (s.count g cs).Inv := by
  unfold State.count
  grind [!State.setTeam_inv]

theorem State.writeRegs_inv {s : State} {n : Nat} {act : Mask} {full : Bool} {ws : List Write} (h : s.Inv) : (s.writeRegs n act full ws).Inv := by
  unfold State.writeRegs
  grind [!State.prepareWrite_inv, !State.setGroup_inv, Regen.Inv]

theorem Ctx.log_inv {c : Ctx} {i : Instr} {s : State} {accs : List LaneAcc} {pages : List Nat} {kind : LogKind} {acq : Bool} (h : s.Inv) :
    (c.log i s accs pages kind acq).Inv := Ctx.setG_inv h

theorem Ctx.logWait_inv {c : Ctx} {i : Instr} {s : State} {accs : List LaneAcc} {pages : List Nat} {kind : LogKind} {acq : Bool} (h : c.s.Inv)
    (h₁ : s.Inv) : (c.logWait i s accs pages kind acq).Inv := by
  unfold Ctx.logWait
  grind [!Ctx.log_inv, Res.Inv]

theorem Ctx.logHold_inv {c : Ctx} {i : Instr} {s : State} {va : Nat} {kind : LogKind} {acq : Bool} (h : c.s.Inv) (h₁ : s.Inv) :
    (c.logHold i s va kind acq).Inv := by
  unfold Ctx.logHold
  grind [!Ctx.logWait_inv]

theorem State.sendRead_inv {s : State} {part n : Nat} {pas : List Nat} {what : RemoteFor} (h : s.Inv) : (s.sendRead part n pas what).2.Inv := by
  unfold State.sendRead
  grind [!State.freshTag_inv, !State.enqueue_inv]

theorem State.sendReads_inv {s : State} {g part n : Nat} {keep : Bool} {l : List (List (Nat × Nat))} (h : s.Inv) :
    (s.sendReads g part n keep l).2.Inv := by
  fun_induction State.sendReads s g part n keep l <;> grind [!State.sendRead_inv]

theorem State.pendFor_inv {s : State} {n : Nat} {w : Pending} (h : s.Inv) : (s.pendFor n w).Inv := by
  unfold State.pendFor
  grind [!State.sendReads_inv]

theorem Ctx.unreached_inv {c : Ctx} {s : State} {va : Nat} (h : s.Inv) : (c.unreached s va).Inv := Res.inv_hold.mpr (Ctx.setG_inv h)

theorem Ctx.askRemote_inv {c : Ctx} {s : State} {owner n : Nat} {accs : List (LaneAcc × Nat)} {keep : Bool} (h : s.Inv) :
    (c.askRemote s owner n accs keep).Inv := by
  unfold Ctx.askRemote
  grind [!Ctx.unreached_inv, !State.sendReads_inv, !Ctx.setPath_inv, Res.Inv]

theorem Ctx.askWord_inv {c : Ctx} {s : State} {va pa : Nat} (h : s.Inv) : (c.askWord s va pa).Inv := by
  unfold Ctx.askWord
  grind [!State.sendRead_inv, !Ctx.unreached_inv, !Ctx.setPath_inv, Res.Inv]

theorem Ctx.pend_inv {c : Ctx} {i : Instr} {s : State} {w : Pending} {kind : LogKind} (h : c.s.Inv) (h₁ : s.Inv) : (c.pend i s w kind).Inv := by
  unfold Ctx.pend
  grind [!Ctx.logWait_inv, !Ctx.askRemote_inv, !Ctx.setPath_inv, !Ctx.askWord_inv, Res.Inv]

theorem Ctx.waitRegen_inv {c : Ctx} {i : Instr} {s : State} {w : Pending} {r : Nat} (h : c.s.Inv) (h₁ : s.Inv) : (c.waitRegen i s w r).Inv := by
  unfold Ctx.waitRegen
  grind [!Ctx.pend_inv]

theorem Ctx.withForm_inv {c : Ctx} {i : Instr} {body : State → Group → Res} (h : c.s.Inv) (h₁ : ∀ s g, s.Inv → (body s g).Inv) :
    (c.withForm i body).Inv := by
  unfold Ctx.withForm
  grind [!State.formAll_inv, !Ctx.waitRegen_inv, Regen.Inv, Res.Inv]

theorem Ctx.commit_inv {c : Ctx} {i : Instr} {s : State} {e : Eff} (h : c.s.Inv) (h₁ : s.Inv) : (c.commit i s e).Inv := by
  unfold Ctx.commit
  grind [!State.writeRegs_inv, !Ctx.done_inv, !State.count_inv, !Ctx.waitRegen_inv, Regen.Inv, Res.Inv]

theorem Ctx.deferEff_inv {c : Ctx} {i : Instr} {s : State} {w : Pending} {r : Nat} {eff : Group → Mask → Except Trap Eff} (h : c.s.Inv)
    (h₁ : s.Inv) : (c.deferEff i s w r eff).Inv := by
  unfold Ctx.deferEff
  grind [!Ctx.waitRegen_inv, !Ctx.done_inv, !Ctx.log_inv, Res.Inv]

theorem Ctx.runEff_inv {c : Ctx} {i : Instr} {eff : Group → Mask → Except Trap Eff} (h : c.s.Inv) : (c.runEff i eff).Inv := by
  unfold Ctx.runEff
  grind [!State.formAll_inv, !Ctx.deferEff_inv, !State.writeRegs_inv, !Ctx.done_inv, !State.count_inv, Regen.Inv, Res.Inv]

theorem State.performEff_inv {s : State} {n : Nat} {e : LogEntry} {r : BitVec 6} (h : s.Inv) : (s.performEff n e r).Inv := by
  unfold State.performEff
  split
  · grind [Regen.Inv]
  · next g _ =>
    have hm := State.materialize_inv (g := g) (r := r.toNat) h
    split
    · next s1 g1 heq =>
      rw [heq, Regen.inv_ok] at hm
      have hf := State.formAll_inv (g := g1) (l := vList (reads e.instr).v) (State.setGroup_inv (n := n) (g := g1) hm)
      split
      · grind [!State.writeRegs_inv, !State.count_inv, Regen.Inv]
      · exact hf
    · exact hm

/-! ### Fetch (R15, R81) -/

theorem State.cache_inv {s : State} {core asid va : Nat} {w : Word} (h : s.Inv) : (s.cache core asid va w).Inv := h

theorem State.fetchWord_inv {s : State} {g : Group} {va : Nat} (h : s.Inv) : (s.fetchWord g va).Inv := by
  unfold State.fetchWord
  grind [!State.translate_inv, !State.cache_inv, !State.postFault_inv, Fetch.Inv]

theorem Ctx.buffer_inv {c : Ctx} {va : Nat} {w : Word} {s : State} (h : s.Inv) : (c.buffer va w s).Inv := by
  unfold Ctx.buffer
  grind [!Ctx.setPath_inv]

theorem Ctx.fetchWord_inv {c : Ctx} {s : State} {va : Nat} (h : s.Inv) : (c.fetchWord s va).Inv := by
  unfold Ctx.fetchWord
  grind [!State.fetchWord_inv, !Ctx.buffer_inv, Fetch.Inv]

theorem Ctx.anyWord_inv {c : Ctx} {s : State} {va : Nat} (h : s.Inv) : (c.anyWord s va).Inv := by
  unfold Ctx.anyWord
  grind [!Ctx.fetchWord_inv, Fetch.Inv]

theorem Ctx.fetchWords_inv {c : Ctx} {k m : Nat} {s : State} (h : s.Inv) : (c.fetchWords k m s).Inv := by
  fun_induction Ctx.fetchWords c k m s <;> grind [!Ctx.fetchWord_inv, Fetch.Inv, FetchAll.Inv]

/-! ### Checks, the stack window, targets (R284 to R289) -/

theorem Chk.bind_inv {α β : Type} {x : Chk α} {f : α → State → Chk β} (h : x.Inv) (h₁ : ∀ a s, s.Inv → (f a s).Inv) : (x.bind f).Inv := by
  unfold Chk.bind
  grind [Chk.Inv]

theorem Chk.each_inv {α β : Type} {f : α → State → Chk β} {l : List α} {s : State} (h : ∀ a s, s.Inv → (f a s).Inv) (h₁ : s.Inv) :
    (Chk.each f l s).Inv := by
  induction l generalizing s with
  | nil => exact Chk.inv_ok.mpr h₁
  | cons a l ih => exact Chk.bind_inv (h a s h₁) fun b s1 hs1 => Chk.bind_inv (ih hs1) fun bs s2 hs2 => Chk.inv_ok.mpr hs2

theorem Ctx.unheard_inv {c : Ctx} {s : State} (h : s.Inv) : (c.unheard s).Inv := Ctx.setG_inv h

theorem Chk.res_inv {α : Type} {c : Ctx} {i : Instr} {x : Chk α} {f : α → State → Res} (h : c.s.Inv) (h₁ : x.Inv)
    (h₂ : ∀ a s, s.Inv → (f a s).Inv) : (x.res c i f).Inv := by
  cases x with
  | ok a s => exact h₂ a _ (Ctx.unheard_inv (Chk.inv_ok.mp h₁))
  | trap t s => exact Res.inv_trap.mpr (Chk.inv_trap.mp h₁)
  | wait w s => exact Ctx.pend_inv h (Chk.inv_wait.mp h₁)

theorem Chk.test_inv {ok : Bool} {t : Trap} {s : State} (h : s.Inv) : (Chk.test ok t s).Inv := by
  unfold Chk.test
  grind [Chk.Inv]

theorem State.reach_inv {s : State} {g : Group} {need : Need} {accs : List LaneAcc} (h : s.Inv) : (s.reach g need accs).Inv := by
  unfold State.reach
  grind [!State.resolve_inv, Resolved.Inv, Chk.Inv]

theorem State.peeks_inv {s : State} {g : Group} {n : Nat} {accs : List LaneAcc} (h : s.Inv) : (s.peeks g n accs).Inv := by
  unfold State.peeks
  grind [!Chk.bind_inv, !State.reach_inv, Chk.Inv]

theorem State.peek_inv {s : State} {g : Group} {lane ea n : Nat} (h : s.Inv) : (s.peek g lane ea n).Inv := by
  unfold State.peek
  grind [!Chk.bind_inv, !State.peeks_inv, Chk.Inv]

theorem State.stackAligned_inv {s : State} {g : Group} {lane o : Nat} (h : s.Inv) : (s.stackAligned g lane o).Inv := Chk.test_inv h

theorem State.readFrame_inv {s : State} {g : Group} {lane o end_ : Nat} (h : s.Inv) : (s.readFrame g lane o end_).Inv := by
  unfold State.readFrame
  grind [!Chk.bind_inv, !Chk.test_inv, !State.stackAligned_inv, !State.peek_inv, Chk.Inv]

theorem State.writeFrames_inv {s : State} {g : Group} {hs_ : List (Nat × Nat × Frame)} (h : s.Inv) : (s.writeFrames g hs_).Inv := by
  unfold State.writeFrames
  grind [!State.reach_inv, Chk.Inv]

theorem Ctx.stores_inv {c : Ctx} {s : State} {n : Nat} {acc : List (LaneAcc × Nat)} (h : s.Inv) : (c.stores s n acc).Inv := State.perform_inv h

theorem Ctx.mayStore_inv {c : Ctx} {s : State} {acc : List (LaneAcc × Nat)} {k : Res} (h : s.Inv) (h₁ : k.Inv) : (c.mayStore s acc k).Inv := by
  unfold Ctx.mayStore
  grind [!Ctx.unreached_inv, Res.Inv]

theorem State.padCheck_inv {s : State} {g : Group} {tag : BitVec 8} {t : Nat × DWord} (h : s.Inv) : (s.padCheck g tag t).Inv := by
  unfold State.padCheck
  grind [!State.fetchWord_inv, !Chk.test_inv, Fetch.Inv, Chk.Inv]

theorem State.checkTargets_inv {s : State} {g : Group} {ts : List (Nat × DWord)} {pad : Option (BitVec 8)} (h : s.Inv) :
    (s.checkTargets g ts pad).Inv := by
  unfold State.checkTargets
  grind [!Chk.bind_inv, !Chk.each_inv, !State.padCheck_inv, Chk.Inv]

theorem Ctx.writeThen_inv {c : Ctx} {i : Instr} {s : State} {act : Mask} {ws : List Write} {k : State → Res} (h : c.s.Inv) (h₁ : s.Inv)
    (h₂ : ∀ s, s.Inv → (k s).Inv) : (c.writeThen i s act ws k).Inv := by
  unfold Ctx.writeThen
  grind [!State.writeRegs_inv, !Ctx.waitRegen_inv, Regen.Inv, Res.Inv]

/-! ### Control flow (R287 to R303) -/

theorem State.endLanes_inv {s : State} {n : Nat} {slot : SlotId} {lanes : Mask} (h : s.Inv) : (s.endLanes n slot lanes).Inv := by
  unfold State.endLanes
  grind [!State.setGroup_inv, !State.endGroup_inv, !State.retire_inv, !State.purge_inv, !State.barriersTest_inv]

theorem Ctx.endLanes_inv {c : Ctx} {s : State} {lanes : Mask} {k : State → Res} (h : s.Inv) (h₁ : ∀ s, s.Inv → (k s).Inv) :
    (c.endLanes s lanes k).Inv := by
  unfold Ctx.endLanes
  grind [!State.endLanes_inv, Res.Inv]

theorem execExit_inv {hd : Hdr} {s : State} (h : s.Inv) : OutcomeInv (execExit hd s) := by
  refine issue_inv h fun c hc => ?_
  have hgo := State.endLanes_inv (n := c.n) (slot := c.slot) (lanes := c.act) (Ctx.advance_inv (c := c) (i := .exit hd) hc)
  grind [Res.Inv]

theorem Ctx.goto_inv {c : Ctx} {s : State} {pc : DWord} (h : s.Inv) : (c.goto s pc).Inv := Ctx.setPath_inv h

theorem execBra_inv {hd : Hdr} {p : BitVec 3} {inv : Bool} {off : BitVec 18} {rpo : BitVec 24} {s : State} (h : s.Inv) :
    OutcomeInv (execBra hd p inv off rpo s) := by
  unfold execBra
  refine issue_inv h fun c hc => ?_
  have ht := fun ts => State.checkTargets_inv (g := c.g) (ts := ts) (pad := none) hc
  grind [!Ctx.goto_inv, !Ctx.setG_inv, Chk.Inv, Res.Inv]

theorem execJmp_inv {hd : Hdr} {off : BitVec 22} {s : State} (h : s.Inv) : OutcomeInv (execJmp hd off s) := by
  unfold execJmp
  refine issue_inv h fun c hc => ?_
  grind [!Chk.res_inv, !State.checkTargets_inv, !Ctx.goto_inv, Res.Inv]

theorem State.callCheck_inv {s : State} {g : Group} {n i : Nat} (h : s.Inv) : (s.callCheck g n i).Inv := by
  unfold State.callCheck
  grind [!Chk.bind_inv, !Chk.test_inv]

theorem Ctx.clean_inv {c : Ctx} {view : Group} {rs : List (BitVec 6)} {s : State} {k : Res} (h : s.Inv) (h₁ : k.Inv) : (c.clean view rs s k).Inv := by
  unfold Ctx.clean
  grind [Res.Inv]

theorem Ctx.call_inv {c : Ctx} {i : Instr} {fs : BitVec 6} {pad : Option (BitVec 8)} {regs : List (BitVec 6)} {targets : Group → List (Nat × DWord)}
    (h : c.s.Inv) : (c.call i fs pad regs targets).Inv := by
  refine Ctx.withForm_inv h fun s view hs => Ctx.clean_inv hs ?_
  refine Chk.res_inv h ?_ fun acc s4 h4 => Ctx.mayStore_inv h4 <|
    Ctx.writeThen_inv h (Ctx.stores_inv h4) fun s5 h5 => Res.inv_ok.mpr (Ctx.setG_inv h5)
  exact Chk.bind_inv (State.checkTargets_inv hs) fun _ s1 h1 => Chk.bind_inv (Chk.each_inv (fun _ _ => State.callCheck_inv) h1) fun _ s2 h2 =>
    Chk.bind_inv (Chk.test_inv h2) fun _ s3 h3 => State.writeFrames_inv h3

theorem execCall_inv {hd : Hdr} {off : BitVec 16} {fs : BitVec 6} {s : State} (h : s.Inv) : OutcomeInv (execCall hd off fs s) :=
  issue_inv h fun _ hc => Ctx.call_inv hc

theorem execCalli_inv {hd : Hdr} {vp fs : BitVec 6} {tag : BitVec 8} {s : State} (h : s.Inv) : OutcomeInv (execCalli hd vp tag fs s) :=
  issue_inv h fun _ hc => Ctx.call_inv hc

theorem Ctx.jmpi_inv {c : Ctx} {i : Instr} {vp : BitVec 6} {tag : BitVec 8} {an : Option (BitVec 4)} (h : c.s.Inv) : (c.jmpi i vp tag an).Inv := by
  refine Ctx.withForm_inv h fun s view hs => ?_
  dsimp only
  split
  · exact Res.inv_trap.mpr hs
  · split
    · exact Res.inv_trap.mpr hs
    · exact Chk.res_inv h (Chk.bind_inv (State.checkTargets_inv hs) fun _ s1 h1 => Chk.test_inv h1) fun _ s2 h2 => Res.inv_ok.mpr (Ctx.setG_inv h2)

theorem execJmpi_inv {hd : Hdr} {vp : BitVec 6} {tag : BitVec 8} {s : State} (h : s.Inv) : OutcomeInv (execJmpi hd vp tag s) :=
  issue_inv h fun _ hc => Ctx.jmpi_inv hc

theorem execJmpiDesc_inv {hd : Hdr} {vp : BitVec 6} {tag : BitVec 8} {an : BitVec 4} {s : State} (h : s.Inv) :
    OutcomeInv (execJmpiDesc hd vp tag an s) := issue_inv h fun _ hc => Ctx.jmpi_inv hc

theorem State.retLane_inv {g : Group} {lane k m n : Nat} {b : Bool} {s : State} (h : s.Inv) : (s.retLane g lane k m n b).Inv := by
  induction k generalizing m n b s with
  | zero => exact Chk.inv_trap.mpr h
  | succ k ih =>
    refine Chk.bind_inv (Chk.test_inv h) fun _ s1 h1 => Chk.bind_inv (State.readFrame_inv h1) fun f s2 h2 =>
      Chk.bind_inv (Chk.test_inv h2) fun _ s3 h3 => ?_
    split
    · exact ih h3
    · exact Chk.inv_ok.mpr h3

theorem State.retReach_inv {s : State} {g : Group} {lanes : List Nat} (h : s.Inv) : (s.retReach g lanes).Inv := by
  unfold State.retReach
  grind [!State.reach_inv, Chk.Inv]

theorem execRet_inv {hd : Hdr} {s : State} (h : s.Inv) : OutcomeInv (execRet hd s) := by
  refine issue_inv h fun c hc => Ctx.withForm_inv hc fun s view hs => ?_
  dsimp only
  split
  · exact Res.inv_trap.mpr hs
  · refine Chk.res_inv hc (Chk.bind_inv (State.retReach_inv hs) fun _ s h => Chk.each_inv (fun _ _ => State.retLane_inv) h) fun rs s1 h1 => ?_
    split
    · exact Res.inv_trap.mpr h1
    · exact Chk.res_inv hc (Chk.bind_inv (State.checkTargets_inv h1) fun _ s2 h2 => Chk.test_inv h2) fun _ s3 h3 =>
        Ctx.writeThen_inv hc h3 fun s4 h4 => Ctx.endLanes_inv (Ctx.setG_inv h4) fun s5 h5 => Res.inv_ok.mpr h5

theorem execPad_inv {hd : Hdr} {tag : BitVec 8} {s : State} (h : s.Inv) : OutcomeInv (execPad hd tag s) := issue_inv h fun _ hc => Ctx.done_inv hc

theorem execRjoinSet_inv {hd : Hdr} {j : BitVec 3} {s : State} (h : s.Inv) : OutcomeInv (execRjoinSet hd j s) :=
  issue_inv h fun _ hc => Ctx.done_inv (Ctx.setG_inv hc)

theorem execRjoinAdd_inv {hd : Hdr} {j : BitVec 3} {s : State} (h : s.Inv) : OutcomeInv (execRjoinAdd hd j s) :=
  issue_inv h fun _ hc => Ctx.done_inv (Ctx.setG_inv hc)

theorem Ctx.held_inv {c : Ctx} {i : Instr} {bar : Nat} (h : c.s.Inv) : (c.held i bar).Inv := by
  unfold Ctx.held
  grind [!Ctx.setG_inv, Res.Inv]

theorem execRjoinWait_inv {hd : Hdr} {j : BitVec 3} {s : State} (h : s.Inv) : OutcomeInv (execRjoinWait hd j s) := by
  unfold execRjoinWait
  refine issue_inv h fun c hc => ?_
  grind [!Ctx.setG_inv, !Ctx.held_inv, Res.Inv]

theorem execBar_inv {hd : Hdr} {lvl : Level} {s : State} (h : s.Inv) : OutcomeInv (execBar hd lvl s) := by
  unfold execBar
  refine issue_inv h fun c hc => ?_
  grind [!Ctx.held_inv, !State.barrierTest_inv, Res.Inv]

theorem execWaitSleep_inv {hd : Hdr} {imm : BitVec 16} {s : State} (h : s.Inv) : OutcomeInv (execWaitSleep hd imm s) := by
  unfold execWaitSleep
  refine issue_inv h fun c hc => ?_
  grind [!Ctx.done_inv, !Ctx.setPath_inv, Res.Inv]

theorem execWaitYield_inv {hd : Hdr} {s : State} (h : s.Inv) : OutcomeInv (execWaitYield hd s) :=
  issue_inv h fun _ hc => Ctx.done_inv (Ctx.setG_inv hc)

theorem execLoop_inv {hd : Hdr} {vc : BitVec 6} {n : BitVec 4} {s : State} (h : s.Inv) : OutcomeInv (execLoop hd vc n s) := by
  unfold execLoop
  refine issue_inv h fun c hc => ?_
  grind [!Ctx.withForm_inv, !Ctx.goto_inv, !Ctx.setPath_inv, Res.Inv]

/-! ### The matrix array (R230 to R251) -/

theorem Ctx.mxFirst_inv {c : Ctx} {k : Res} (h : c.s.Inv) (h₁ : k.Inv) : (c.mxFirst k).Inv := by
  unfold Ctx.mxFirst
  grind [Res.Inv]

theorem Ctx.queueMx_inv {c : Ctx} {i : Instr} (h : c.s.Inv) : (c.queueMx i).Inv := by
  unfold Ctx.queueMx
  grind [!Ctx.mxFirst_inv, !State.materializeAll_inv, !Ctx.waitRegen_inv, !State.prepareWrite_inv, !Ctx.done_inv, !State.setGroup_inv, Res.Inv,
    Regen.Inv]

theorem State.beginRes_inv {s : State} {n k slot : Nat} {g : Group} {w : MxWork} {isOb : Bool} {vd vp : BitVec 6} (h : s.Inv) :
    (s.beginRes n g k w isOb slot vd vp).Inv := by
  unfold State.beginRes
  grind [!State.setGroup_inv]

theorem State.beginRel_inv {s : State} {n k slot : Nat} {g : Group} {w : MxWork} {isOb : Bool} (h : s.Inv) : (s.beginRel n g k w isOb slot).Inv := by
  unfold State.beginRel
  grind [!State.setGroup_inv]

theorem State.beginClaim_inv {s : State} {n k t : Nat} {g : Group} {w : MxWork} (h : s.Inv) : (s.beginClaim n g k w t).Inv := by
  unfold State.beginClaim
  split <;> exact h

theorem State.beginFree_inv {s : State} {n k t : Nat} {g : Group} {w : MxWork} (h : s.Inv) : (s.beginFree n g k w t).Inv := by
  unfold State.beginFree
  grind [!State.setGroup_inv]

theorem State.beginAccrd_inv {s : State} {n k t : Nat} {g : Group} {w : MxWork} {vd va : BitVec 6} {ty : AccTy} {rnd : Rnd} (h : s.Inv) :
    (s.beginAccrd n g k w vd t ty rnd va).Inv := by
  unfold State.beginAccrd
  split <;> exact h

theorem State.beginAccwr_inv {s : State} {n k t : Nat} {g : Group} {w : MxWork} {vs va : BitVec 6} {ty : AccTy} {add : Bool} (h : s.Inv) :
    (s.beginAccwr n g k w vs t ty add va).Inv := by
  unfold State.beginAccwr
  grind [!State.setGroup_inv]

theorem State.beginDrain_inv {s : State} {n k t : Nat} {g : Group} {w : MxWork} {ty : AccTy} {va : BitVec 6} {store : Bool} (h : s.Inv) :
    (s.beginDrain n g k w t ty va store).Inv := by
  unfold State.beginDrain
  grind [!State.setGroup_inv]

theorem State.beginLoop_inv {s : State} {n k t ob b kc it mob : Nat} {g : Group} {w : MxWork} {vq : BitVec 6} {sp : Sparsity} {z : Bool}
    (h : s.Inv) : (s.beginLoop n g k w t ob b vq sp z kc it mob).Inv := by
  unfold State.beginLoop
  grind [!State.setGroup_inv]

theorem State.arrayLine_inv {s : State} {n : Nat} {g : Group} (h : s.Inv) : (s.arrayLine n g).Inv := by
  unfold State.arrayLine
  grind

theorem State.mxBegin_inv {s : State} {n : Nat} (h : s.Inv) : (s.mxBegin n).Inv := by
  unfold State.mxBegin
  grind [!State.setGroup_inv, !State.beginRes_inv, !State.beginRel_inv, !State.beginClaim_inv, !State.beginFree_inv, !State.beginAccrd_inv,
    !State.beginAccwr_inv, !State.beginDrain_inv, !State.beginLoop_inv]

theorem State.loopBlock_inv {s : State} {n k t ob b kc it mob : Nat} {g : Group} {w : MxWork} {sp : Sparsity} {quad : List Word} (h : s.Inv) :
    (s.loopBlock n g k w t ob b sp kc it mob quad).Inv := by
  unfold State.loopBlock
  grind [!State.setGroup_inv, !State.count_inv]

theorem State.drainRow_inv {s : State} {n k t : Nat} {g : Group} {w : MxWork} {ty : AccTy} {rnd : Rnd} {store : Bool} {ops : List Word}
    (h : s.Inv) : (s.drainRow n g k w t ty rnd store ops).Inv := by
  unfold State.drainRow
  grind [!State.resolve_inv, !State.setGroup_inv, !State.performList_inv, Resolved.Inv]

theorem State.mxStep_inv {s : State} {n : Nat} (h : s.Inv) : (s.mxStep n).Inv := by
  unfold State.mxStep
  repeat' split
  all_goals grind [!State.setGroup_inv, !State.loopBlock_inv, !State.drainRow_inv]

theorem State.mxClaim_inv {s : State} {n : Nat} (h : s.Inv) : (s.mxClaim n).Inv := by
  unfold State.mxClaim
  grind [!State.setGroup_inv]

theorem execObres_inv {hd : Hdr} {vd vp : BitVec 6} {ob : BitVec 3} {s : State} (h : s.Inv) : OutcomeInv (execObres hd vd ob vp s) :=
  issue_inv h fun _ hc => Ctx.queueMx_inv hc

theorem execObrel_inv {hd : Hdr} {ob : BitVec 3} {s : State} (h : s.Inv) : OutcomeInv (execObrel hd ob s) :=
  issue_inv h fun _ hc => Ctx.queueMx_inv hc

theorem execBres_inv {hd : Hdr} {vd vp : BitVec 6} {b : BitVec 2} {s : State} (h : s.Inv) : OutcomeInv (execBres hd vd b vp s) :=
  issue_inv h fun _ hc => Ctx.queueMx_inv hc

theorem execBrel_inv {hd : Hdr} {b : BitVec 2} {s : State} (h : s.Inv) : OutcomeInv (execBrel hd b s) := issue_inv h fun _ hc => Ctx.queueMx_inv hc

theorem execMxloop_inv {hd : Hdr} {t z : Bool} {ob mob : BitVec 3} {b : BitVec 2} {vq : BitVec 6} {sp : Sparsity} {kc n : BitVec 12} {s : State}
    (h : s.Inv) : OutcomeInv (execMxloop hd t ob b vq sp z kc n mob s) := issue_inv h fun _ hc => Ctx.queueMx_inv hc

theorem execAccz_inv {hd : Hdr} {t : Bool} {s : State} (h : s.Inv) : OutcomeInv (execAccz hd t s) := issue_inv h fun _ hc => Ctx.queueMx_inv hc

theorem execAcczFree_inv {hd : Hdr} {t : Bool} {s : State} (h : s.Inv) : OutcomeInv (execAcczFree hd t s) :=
  issue_inv h fun _ hc => Ctx.queueMx_inv hc

theorem execAccrd_inv {hd : Hdr} {vd va : BitVec 6} {t : Bool} {ty : AccTy} {rnd : Rnd} {s : State} (h : s.Inv) :
    OutcomeInv (execAccrd hd vd t ty rnd va s) := issue_inv h fun _ hc => Ctx.queueMx_inv hc

theorem execAccwr_inv {hd : Hdr} {vs va : BitVec 6} {t add : Bool} {ty : AccTy} {s : State} (h : s.Inv) :
    OutcomeInv (execAccwr hd vs t ty add va s) := issue_inv h fun _ hc => Ctx.queueMx_inv hc

theorem execAccst_inv {hd : Hdr} {an : BitVec 4} {t : Bool} {ty : AccTy} {rnd : Rnd} {va : BitVec 6} {s : State} (h : s.Inv) :
    OutcomeInv (execAccst hd an t ty rnd va s) := issue_inv h fun _ hc => Ctx.queueMx_inv hc

theorem execAccld_inv {hd : Hdr} {an : BitVec 4} {t : Bool} {ty : AccTy} {va : BitVec 6} {s : State} (h : s.Inv) :
    OutcomeInv (execAccld hd an t ty va s) := issue_inv h fun _ hc => Ctx.queueMx_inv hc

theorem execMxwait_inv {hd : Hdr} {s : State} (h : s.Inv) : OutcomeInv (execMxwait hd s) := by
  unfold execMxwait
  refine issue_inv h fun c hc => ?_
  grind [!Ctx.mxFirst_inv, !Ctx.setG_inv, !Ctx.done_inv, Res.Inv]

theorem execMxfrz_inv {hd : Hdr} {s : State} (h : s.Inv) : OutcomeInv (execMxfrz hd s) := by
  unfold execMxfrz
  refine issue_inv h fun c hc => ?_
  grind [!Ctx.mxFirst_inv, !Ctx.done_inv, !Ctx.setG_inv, Res.Inv]

theorem execMxfrzThaw_inv {hd : Hdr} {s : State} (h : s.Inv) : OutcomeInv (execMxfrzThaw hd s) := by
  unfold execMxfrzThaw
  refine issue_inv h fun c hc => ?_
  grind [!Ctx.mxFirst_inv, !Ctx.done_inv, !Ctx.setG_inv, Res.Inv]

theorem execMxsta_inv {hd : Hdr} {vq : BitVec 6} {s : State} (h : s.Inv) : OutcomeInv (execMxsta hd vq s) := by
  unfold execMxsta
  refine issue_inv h fun c hc => ?_
  grind [!Ctx.mxFirst_inv, !Ctx.commit_inv]

theorem State.afterMx_inv {s s1 : State} {n : Nat} (h : s1.Inv) : (s.afterMx n s1).Inv := by
  unfold State.afterMx
  grind [!State.fitRows_inv]

theorem execMatrixWorkBegin_inv {g : Nat} {s : State} (h : s.Inv) : OutcomeInv (execMatrixWorkBegin g s) :=
  outcomeInv_next.mpr (State.afterMx_inv (State.mxBegin_inv h))

theorem execMatrixBlock_inv {g : Nat} {s : State} (h : s.Inv) : OutcomeInv (execMatrixBlock g s) :=
  outcomeInv_next.mpr (State.afterMx_inv (State.mxStep_inv h))

theorem execAcczClaim_inv {g : Nat} {s : State} (h : s.Inv) : OutcomeInv (execAcczClaim g s) := outcomeInv_next.mpr (State.mxClaim_inv h)

theorem execRegisterFold_inv {g : Nat} {vd : BitVec 6} {s : State} (h : s.Inv) : OutcomeInv (execRegisterFold g vd s) := by
  unfold execRegisterFold
  grind [!State.setGroup_inv, OutcomeInv]

theorem execRegisterUnspill_inv {g : Nat} {vd : BitVec 6} {s : State} (h : s.Inv) : OutcomeInv (execRegisterUnspill g vd s) := by
  unfold execRegisterUnspill
  grind [!State.setGroup_inv, OutcomeInv]

/-! ### Winnow -/

theorem State.sendBulk_inv {s : State} {tag pa len extra : Nat} {w : Bool} {stream : List Byte} (h : s.Inv) :
    OptInv (s.sendBulk tag pa len w extra stream) :=
  optInv_map fun _ => foldl_inv (fun _ _ hs => State.enqueue_inv hs) h

/-! ### Copy requests (R91 to R111) -/

theorem Cp.bind_inv {α β : Type} {x : Cp α} {f : α → Work → Cp β} (h : x.Inv) (h₁ : ∀ a w, w.s.Inv → (f a w).Inv) : (x.bind f).Inv := by
  unfold Cp.bind
  grind [Cp.Inv]

theorem Cp.each_inv {α β : Type} {f : α → Work → Cp β} {l : List α} {w : Work} (h : ∀ a w, w.s.Inv → (f a w).Inv) (h₁ : w.s.Inv) :
    (Cp.each f l w).Inv := by
  induction l generalizing w with
  | nil => exact Cp.inv_ok.mpr h₁
  | cons a l ih => exact Cp.bind_inv (h a w h₁) fun b w1 h1 => Cp.bind_inv (ih h1) fun bs w2 h2 => Cp.inv_ok.mpr h2

theorem Side.place_inv {x : Side} {g : Group} {va : Int} {w : Work} (h : w.s.Inv) : (x.place g va w).Inv := by
  unfold Side.place
  grind [!State.translate_inv, Cp.Inv]

theorem Side.byte_inv {x : Side} {n : Nat} {g : Group} {inbuf : List (Nat × Byte)} {a : Int} {w : Work} (h : w.s.Inv) :
    (x.byte n g inbuf a w).Inv := by
  unfold Side.byte
  grind [!Cp.bind_inv, !Side.place_inv, Cp.Inv]

theorem Work.note_inv {w : Work} {a : Nat} {bad : Bool} (h : w.s.Inv) : (w.note a bad).s.Inv := h

theorem Side.putByte_inv {x : Side} {n : Nat} {g : Group} {a : Int} {v : Byte} {bad : Bool} {w : Work} (h : w.s.Inv) :
    (x.putByte n g a v bad w).Inv := by
  unfold Side.putByte
  split
  · grind [!State.setTeam_inv, Cp.Inv]
  · grind [!State.setGroup_inv, Cp.Inv]
  · grind [!State.setGroup_inv, Cp.Inv]
  · split
    · simp [Cp.Inv]
    · exact Cp.bind_inv (Side.place_inv h) fun pa w1 h1 => Cp.inv_ok.mpr h1
  · exact Cp.bind_inv (Side.place_inv h) fun pa w1 h1 => Cp.inv_ok.mpr (Mem.wf_set _ _ h1)

theorem Side.bytes_inv {x : Side} {n len : Nat} {g : Group} {inbuf : List (Nat × Byte)} {a : Int} {w : Work} (h : w.s.Inv) :
    (x.bytes n g inbuf a len w).Inv := by
  unfold Side.bytes
  grind [!Cp.bind_inv, !Cp.each_inv, !Side.byte_inv, Cp.Inv]

theorem Side.putBytes_inv {x : Side} {n len v : Nat} {g : Group} {a : Int} {bad : Bool} {w : Work} (h : w.s.Inv) :
    (x.putBytes n g a len v bad w).Inv := by
  unfold Side.putBytes
  grind [!Cp.bind_inv, !Cp.each_inv, !Side.putByte_inv, Cp.Inv]

theorem Side.get_inv {x : Side} {n : Nat} {g : Group} {inbuf : List (Nat × Byte)} {row k : Int} {w : Work} (h : w.s.Inv) :
    (x.get n g inbuf row k w).Inv := by
  unfold Side.get
  grind [!Cp.bind_inv, !Side.bytes_inv, Cp.Inv]

theorem Side.put_inv {x : Side} {n v : Nat} {g : Group} {inbuf : List (Nat × Byte)} {row k : Int} {bad : Bool} {w : Work} (h : w.s.Inv) :
    (x.put n g inbuf row k v bad w).Inv := by
  unfold Side.put
  grind [!State.setGroup_inv, !Side.putBytes_inv, !Cp.bind_inv, !Side.bytes_inv, Cp.Inv]

theorem Work.convert_inv {w : Work} {x : Side} {mode : Rnd} {v : Val} {bad : Bool} (h : w.s.Inv) : (w.convert x mode v bad).2.s.Inv := h

theorem Job.read_inv {j : Job} {src : Source} {w : Work} (h : w.s.Inv) : (j.read src w).Inv := by
  unfold Job.read
  grind [!Cp.bind_inv, !Side.get_inv, !Side.bytes_inv, Cp.Inv]

theorem Job.plain_inv {j : Job} {p : Prod_} {w : Work} (h : w.s.Inv) : (j.plain p w).Inv := by
  unfold Job.plain
  grind [!Cp.bind_inv, !Job.read_inv, !Side.put_inv, !Work.convert_inv]

theorem Job.flush_inv {j : Job} {b : OpenBlock} {w : Work} (h : w.s.Inv) : (j.flush b w).Inv := by
  unfold Job.flush
  grind [!Cp.bind_inv, !Cp.each_inv, !Side.put_inv, !Work.convert_inv, !Side.putBytes_inv]

theorem Job.blocks_inv {j : Job} {before : Int × Int → Bool} {l : List OpenBlock} {l' : List (Int × Int)} {l'' : List Prod_} {w : Work}
    (h : w.s.Inv) : (j.blocks before l l' l'' w).Inv := by
  induction l'' generalizing l l' w with
  | nil => simp [Job.blocks, Cp.Inv]
  | cons p rest ih =>
    unfold Job.blocks
    dsimp only
    split
    · simp [Cp.Inv]
    · refine Cp.bind_inv (Job.read_inv h) fun e w1 h1 => ?_
      split
      · refine Cp.bind_inv (Job.flush_inv h1) fun _ w2 h2 => ?_
        split
        · exact Cp.inv_ok.mpr h2
        · exact ih h2
      · exact ih h1

theorem Job.unit_inv {j : Job} {before : Int × Int → Bool} {closed : List (Int × Int)} {ps : List Prod_} {w : Work} (h : w.s.Inv) :
    (j.unit before closed ps w).Inv := by
  unfold Job.unit
  grind [!Job.blocks_inv, !Cp.bind_inv, !Cp.each_inv, !Job.plain_inv, Cp.Inv]

/-! ### Address registers and memory instructions (R68 to R90) -/

theorem execAset_inv {hd : Hdr} {an : BitVec 4} {vq : BitVec 6} {s : State} (h : s.Inv) : OutcomeInv (execAset hd an vq s) :=
  issue_inv h fun _ hc => Ctx.runEff_inv hc

theorem execAadvPair_inv {hd : Hdr} {an : BitVec 4} {vp : BitVec 6} {s : State} (h : s.Inv) : OutcomeInv (execAadvPair hd an vp s) :=
  issue_inv h fun _ hc => Ctx.runEff_inv hc

theorem execAadvImm_inv {hd : Hdr} {an : BitVec 4} {imm : BitVec 16} {s : State} (h : s.Inv) : OutcomeInv (execAadvImm hd an imm s) :=
  issue_inv h fun _ hc => Ctx.runEff_inv hc

theorem execAget_inv {hd : Hdr} {vd : BitVec 6} {an : BitVec 4} {sel : AgetSel} {s : State} (h : s.Inv) : OutcomeInv (execAget hd vd an sel s) :=
  issue_inv h fun _ hc => Ctx.runEff_inv hc

theorem execAnarrow_inv {hd : Hdr} {ad as : BitVec 4} {vp : BitVec 6} {clr : BitVec 8} {s : State} (h : s.Inv) :
    OutcomeInv (execAnarrow hd ad as vp clr s) := issue_inv h fun _ hc => Ctx.runEff_inv hc

theorem Ctx.access_inv {c : Ctx} {i : Instr} {s : State} {o : MemOp} {acc : List (LaneAcc × Nat)} (h : c.s.Inv) (h₁ : s.Inv) :
    (c.access i s o acc).Inv := by
  unfold Ctx.access
  grind [!State.prepareWrite_inv, !Ctx.waitRegen_inv, !State.perform_inv, !State.setGroup_inv, !State.endSafe_inv, !Ctx.advance_inv, !Ctx.commit_inv,
    Regen.Inv, Res.Inv]

theorem Ctx.enterLog_inv {c : Ctx} {i : Instr} {s : State} {accs : List LaneAcc} {pages : List Nat} (h : s.Inv) :
    (c.enterLog i s accs pages).Inv := Ctx.advance_inv (Ctx.log_inv h)

theorem Ctx.unless_inv {c : Ctx} {i : Instr} {k : Res} (h : c.s.Inv) (h₁ : k.Inv) : (c.unless i k).Inv := by
  unfold Ctx.unless
  grind [!Ctx.done_inv]

theorem Ctx.global_inv {c : Ctx} {i : Instr} {o : MemOp} {an : BitVec 4} {vo : BitVec 6} (h : c.s.Inv) : (c.global i o an vo).Inv := by
  unfold Ctx.global
  grind [!Ctx.unless_inv, !Ctx.withForm_inv, !State.resolve_inv, !Ctx.enterLog_inv, !Ctx.access_inv, Res.Inv, Resolved.Inv]

theorem Ctx.ldk_inv {c : Ctx} {i : Instr} {o : MemOp} {an : BitVec 4} {vo : BitVec 6} (h : c.s.Inv) : (c.ldk i o an vo).Inv := by
  unfold Ctx.ldk
  grind [!Ctx.global_inv, !Ctx.unless_inv, !Ctx.withForm_inv, !State.sliceEff_inv, !Ctx.askRemote_inv, !Ctx.pend_inv, !Ctx.commit_inv, Res.Inv,
    SliceEff.Inv]

theorem execLdB_inv {hd : Hdr} {vt : BitVec 6} {m : MOp} {s : State} (h : s.Inv) : OutcomeInv (execLdB hd vt m s) :=
  issue_inv h fun _ hc => Ctx.global_inv hc

theorem execLdH_inv {hd : Hdr} {vt : BitVec 6} {m : MOp} {s : State} (h : s.Inv) : OutcomeInv (execLdH hd vt m s) :=
  issue_inv h fun _ hc => Ctx.global_inv hc

theorem execLdW_inv {hd : Hdr} {vt : BitVec 6} {m : MOp} {s : State} (h : s.Inv) : OutcomeInv (execLdW hd vt m s) :=
  issue_inv h fun _ hc => Ctx.global_inv hc

theorem execLdD_inv {hd : Hdr} {vt : BitVec 6} {m : MOp} {s : State} (h : s.Inv) : OutcomeInv (execLdD hd vt m s) :=
  issue_inv h fun _ hc => Ctx.global_inv hc

theorem execLdQ_inv {hd : Hdr} {vt : BitVec 6} {m : MOp} {s : State} (h : s.Inv) : OutcomeInv (execLdQ hd vt m s) :=
  issue_inv h fun _ hc => Ctx.global_inv hc

theorem execStB_inv {hd : Hdr} {vt : BitVec 6} {m : MOp} {s : State} (h : s.Inv) : OutcomeInv (execStB hd vt m s) :=
  issue_inv h fun _ hc => Ctx.global_inv hc

theorem execStH_inv {hd : Hdr} {vt : BitVec 6} {m : MOp} {s : State} (h : s.Inv) : OutcomeInv (execStH hd vt m s) :=
  issue_inv h fun _ hc => Ctx.global_inv hc

theorem execStW_inv {hd : Hdr} {vt : BitVec 6} {m : MOp} {s : State} (h : s.Inv) : OutcomeInv (execStW hd vt m s) :=
  issue_inv h fun _ hc => Ctx.global_inv hc

theorem execStD_inv {hd : Hdr} {vt : BitVec 6} {m : MOp} {s : State} (h : s.Inv) : OutcomeInv (execStD hd vt m s) :=
  issue_inv h fun _ hc => Ctx.global_inv hc

theorem execStQ_inv {hd : Hdr} {vt : BitVec 6} {m : MOp} {s : State} (h : s.Inv) : OutcomeInv (execStQ hd vt m s) :=
  issue_inv h fun _ hc => Ctx.global_inv hc

theorem execLdkW_inv {hd : Hdr} {vt vo : BitVec 6} {an : BitVec 4} {nt : Bool} {s : State} (h : s.Inv) : OutcomeInv (execLdkW hd vt an vo nt s) :=
  issue_inv h fun _ hc => Ctx.ldk_inv hc

theorem execLdkD_inv {hd : Hdr} {vt vo : BitVec 6} {an : BitVec 4} {nt : Bool} {s : State} (h : s.Inv) : OutcomeInv (execLdkD hd vt an vo nt s) :=
  issue_inv h fun _ hc => Ctx.ldk_inv hc

theorem execAtom_inv {hd : Hdr} {vt vs : BitVec 6} {m : MOp} {op : AtomOp} {dw : Bool} {s : State} (h : s.Inv) :
    OutcomeInv (execAtom hd vt m op dw vs s) := issue_inv h fun _ hc => Ctx.global_inv hc

theorem execRed_inv {hd : Hdr} {m : MOp} {op : AtomOp} {dw : Bool} {vs : BitVec 6} {s : State} (h : s.Inv) :
    OutcomeInv (execRed hd m op dw vs s) := issue_inv h fun _ hc => Ctx.global_inv hc

theorem execCas_inv {hd : Hdr} {vt vc vn : BitVec 6} {m : MOp} {dw : Bool} {s : State} (h : s.Inv) : OutcomeInv (execCas hd vt m dw vc vn s) :=
  issue_inv h fun _ hc => Ctx.global_inv hc

theorem execLdl_inv {hd : Hdr} {vt vo : BitVec 6} {sz : LmSize} {imm : BitVec 8} {s : State} (h : s.Inv) :
    OutcomeInv (execLdl hd vt vo sz imm s) := by
  unfold execLdl
  refine issue_inv h fun c hc => ?_
  grind [!Ctx.unless_inv, !Ctx.withForm_inv, !Ctx.done_inv, !Ctx.commit_inv, Res.Inv]

theorem execStl_inv {hd : Hdr} {vt vo : BitVec 6} {sz : LmSize} {imm : BitVec 8} {s : State} (h : s.Inv) :
    OutcomeInv (execStl hd vt vo sz imm s) := by
  unfold execStl
  refine issue_inv h fun c hc => ?_
  grind [!Ctx.unless_inv, !Ctx.withForm_inv, !Ctx.done_inv, !State.setTeam_inv, Res.Inv]

theorem execAtoml_inv {hd : Hdr} {vt vo vs : BitVec 6} {order : Order} {nt dw : Bool} {op : AtomOp} {s : State} (h : s.Inv) :
    OutcomeInv (execAtoml hd vt vo order nt op dw vs s) := by
  unfold execAtoml
  refine issue_inv h fun c hc => ?_
  grind [!Ctx.unless_inv, !Ctx.withForm_inv, !State.prepareWrite_inv, !Ctx.waitRegen_inv, !State.endSafe_inv, !State.setGroup_inv, !Ctx.done_inv,
    !Ctx.commit_inv, !State.setTeam_inv, Res.Inv, Regen.Inv]

theorem execFence_inv {hd : Hdr} {kind : FenceKind} {scope : Scope} {s : State} (h : s.Inv) : OutcomeInv (execFence hd kind scope s) := by
  unfold execFence
  refine issue_inv h fun c hc => ?_
  grind [!Ctx.setG_inv, !Ctx.done_inv, Res.Inv]

theorem State.warmCode_inv {s : State} {core asid va : Nat} (h : s.Inv) : (s.warm core asid va).Inv := by
  unfold State.warm
  grind [!State.translate_inv]

theorem State.prefetch_inv {s : State} {core asid va : Nat} (h : s.Inv) : (s.prefetch core asid va).Inv := by
  unfold State.prefetch
  grind [!State.l1Fill_inv]

theorem execPref_inv {hd : Hdr} {target : PrefTarget} {an : BitVec 4} {vo : BitVec 6} {nt : Bool} {s : State} (h : s.Inv) :
    OutcomeInv (execPref hd target an vo nt s) := by
  unfold execPref
  refine issue_inv h fun c hc => ?_
  grind [foldl_inv, !State.formAll_inv, !State.warmCode_inv, !Ctx.done_inv, !State.prefetch_inv, Regen.Inv]

theorem State.fillCode_inv {s : State} {core asid k m : Nat} (h : s.Inv) : (s.fillCode core asid k m).Inv := by
  fun_induction State.fillCode s core asid k m <;> grind [!State.translate_inv, !State.cache_inv]

theorem execCctl_inv {hd : Hdr} {op : CctlOp} {an : BitVec 4} {s : State} (h : s.Inv) : OutcomeInv (execCctl hd op an s) := by
  unfold execCctl
  refine issue_inv h fun c hc => ?_
  grind [!Ctx.done_inv, !State.fillCode_inv, !State.l1Empty_inv]

/-! ### Engine instructions, completion (R99 to R114) -/

theorem State.onTeam_inv {s : State} {n : Nat} {f : Team → Team} (h : s.Inv) : (s.onTeam n f).Inv := by
  unfold State.onTeam
  split <;> exact h

theorem State.setCopy_inv {s : State} {old : CopyReq} {new : Option CopyReq} (h : s.Inv) : (s.setCopy old new).Inv := h

theorem State.copyFail_inv {s : State} {r : CopyReq} {reason : Nat} (h : s.Inv) : (s.copyFail r reason).Inv := by
  unfold State.copyFail
  grind [!State.onTeam_inv, !State.setCopy_inv, !State.setGroup_inv]

theorem State.copyCredit_inv {s : State} {r : CopyReq} {n : Nat} (h : s.Inv) : (s.copyCredit r n).Inv := State.onTeam_inv h

theorem Job.chunk_inv {j : Job} {before : Int × Int → Bool} {k m : Nat} {l : List (Int × Int)} {l' : List Prod_} {w : Work} (h : w.s.Inv) :
    (j.chunk before k l l' m w).1.s.Inv := by
  fun_induction Job.chunk j before k l l' m w <;> grind [!Job.unit_inv, Cp.Inv]

theorem State.copyAsk_inv {s : State} {r : CopyReq} {j : Job} {ps : List Prod_} {pa : Nat} (h : s.Inv) : (s.copyAsk r j ps pa).Inv := by
  unfold State.copyAsk
  grind [!State.freshTag_inv, !State.sendBulk_inv, !State.copyFail_inv, !State.setCopy_inv, OptInv]

theorem State.sendRuns_inv {s : State} {r : CopyReq} {part : Nat} {l : List (Nat × List Byte)} {x : List Nat × State}
    (h : s.Inv) (hx : s.sendRuns r part l = some x) : x.2.Inv := by
  induction l generalizing s x with
  | nil =>
    cases hx
    exact h
  | cons y rest ih =>
    obtain ⟨s1, hs1, hrest⟩ := Option.bind_eq_some_iff.mp hx
    obtain ⟨x', hx', rfl⟩ := Option.map_eq_some_iff.mp hrest
    have h1 : s1.Inv := optInv_some.mp (hs1 ▸ State.sendBulk_inv (State.freshTag_inv h))
    refine ih (x := x') ?_ hx'
    exact State.noteWrite_inv (part := part) (dst := paPkg y.1) (write := true) h1

theorem State.copyStep_inv {s : State} {r : CopyReq} (h : s.Inv) : (s.copyStep r).Inv := by
  have hruns : ∀ (s' : State) r' part l x, s'.Inv → s'.sendRuns r' part l = some x → x.2.Inv := fun _ _ _ _ _ => State.sendRuns_inv
  unfold State.copyStep
  grind [!Job.chunk_inv, !State.setCopy_inv, !State.count_inv, !State.copyFail_inv, !State.endSafe_inv, !State.onTeam_inv, !State.copyCredit_inv,
    !State.copyAsk_inv, !State.postFault_inv]

theorem execCopyChunk_inv {core : Nat} {s : State} (h : s.Inv) : OutcomeInv (execCopyChunk core s) := by
  unfold execCopyChunk
  grind [!State.copyStep_inv, OutcomeInv]

theorem execQsub_inv {hd : Hdr} {vd vo : BitVec 6} {imm : BitVec 10} {s : State} (h : s.Inv) : OutcomeInv (execQsub hd vd vo imm s) := by
  unfold execQsub
  refine issue_inv h fun c hc => ?_
  grind [!Ctx.withForm_inv, !State.writeRegs_inv, !Ctx.done_inv, !Ctx.waitRegen_inv, Res.Inv, Regen.Inv]

theorem execCbinit_inv {hd : Hdr} {vp vo : BitVec 6} {imm : BitVec 9} {s : State} (h : s.Inv) : OutcomeInv (execCbinit hd vp vo imm s) := by
  unfold execCbinit
  refine issue_inv h fun c hc => ?_
  grind [!Ctx.withForm_inv, !Ctx.done_inv, !State.onTeam_inv, Res.Inv]

theorem Ctx.sleep_inv {c : Ctx} {s : State} {z : Sleep} (h : s.Inv) : (c.sleep s z).Inv := Res.inv_hold.mpr (Ctx.setG_inv h)

theorem execCbwait_inv {hd : Hdr} {vo : BitVec 6} {imm : BitVec 9} {s : State} (h : s.Inv) : OutcomeInv (execCbwait hd vo imm s) := by
  unfold execCbwait
  refine issue_inv h fun c hc => ?_
  grind [!Ctx.withForm_inv, !Ctx.done_inv, !Ctx.sleep_inv, Res.Inv]

theorem execSleepuntil_inv {hd : Hdr} {vp : BitVec 6} {s : State} (h : s.Inv) : OutcomeInv (execSleepuntil hd vp s) := by
  unfold execSleepuntil
  refine issue_inv h fun c hc => ?_
  grind [!Ctx.withForm_inv, !Ctx.sleep_inv, !Ctx.done_inv, Res.Inv]

theorem execSleepuntilChk_inv {hd : Hdr} {vp vo : BitVec 6} {imm : BitVec 9} {s : State} (h : s.Inv) :
    OutcomeInv (execSleepuntilChk hd vp vo imm s) := by
  unfold execSleepuntilChk
  refine issue_inv h fun c hc => ?_
  grind [!Ctx.withForm_inv, !Ctx.sleep_inv, !Ctx.done_inv, Res.Inv]

theorem State.wake_inv {s : State} {n words : Nat} {slot : SlotId} (h : s.Inv) : (s.wake n slot words).Inv := by
  unfold State.wake
  split <;> exact h

theorem State.wakeTrap_inv {s : State} {n : Nat} {slot : SlotId} {t : Trap} (h : s.Inv) : (s.wakeTrap n slot t).Inv := by
  unfold State.wakeTrap
  grind [!State.takeTrap_inv, !State.setGroup_inv]

theorem execCbwaitWake_inv {n : Nat} {s : State} (h : s.Inv) : OutcomeInv (execCbwaitWake n s) := by
  unfold execCbwaitWake
  grind [!State.wakeTrap_inv, !State.wake_inv, OutcomeInv]

theorem execSleepuntilWake_inv {n : Nat} {s : State} (h : s.Inv) : OutcomeInv (execSleepuntilWake n s) := by
  unfold execSleepuntilWake
  grind [!State.wakeTrap_inv, !State.wake_inv, OutcomeInv]

theorem execPublish_inv {hd : Hdr} {an : BitVec 4} {s : State} (h : s.Inv) : OutcomeInv (execPublish hd an s) := by
  unfold execPublish
  refine issue_inv h fun c hc => ?_
  grind [!Ctx.done_inv, !Ctx.sleep_inv, Res.Inv]

theorem State.flipRegion_inv {s : State} {asid : Nat} {pages : List Nat} (h : s.Inv) : (s.flipRegion asid pages).Inv := by
  unfold State.flipRegion
  grind [foldl_inv, !State.invalidate_inv, !State.writePA_inv]

theorem execPublishFlip_inv {n : Nat} {s : State} (h : s.Inv) : OutcomeInv (execPublishFlip n s) := by
  unfold execPublishFlip
  grind [!State.wake_inv, !State.endSafe_inv, !State.flipRegion_inv, OutcomeInv]

/-! ### Husks (R352 to R373) -/

theorem State.setLockWords_inv {s : State} {pa k : Nat} {l : List Nat} (h : s.Inv) : (s.setLockWords pa k l).Inv := by
  fun_induction State.setLockWords s pa k l <;> grind [!State.setLockWord_inv]

theorem State.putRegs_inv {s : State} {acc : Nat} {l : List (Word × Bool)} (h : s.Inv) : (s.putRegs acc l).Inv := by
  fun_induction State.putRegs s acc l <;> grind [!State.writePA_inv]

theorem State.putCregs_inv {s : State} {pa : Nat} {vals : List (Word × Bool)} (h : s.Inv) : (s.putCregs pa vals).Inv :=
  State.putRegs_inv (State.writePA_inv h)

theorem State.freeLock_inv {s : State} {pa : Nat} (h : s.Inv) : (s.freeLock pa).Inv := by
  unfold State.freeLock
  grind [!State.setLockWord_inv]

theorem State.huskReach_inv {s : State} {g : Group} {va : Nat} (h : s.Inv) : (s.huskReach g va).2.Inv := by
  unfold State.huskReach
  grind [!State.translateHub_inv, !State.postFault_inv]

theorem Ctx.acquire_inv {c : Ctx} {i : Instr} {vd : BitVec 6} {nres va pa lane : Nat} {mask : Word} {s : State} {g : Group} (h : c.s.Inv)
    (h₁ : s.Inv) : (c.acquire i vd nres mask va pa lane s g).Inv := by
  unfold Ctx.acquire
  grind [!State.writeRegs_inv, !Ctx.waitRegen_inv, !State.setLockWords_inv, !State.setLockWord_inv, !State.putCregs_inv, !Ctx.advance_inv,
    !State.setGroup_inv, Regen.Inv, Res.Inv]

theorem Ctx.adopt_inv {c : Ctx} {i : Instr} {va pa lane slot : Nat} {s : State} {g : Group} (h : c.s.Inv) (h₁ : s.Inv) :
    (c.adopt i va pa lane slot s g).Inv := by
  unfold Ctx.adopt
  grind [!State.materializeAll_inv, !Ctx.waitRegen_inv, !State.writeRegs_inv, !State.setGroup_inv, !State.setLockWord_inv, !Ctx.goto_inv, Regen.Inv,
    Res.Inv]

theorem Ctx.henterOver_inv {c : Ctx} {r : Res} (h : r.Inv) : (c.henterOver r).Inv := by
  unfold Ctx.henterOver
  grind [!Ctx.setG_inv, Res.Inv]

theorem execHenter_inv {hd : Hdr} {vd : BitVec 6} {an : BitVec 4} {nres : BitVec 3} {mask : Word} {s : State} (h : s.Inv) :
    OutcomeInv (execHenter hd vd an nres mask s) := by
  refine issue_inv h fun c hc => Ctx.henterOver_inv ?_
  iterate 7 refine Res.inv_ite (by simpa [Res.Inv] using hc) ?_
  grind [!State.translate_inv, !State.materializeAll_inv, !Ctx.waitRegen_inv, !State.setGroup_inv, !Ctx.acquire_inv, !Ctx.adopt_inv,
    !Ctx.setG_inv, !Ctx.logHold_inv, !State.postFault_inv, Res.Inv, Regen.Inv]

theorem execHenterWake_inv {n : Nat} {s : State} (h : s.Inv) : OutcomeInv (execHenterWake n s) := by
  unfold execHenterWake
  grind [!State.setGroup_inv, OutcomeInv]

theorem execHstore_inv {hd : Hdr} {sz : HSize} {vs vo : BitVec 6} {an : BitVec 4} {s : State} (h : s.Inv) :
    OutcomeInv (execHstore hd sz vs an vo s) := by
  refine issue_inv h fun c hc => ?_
  dsimp only
  split
  · exact Res.inv_trap.mpr hc
  · split
    · exact Res.inv_trap.mpr hc
    · split
      · exact Res.inv_hold.mpr hc
      · refine Ctx.withForm_inv hc fun s view hs => ?_
        grind [!State.resolve_inv, !Ctx.setG_inv, !Ctx.enterLog_inv, !Ctx.advance_inv, !State.endSafe_inv, !Ctx.done_inv, Res.Inv, Resolved.Inv]

theorem State.huskCommit_inv {s : State} {n : Nat} (h : s.Inv) : (s.huskCommit n).Inv := by
  have hreach := fun g lock => State.huskReach_inv (g := g) (va := lock) h
  unfold State.huskCommit
  repeat' split
  all_goals grind [!State.setLockWord_inv, !State.putCregs_inv, !State.writePA_inv, !State.setGroup_inv]

theorem execHuskCommit_inv {n : Nat} {s : State} (h : s.Inv) : OutcomeInv (execHuskCommit n s) := outcomeInv_next.mpr (State.huskCommit_inv h)

theorem State.fillSlot_inv {s : State} {pa slot rpc : Nat} {vals : List (Word × Bool)} {abort : Bool} (h : s.Inv) :
    (s.fillSlot pa slot vals rpc abort).Inv := by
  unfold State.fillSlot
  grind [!State.setLockWord_inv, !State.putRegs_inv, !State.writePA_inv]

theorem execHexit_inv {hd : Hdr} {s : State} (h : s.Inv) : OutcomeInv (execHexit hd s) := by
  unfold execHexit
  refine issue_inv h fun c hc => ?_
  grind [!State.huskReach_inv, !Ctx.logHold_inv, !Ctx.setG_inv, !State.writeRegs_inv, !Ctx.waitRegen_inv, !Ctx.advance_inv, !State.setGroup_inv,
    !State.freeLock_inv, !State.fillSlot_inv, !Ctx.goto_inv, Res.Inv, Regen.Inv]

theorem execHabort_inv {hd : Hdr} {s : State} (h : s.Inv) : OutcomeInv (execHabort hd s) := by
  unfold execHabort
  refine issue_inv h fun c hc => ?_
  grind [!Ctx.done_inv, !State.huskReach_inv, !Ctx.logHold_inv, !Ctx.setG_inv, !State.freeLock_inv, !State.writeRegs_inv, !Ctx.waitRegen_inv,
    !State.setGroup_inv, !State.fillSlot_inv, Res.Inv, Regen.Inv]

theorem State.orphanLock_inv {s : State} {pa key : Nat} (h : s.Inv) : (s.orphanLock pa key).Inv := by
  unfold State.orphanLock
  grind [!State.setLockWord_inv]

theorem State.sendOrphan_inv {s : State} {g : Group} (h : s.Inv) : (s.sendOrphan g).1.Inv := by
  unfold State.sendOrphan
  grind [!State.huskReach_inv, !State.orphanLock_inv]

theorem execHuskOrphanRequest_inv {n : Nat} {s : State} (h : s.Inv) : OutcomeInv (execHuskOrphanRequest n s) := by
  unfold execHuskOrphanRequest
  grind [!State.sendOrphan_inv, !State.setGroup_inv, OutcomeInv]

theorem execOrphanThreshold_inv {n : Nat} {s : State} (h : s.Inv) : OutcomeInv (execOrphanThreshold n s) := by
  unfold execOrphanThreshold
  grind [!State.setGroup_inv, OutcomeInv]

theorem State.deliver_inv {s : State} {n pa slot : Nat} {g : Group} {hdr : Husk} (h : s.Inv) : (s.deliver n g hdr pa slot).Inv := by
  unfold State.deliver
  grind [!State.writeRegs_inv, !State.pendFor_inv, !State.fitRows_inv, !State.setGroup_inv, !State.setLockWord_inv, Regen.Inv]

theorem State.abandon_inv {s : State} {n : Nat} {g : Group} {hdr : Husk} (h : s.Inv) : (s.abandon n g hdr).Inv := by
  unfold State.abandon
  grind [!State.writeRegs_inv, !State.pendFor_inv, !State.fitRows_inv, !State.setGroup_inv, Regen.Inv]

theorem State.holderAsks_inv {s : State} {n pa : Nat} {g : Group} {hdr : Husk} (h : s.Inv) : (s.holderAsks n g hdr pa).Inv := by
  unfold State.holderAsks
  grind [!State.abandon_inv, !State.setGroup_inv, !State.setLockWord_inv, !State.deliver_inv]

theorem execHolderReturn_inv {n : Nat} {s : State} (h : s.Inv) : OutcomeInv (execHolderReturn n s) := by
  unfold execHolderReturn
  grind [!State.huskReach_inv, !State.holderAsks_inv, OutcomeInv]

theorem execHuskPurge_inv {key : DWord} {s : State} (h : s.Inv) : OutcomeInv (execHuskPurge key s) := by
  unfold execHuskPurge
  grind [!State.purge_inv, OutcomeInv]

/-! ### Recipes and special registers (R149 to R190) -/

theorem execMkrcp_inv {hd : Hdr} {vd : BitVec 6} {n : BitVec 3} {s : State} (h : s.Inv) : OutcomeInv (execMkrcp hd vd n s) := by
  unfold execMkrcp
  refine issue_inv h fun c hc => ?_
  grind [!Ctx.fetchWords_inv, !Ctx.pend_inv, !Ctx.setPath_inv, !Ctx.advance_inv, FetchAll.Inv, Res.Inv]

theorem Ctx.rmat_inv {c : Ctx} {i : Instr} {rs : List Nat} {lose : Bool} (h : c.s.Inv) : (c.rmat i rs lose).Inv := by
  unfold Ctx.rmat
  grind [!State.materializeAll_inv, !Ctx.waitRegen_inv, !Ctx.done_inv, !State.setGroup_inv, Regen.Inv, Res.Inv]

theorem execRmat_inv {hd : Hdr} {vd : BitVec 6} {s : State} (h : s.Inv) : OutcomeInv (execRmat hd vd s) := issue_inv h fun _ hc => Ctx.rmat_inv hc

theorem execRmatAll_inv {hd : Hdr} {s : State} (h : s.Inv) : OutcomeInv (execRmatAll hd s) := issue_inv h fun _ hc => Ctx.rmat_inv hc

theorem execRstat_inv {hd : Hdr} {vd va : BitVec 6} {s : State} (h : s.Inv) : OutcomeInv (execRstat hd vd va s) := by
  unfold execRstat
  refine issue_inv h fun c hc => ?_
  grind [!Ctx.commit_inv]

theorem execScopeOpen_inv {hd : Hdr} {vlo vhi : BitVec 6} {s : State} (h : s.Inv) : OutcomeInv (execScopeOpen hd vlo vhi s) := by
  unfold execScopeOpen
  refine issue_inv h fun c hc => ?_
  grind [!Ctx.done_inv, !Ctx.setG_inv, Res.Inv]

theorem execScopeClose_inv {hd : Hdr} {s : State} (h : s.Inv) : OutcomeInv (execScopeClose hd s) := by
  unfold execScopeClose
  refine issue_inv h fun c hc => ?_
  grind [!State.prepareWrite_inv, !Ctx.waitRegen_inv, !Ctx.done_inv, !State.setGroup_inv, Regen.Inv, Res.Inv]

theorem execMfs_inv {hd : Hdr} {vd : BitVec 6} {sr : SReg} {s : State} (h : s.Inv) : OutcomeInv (execMfs hd vd sr s) := by
  unfold execMfs
  refine issue_inv h fun c hc => ?_
  grind [!Ctx.commit_inv]

theorem execMts_inv {hd : Hdr} {vd : BitVec 6} {sr : SReg} {s : State} (h : s.Inv) : OutcomeInv (execMts hd vd sr s) :=
  issue_inv h fun _ hc => Ctx.runEff_inv hc

/-! ### Trap returns, ICINV, decode and fetch faults (R16, R337 to R339) -/

theorem execTrap_inv {hd : Hdr} {imm : BitVec 12} {s : State} (h : s.Inv) : OutcomeInv (execTrap hd imm s) := by
  unfold execTrap
  refine issue_inv h fun c hc => ?_
  grind [!Ctx.done_inv, Res.Inv]

theorem execBkpt_inv {hd : Hdr} {imm : BitVec 12} {s : State} (h : s.Inv) : OutcomeInv (execBkpt hd imm s) := by
  unfold execBkpt
  refine issue_inv h fun c hc => ?_
  grind [!Ctx.done_inv, Res.Inv]

theorem execTret_inv {hd : Hdr} {s : State} (h : s.Inv) : OutcomeInv (execTret hd s) := by
  refine issue_inv h fun c hc => ?_
  split
  · exact Res.inv_trap.mpr hc
  · split
    · exact Res.inv_ok.mpr (State.endGroup_inv hc)
    · exact Res.inv_ok.mpr (Ctx.setG_inv hc)

theorem State.dropCode_inv {s : State} {asid lo hi : Nat} {l : List Nat} (h : s.Inv) : (s.dropCode asid lo hi l).2.Inv := by
  fun_induction State.dropCode s asid lo hi l <;> grind [!State.setGroup_inv, !State.fitRows_inv, !State.materializeAll_inv, Regen.Inv]

theorem State.dropCached_inv {s : State} {asid lo hi : Nat} (h : s.Inv) : (s.dropCached asid lo hi).Inv := h

theorem State.staleCode_inv {s : State} {on : Nat → Bool} {asid lo hi : Nat} (h : s.Inv) : (s.staleCode on asid lo hi).Inv := by
  refine foldl_inv (fun s e hs => ?_) h
  split
  · exact State.setGroup_inv hs
  · exact hs

theorem Ctx.icinv_inv {c : Ctx} {i : Instr} {lo hi : Nat} (h : c.s.Inv) : (c.icinv i lo hi).Inv := by
  unfold Ctx.icinv
  grind [!State.dropCode_inv, !Ctx.done_inv, !State.staleCode_inv, !State.dropCached_inv, !Ctx.askRemote_inv, !Ctx.pend_inv, Regen.Inv, Res.Inv]

theorem execIcinv_inv {hd : Hdr} {an : BitVec 4} {s : State} (h : s.Inv) : OutcomeInv (execIcinv hd an s) := issue_inv h fun _ hc => Ctx.icinv_inv hc

theorem execIcinvAll_inv {hd : Hdr} {s : State} (h : s.Inv) : OutcomeInv (execIcinvAll hd s) := issue_inv h fun _ hc => Ctx.icinv_inv hc

theorem decodeTrap_inv {s : State} {t : Trap} (h : s.Inv) : OutcomeInv (decodeTrap s t) := by
  unfold decodeTrap
  grind [!State.takeTrap_inv, OutcomeInv]

theorem execReservedMajor_inv {w : Word} {s : State} (h : s.Inv) : OutcomeInv (execReservedMajor w s) := decodeTrap_inv h

theorem Ctx.await_inv {c : Ctx} {s : State} {w : Pending} (h : c.s.Inv) (h₁ : s.Inv) : (c.await s w).Inv := by
  unfold Ctx.await
  grind [!Ctx.pend_inv, Res.Inv]

theorem execFetchFault_inv {cause : FetchCause} {s : State} (h : s.Inv) : OutcomeInv (execFetchFault cause s) := by
  unfold execFetchFault
  grind [!decodeTrap_inv, !Ctx.fetchWord_inv, !Ctx.await_inv, OutcomeInv, Fetch.Inv]

/-! ### Chains (R16 to R19) -/

theorem Ctx.fetchChain_inv {c : Ctx} {base k m : Nat} {s : State} (h : s.Inv) : (c.fetchChain base k m s).Inv := by
  fun_induction Ctx.fetchChain c base k m s <;> grind [!Ctx.fetchWord_inv, Fetch.Inv, Members.Inv]

theorem Ctx.secondWord_inv {c : Ctx} {base k : Nat} {s : State} (h : s.Inv) : (c.secondWord base k s).Inv := by
  unfold Ctx.secondWord
  grind [!Ctx.anyWord_inv, Fetch.Inv, Second.Inv]

theorem State.prepareChain_inv {s : State} {n : Nat} {act : Mask} {full : Bool} {l : List Instr} (h : s.Inv) : (s.prepareChain n act full l).Inv := by
  fun_induction State.prepareChain s n act full l <;> grind [!State.setGroup_inv, !State.prepareWrite_inv, Regen.Inv]

/-! ### Launch images (R310, R311) -/

theorem State.hubEntry_inv {s : State} {asid va : Nat} {write : Bool} (h : s.Inv) : (s.hubEntry asid va write).Inv := by
  unfold State.hubEntry
  grind [!State.translateHub_inv, !State.postFault_inv, Chk.Inv]

theorem State.hubPage_inv {s : State} {asid va : Nat} {write : Bool} (h : s.Inv) : (s.hubPage asid va write).Inv := by
  unfold State.hubPage
  grind [!Chk.bind_inv, !State.hubEntry_inv, Chk.Inv]

theorem State.hubAt_inv {s : State} {va pa n : Nat} (h : s.Inv) : (s.hubAt va pa n).Inv := by
  unfold State.hubAt
  grind [Chk.Inv]

theorem State.hubLoad_inv {s : State} {asid va n : Nat} (h : s.Inv) : (s.hubLoad asid va n).Inv := by
  unfold State.hubLoad
  grind [!Chk.bind_inv, !State.hubPage_inv, !State.hubAt_inv, Chk.Inv]

theorem State.hubAsk_inv {s : State} {part asid : Nat} {w : Pending} (h : s.Inv) : (s.hubAsk part asid w).Inv := by
  unfold State.hubAsk
  grind [foldl_inv, !State.sendRead_inv]

theorem State.hubDone_inv {s : State} (h : s.Inv) : (s.hubDone).Inv := h

theorem State.hubWords_inv {s : State} {asid va n : Nat} (h : s.Inv) : (s.hubWords asid va n).Inv := by
  unfold State.hubWords
  grind [!Chk.each_inv, !State.hubLoad_inv]

theorem State.putBlob_inv {s : State} {pa n : Nat} {b : Blob} (h : s.Inv) : (s.putBlob pa n b).Inv := Mem.wf_foldl_set _ _ (Mem.wf_clear _ _ h)

theorem State.hubBlob_inv {s : State} {va pa n : Nat} (h : s.Inv) : (s.hubBlob va pa n).Inv := by
  unfold State.hubBlob
  grind [!Chk.bind_inv, !State.hubAt_inv, Chk.Inv]

theorem State.hubBytes_inv {s : State} {asid k m n j : Nat} {b : Blob} (h : s.Inv) : (s.hubBytes asid k m n j b).Inv := by
  induction k generalizing m n j b s with
  | zero => exact Chk.inv_ok.mpr h
  | succ k ih =>
    unfold State.hubBytes
    split
    · exact Chk.inv_ok.mpr h
    · exact Chk.bind_inv (State.hubPage_inv h) fun pa s1 h1 => Chk.bind_inv (State.hubBlob_inv h1) fun c s2 h2 => ih h2

theorem State.hubRange_inv {s : State} {asid va n : Nat} (h : s.Inv) : (s.hubRange asid va n).Inv := State.hubBytes_inv h

theorem State.hubPut_inv {s : State} {asid k m n j : Nat} {b : Blob} (h : s.Inv) : (s.hubPut asid k m n j b).Inv := by
  induction k generalizing m n j s with
  | zero => exact Chk.inv_ok.mpr h
  | succ k ih =>
    unfold State.hubPut
    split
    · exact Chk.inv_ok.mpr h
    · refine Chk.bind_inv (State.hubPage_inv h) fun pa s1 h1 => ih ?_
      split
      · exact State.putBlob_inv h1
      · exact h1

theorem State.hubStore_inv {s : State} {asid va n : Nat} {b : Blob} (h : s.Inv) : (s.hubStore asid va n b).Inv :=
  Chk.bind_inv (Chk.each_inv (fun _ _ hs => Chk.bind_inv (State.hubPage_inv hs) fun _ _ h1 => Chk.test_inv h1) h) fun _ _ h1 => State.hubPut_inv h1

/-! ### Tillers (R376 to R391) -/

theorem State.load8_inv {s : State} {g : Group} {lane : Nat} {eas : List Nat} (h : s.Inv) : (s.load8 g lane eas).Inv := by
  unfold State.load8
  grind [!Chk.bind_inv, !State.peeks_inv, Chk.Inv]

theorem State.store8_inv {s : State} {g : Group} {ws : List Word8} (h : s.Inv) : (s.store8 g ws).Inv := State.reach_inv h

theorem State.arenaRead_inv {s : State} {g : Group} {lane : Nat} (h : s.Inv) : (s.arenaRead g lane).Inv := by
  unfold State.arenaRead
  grind [!Chk.bind_inv, !State.load8_inv, Chk.Inv]

theorem State.arena_inv {s : State} {g : Group} {lane : Nat} (h : s.Inv) : (s.arena g lane).Inv := by
  unfold State.arena
  grind [!Chk.bind_inv, !State.arenaRead_inv, Chk.Inv]

theorem State.handleRead_inv {s : State} {g : Group} {lane hdr : Nat} (h : s.Inv) : (s.handleRead g lane hdr).Inv := by
  unfold State.handleRead
  grind [!Chk.bind_inv, !State.arenaRead_inv, !State.load8_inv, Chk.Inv]

theorem State.handle_inv {s : State} {g : Group} {lane hdr : Nat} (h : s.Inv) : (s.handle g lane hdr).Inv := by
  unfold State.handle
  grind [!Chk.bind_inv, !State.handleRead_inv, Chk.Inv]

theorem execMark_inv {hd : Hdr} {tag : BitVec 8} {off : Word} {s : State} (h : s.Inv) : OutcomeInv (execMark hd tag off s) := by
  refine issue_inv h fun c hc => ?_
  dsimp only
  split
  · exact Ctx.done_inv hc
  · refine Ctx.withForm_inv hc fun s view hs => Ctx.clean_inv hs (Chk.res_inv hc ?_ fun acc s3 h3 => Ctx.mayStore_inv h3 <|
      Ctx.writeThen_inv hc (Ctx.stores_inv h3) fun s4 h4 => Ctx.done_inv h4)
    exact Chk.bind_inv (Chk.test_inv hs) fun _ s1 h1 => Chk.bind_inv (Chk.each_inv (fun _ _ => State.callCheck_inv) h1) fun _ s2 h2 =>
      State.writeFrames_inv h2

theorem State.unmarkCheck_inv {s : State} {g : Group} {tag lane : Nat} (h : s.Inv) : (s.unmarkCheck g tag lane).Inv := by
  unfold State.unmarkCheck
  grind [!Chk.bind_inv, !Chk.test_inv, !State.stackAligned_inv, !State.peek_inv, Chk.Inv]

theorem execUnmark_inv {hd : Hdr} {tag : BitVec 8} {s : State} (h : s.Inv) : OutcomeInv (execUnmark hd tag s) := by
  unfold execUnmark
  refine issue_inv h fun c hc => ?_
  grind [!Ctx.done_inv, !Ctx.withForm_inv, !Ctx.clean_inv, !Chk.res_inv, !Chk.each_inv, !State.unmarkCheck_inv, !Ctx.writeThen_inv]

theorem State.cutWalk_inv {g : Group} {lane tag k m n : Nat} {l : Option (Nat × Frame)} {l' : List Nat} {s : State} (h : s.Inv) :
    (s.cutWalk g lane tag k m n l l').Inv := by
  induction k generalizing m n l l' s with
  | zero => exact Chk.inv_trap.mpr h
  | succ k ih =>
    refine Chk.bind_inv (State.readFrame_inv h) fun f s1 h1 => ?_
    grind [Chk.Inv]

theorem State.cutLane_inv {s : State} {g : Group} {a : Option Arena} {tag lane : Nat} (h : s.Inv) : (s.cutLane g a tag lane).Inv := by
  refine Chk.bind_inv (Chk.test_inv h) fun _ s1 h1 => Chk.bind_inv (Chk.test_inv h1) fun _ s1 h1 => Chk.bind_inv (Chk.test_inv h1) fun _ s1 h1 =>
    Chk.bind_inv (State.cutWalk_inv h1) fun w s2 h2 => Chk.bind_inv (Chk.test_inv h2) fun _ s3 h3 => Chk.bind_inv (Chk.test_inv h3) fun _ s3 h3 =>
    Chk.bind_inv (Chk.test_inv h3) fun _ s3 h3 => Chk.bind_inv (State.load8_inv h3) fun data s4 h4 => ?_
  split
  · exact Chk.inv_trap.mpr h4
  · exact Chk.inv_ok.mpr h4

theorem State.popSlots_inv {g : Group} {lane k m : Nat} {a : Arena} {s : State} (h : s.Inv) : (s.popSlots g lane a k m).Inv := by
  fun_induction State.popSlots g lane a k m s <;> grind [!Chk.bind_inv, !State.load8_inv, Chk.Inv]

theorem execCut_inv {hd : Hdr} {tag : BitVec 8} {vd : BitVec 6} {regmask : Word} {s : State} (h : s.Inv) :
    OutcomeInv (execCut hd tag vd regmask s) := by
  refine issue_inv h fun c hc => ?_
  dsimp only
  split
  · exact Ctx.done_inv hc
  · refine Ctx.withForm_inv hc fun s view hs => Ctx.clean_inv hs (Chk.res_inv hc ?_ fun r s7 h7 => Ctx.mayStore_inv h7 <|
      Ctx.writeThen_inv hc h7 fun s8 h8 => Res.inv_ok.mpr (State.endSafe_inv (Ctx.setG_inv (Ctx.stores_inv h8))))
    exact Chk.bind_inv (State.arena_inv hs) fun a s1 h1 => Chk.bind_inv (Chk.each_inv (fun _ _ => State.cutLane_inv) h1) fun cuts s2 h2 =>
      Chk.bind_inv (Chk.test_inv h2) fun _ s3 h3 => Chk.bind_inv (Chk.test_inv h3) fun _ s4 h4 => Chk.bind_inv (State.popSlots_inv h4) fun pops s5 h5 =>
      Chk.bind_inv (State.store8_inv h5) fun acc s6 h6 => Chk.inv_ok.mpr h6

theorem State.graftSlot_inv {s : State} {g : Group} {lane hdr : Nat} {pinned : Bool} (h : s.Inv) : (s.graftSlot g lane hdr pinned).Inv := by
  unfold State.graftSlot
  grind [!Chk.bind_inv, !State.arena_inv, !State.handle_inv, Chk.Inv]

theorem State.graftLane_inv {s : State} {g : Group} {vh : BitVec 6} {pinned : Bool} {lane : Nat} (h : s.Inv) :
    (s.graftLane g vh pinned lane).Inv := by
  refine Chk.bind_inv (State.graftSlot_inv h) fun v s1 h1 => ?_
  match v with
  | none => exact Chk.inv_trap.mpr h1
  | some (a, k) =>
    exact Chk.bind_inv (Chk.test_inv h1) fun _ s2 h2 => Chk.bind_inv (Chk.test_inv h2) fun _ s2 h2 => Chk.bind_inv (State.load8_inv h2) fun w s3 h3 =>
      Chk.bind_inv (Chk.test_inv h3) fun _ s3 h3 => Chk.bind_inv (Chk.test_inv h3) fun _ s3 h3 => Chk.bind_inv (Chk.test_inv h3) fun _ s3 h3 =>
      Chk.bind_inv (State.stackAligned_inv h3) fun _ s3 h3 => Chk.bind_inv (State.load8_inv h3) fun regs s4 h4 =>
      Chk.bind_inv (State.load8_inv h4) fun data s5 h5 => Chk.inv_ok.mpr h5

theorem State.writeGiven_inv {s : State} {n : Nat} {gs : List Given} (h : s.Inv) : (s.writeGiven n gs).Inv := by
  unfold State.writeGiven
  grind [!State.materializeAll_inv, !State.setGroup_inv, Regen.Inv]

theorem State.slotWords_inv {s : State} {g : Group} {lane : Nat} {a : Arena} {ks : List Nat} (h : s.Inv) : (s.slotWords g lane a ks).Inv := by
  unfold State.slotWords
  grind [!Chk.each_inv, !State.load8_inv]

theorem Ctx.graftCheck_inv {c : Ctx} {view : Group} {vh : BitVec 6} {s : State} (h : s.Inv) : (c.graftCheck view vh s).Inv := by
  refine Chk.bind_inv (Chk.each_inv (fun _ _ => State.graftLane_inv) h) fun ts s1 h1 => Chk.bind_inv (Chk.test_inv h1) fun _ s2 h2 => ?_
  dsimp only
  split
  · exact Chk.inv_trap.mpr h2
  · exact Chk.bind_inv (State.store8_inv h2) fun acc s3 h3 => Chk.bind_inv (State.arena_inv h3) fun a s4 h4 =>
      Chk.bind_inv (State.slotWords_inv h4) fun ps s5 h5 => Chk.bind_inv (State.store8_inv h5) fun unit s6 h6 => Chk.inv_ok.mpr h6

theorem execGraft_inv {hd : Hdr} {vh : BitVec 6} {s : State} (h : s.Inv) : OutcomeInv (execGraft hd vh s) := by
  unfold execGraft
  refine issue_inv h fun c hc => ?_
  grind [!Ctx.done_inv, !Ctx.withForm_inv, !Ctx.clean_inv, !Chk.res_inv, !Ctx.graftCheck_inv, !Ctx.mayStore_inv, !Ctx.setPath_inv, !Ctx.stores_inv,
    !State.writeGiven_inv, !Ctx.setG_inv, !Ctx.waitRegen_inv, Res.Inv, Regen.Inv]

theorem State.dropCheck_inv {g : Group} {vh : BitVec 6} {l l' : List Nat} {s : State} (h : s.Inv) : (s.dropCheck g vh l l').Inv := by
  induction l generalizing l' s with
  | nil => exact Chk.inv_ok.mpr h
  | cons i rest ih =>
    refine Chk.bind_inv (State.handle_inv h) fun v s1 h1 => ?_
    match v with
    | none => exact Chk.inv_trap.mpr h1
    | some (a, k) =>
      dsimp only
      split
      · exact Chk.inv_trap.mpr h1
      · exact Chk.bind_inv (ih h1) fun r s2 h2 => Chk.inv_ok.mpr h2

theorem State.dropAll_inv {s : State} {g : Group} {lane : Nat} {xs : List (Arena × Nat)} (h : s.Inv) : (s.dropAll g lane xs).Inv := by
  unfold State.dropAll
  grind [!Chk.bind_inv, !State.arena_inv, !Chk.each_inv, !State.load8_inv, !State.store8_inv]

theorem execTdrop_inv {hd : Hdr} {vh : BitVec 6} {s : State} (h : s.Inv) : OutcomeInv (execTdrop hd vh s) := by
  unfold execTdrop
  refine issue_inv h fun c hc => ?_
  grind [!Ctx.done_inv, !Ctx.withForm_inv, !Ctx.clean_inv, !Chk.res_inv, !Chk.bind_inv, !State.dropCheck_inv, !State.dropAll_inv, !Ctx.mayStore_inv,
    !State.endSafe_inv, !Ctx.stores_inv]

theorem State.infoLane_inv {s : State} {g : Group} {vh : BitVec 6} {lane : Nat} (h : s.Inv) : (s.infoLane g vh lane).Inv := by
  unfold State.infoLane
  grind [!Chk.bind_inv, !State.handleRead_inv, !State.load8_inv, Chk.Inv]

theorem execTinfo_inv {hd : Hdr} {vd vh : BitVec 6} {s : State} (h : s.Inv) : OutcomeInv (execTinfo hd vd vh s) := by
  unfold execTinfo
  refine issue_inv h fun c hc => ?_
  grind [!Ctx.done_inv, !Ctx.withForm_inv, !Ctx.clean_inv, !Chk.res_inv, !Chk.each_inv, !State.infoLane_inv, !Ctx.writeThen_inv]

/-! ### Saved contexts (R342 to R348) -/

theorem State.spillStack_inv {s : State} {l : Launch} {g : Group} (h : s.Inv) : (s.spillStack l g).Inv := State.putEntries_inv h

theorem State.foldWait_inv {s : State} {n r : Nat} {g : Group} {pages : List Nat} (h : s.Inv) : (s.foldWait n g r pages).Inv := by
  unfold State.foldWait
  grind [!State.setGroup_inv]

theorem State.codeHolds_inv {s : State} {asid k : Nat} {l : List Word} (h : s.Inv) : (s.codeHolds asid k l).2.Inv := by
  fun_induction State.codeHolds s asid k l <;> grind [!State.readVA_inv]

theorem State.foldBack_inv {s : State} {asid core n : Nat} {rc : Recipe} (h : s.Inv) : (s.foldBack asid core n rc).Inv := by
  unfold State.foldBack
  grind [!State.codeHolds_inv, !State.setGroup_inv, !State.materialize_inv, !State.fitRows_inv, !State.foldWait_inv, !State.pendFor_inv, Regen.Inv]

/-! ### The dispatch hub (R271, R314 to R325) -/

theorem checked_inv {b : Bool} {n : Nat} {s : State} (h : s.Inv) : (checked b n s).Inv := Chk.test_inv h

theorem State.readPod_inv {s : State} {asid : Nat} {hdr : Header} (h : s.Inv) : (s.readPod asid hdr).Inv := by
  unfold State.readPod
  grind [!Chk.bind_inv, !checked_inv, !State.hubWords_inv, !Chk.each_inv, !State.hubLoad_inv, Chk.Inv]

theorem State.readGroup_inv {s : State} {asid width gid acc gsize : Nat} {hdr : Header} (h : s.Inv) :
    (s.readGroup asid hdr width gid acc gsize).Inv := by
  unfold State.readGroup
  grind [!Chk.bind_inv, !State.hubRange_inv, Chk.Inv]

theorem State.readTeam_inv {s : State} {asid launch va : Nat} {hdr : Header} {nodes : List NodeRec} (h : s.Inv) :
    (s.readTeam asid launch hdr nodes va).Inv := by
  refine Chk.bind_inv (checked_inv h) fun _ s1 h1 => Chk.bind_inv (State.hubWords_inv h1) fun w s2 h2 => ?_
  dsimp only
  split
  · exact Chk.inv_trap.mpr h2
  · refine Chk.bind_inv (checked_inv h2) fun _ s3 h3 => Chk.bind_inv ?_ fun lm s4 h4 => Chk.bind_inv ?_ fun cs s5 h5 =>
      Chk.bind_inv (Chk.each_inv (fun _ _ => State.readGroup_inv) h5) fun gs s6 h6 => Chk.inv_ok.mpr h6
    · grind [!State.hubRange_inv, Chk.Inv]
    · grind [!State.hubRange_inv, Chk.Inv]

theorem State.readContexts_inv {s : State} {asid launch : Nat} {hdr : Header} {nodes : List NodeRec} (h : s.Inv) :
    (s.readContexts asid launch hdr nodes).Inv := by
  unfold State.readContexts
  split
  · exact Chk.inv_ok.mpr h
  · exact Chk.bind_inv (checked_inv h) fun _ s1 h1 => Chk.bind_inv (State.hubWords_inv h1) fun w s2 h2 => Chk.bind_inv (checked_inv h2) fun _ s3 h3 =>
      Chk.bind_inv (State.hubRange_inv h3) fun cs s4 h4 => Chk.bind_inv (Chk.each_inv (fun _ _ => State.hubLoad_inv) h4) fun st s5 h5 =>
      Chk.bind_inv (checked_inv h5) fun _ s6 h6 => Chk.bind_inv (State.hubWords_inv h6) fun vas s7 h7 =>
      Chk.bind_inv (Chk.each_inv (fun _ _ => State.readTeam_inv) h7) fun ts s8 h8 => Chk.bind_inv (checked_inv h8) fun _ s9 h9 => Chk.inv_ok.mpr h9

theorem State.writable_inv {s : State} {asid va n : Nat} {here : Bool} (h : s.Inv) : (s.writable asid va n here).Inv := by
  unfold State.writable
  grind [!Chk.bind_inv, !Chk.each_inv, !State.hubEntry_inv, !checked_inv, Chk.Inv]

theorem State.readImage_inv {s : State} {asid launch img : Nat} {parent : Option Nat} (h : s.Inv) : (s.readImage asid launch img parent).Inv := by
  refine Chk.bind_inv (State.hubWords_inv h) fun w s1 h1 => Chk.bind_inv (checked_inv h1) fun _ s1 h1 =>
    Chk.bind_inv (Chk.each_inv (fun _ _ => State.hubWords_inv) h1) fun recs s2 h2 => Chk.bind_inv (checked_inv h2) fun _ s2 h2 =>
    Chk.bind_inv (Chk.each_inv (fun _ _ hs => Chk.each_inv (fun _ _ => State.hubLoad_inv) hs) h2) fun succs s3 h3 => Chk.bind_inv (checked_inv h3) fun _ s3 h3 =>
    Chk.bind_inv (checked_inv h3) fun _ s3 h3 => Chk.bind_inv (Chk.each_inv (fun _ _ => State.hubWords_inv) h3) fun sw s4 h4 =>
    Chk.bind_inv (checked_inv h4) fun _ s4 h4 => Chk.bind_inv (checked_inv h4) fun _ s4 h4 => Chk.bind_inv (checked_inv h4) fun _ s4 h4 =>
    Chk.bind_inv (checked_inv h4) fun _ s4 h4 => Chk.bind_inv ?arena fun _ s5 h5 => Chk.bind_inv (checked_inv h5) fun _ s5 h5 =>
    Chk.bind_inv (State.readContexts_inv h5) fun rs s6 h6 => Chk.bind_inv (checked_inv h6) fun _ s6 h6 => Chk.bind_inv (State.writable_inv h6) fun _ s6 h6 =>
    Chk.bind_inv (State.writable_inv h6) fun _ s6 h6 => Chk.bind_inv (State.writable_inv h6) fun _ s6 h6 =>
    Chk.bind_inv (State.readPod_inv h6) fun pod s7 h7 => Chk.inv_ok.mpr h7
  case arena =>
    split
    · exact Chk.inv_ok.mpr h4
    · exact Chk.bind_inv (State.hubWords_inv h4) fun a s5 h5 => checked_inv h5

theorem State.hubWrite_inv {s : State} {asid va v : Nat} (h : s.Inv) : (s.hubWrite asid va v).Inv := by
  unfold State.hubWrite
  grind [!Chk.bind_inv, !State.hubPage_inv, !State.writePA_inv, Chk.Inv]

theorem State.sheafNote_inv {s : State} {what info : Nat} (h : s.Inv) : (s.sheafNote what info).Inv := h

theorem State.hubSend_inv {s : State} {part pa v : Nat} {o : MemOp} {what : RemoteFor} (h : s.Inv) : OptInv (s.hubSend part o pa v what) :=
  optInv_map fun _ => State.noteWrite_inv (State.enqueue_inv (State.freshTag_inv h))

theorem State.sendWord_inv {s : State} {x : Nat × Nat × Nat × Nat} (h : s.Inv) : (s.sendWord x).Inv := by
  unfold State.sendWord
  split
  · exact h
  · exact optInv_getD (State.hubSend_inv h) (State.sheafNote_inv h)

theorem State.sendWords_inv {s : State} (h : s.Inv) : (s.sendWords).Inv := by
  unfold State.sendWords
  grind [foldl_inv, !State.sendWord_inv]

theorem State.signalOp_inv {s : State} {part asid va v : Nat} {op : AtomOp} {msix : Option Nat} (h : s.Inv) :
    OptInv (s.signalOp part asid va op v msix) := by
  unfold State.signalOp
  grind [!State.translateHub_inv, !State.writePA_inv, !State.hubSend_inv, OptInv]

theorem State.refuse_inv {s : State} {asid img reason : Nat} (h : s.Inv) : (s.refuse asid img reason).Inv := by
  unfold State.refuse
  grind [!State.hubWrite_inv, !State.sheafNote_inv, Chk.Inv]

theorem State.refuseNow_inv {s : State} {asid img reason : Nat} (h : s.Inv) : (s.refuseNow asid img reason).Inv := by
  unfold State.refuseNow
  grind [!State.refuse_inv, !State.sheafNote_inv, Chk.Inv]

theorem State.accept_inv {s : State} {r : ImageRead} {asid part queue img q : Nat} {parent msix : Option Nat} (h : s.Inv) :
    (s.accept r asid part queue img parent q msix).Inv := by
  unfold State.accept
  grind [!State.setLaunch_inv]

theorem State.rootFrames_inv {s : State} {l : Launch} {slot width : Nat} (h : s.Inv) : (s.rootFrames l slot width).Inv :=
  foldl_inv (fun _ _ hs => optInv_getD (State.writeVA_inv hs) hs) h

theorem State.rampTake_inv {s : State} (h : s.Inv) : (s.rampTake).Inv := by
  unfold State.rampTake
  grind

theorem State.countLatency_inv {s : State} {queue n : Nat} (h : s.Inv) : (s.countLatency queue n).Inv := h

theorem State.warmTiles_inv {s : State} {core asid : Nat} {r : NodeRec} (h : s.Inv) : (s.warmTiles core asid r).Inv := by
  unfold State.warmTiles
  grind [foldl_inv, !State.warmCode_inv]

theorem State.placeFresh_inv {s : State} {k n core : Nat} (h : s.Inv) : OptInv (s.placeFresh k n core) := by
  refine optInv_bind fun l => optInv_bind fun r => optInv_bind fun x => optInv_bind fun slots => optInv_bind fun base => ?_
  dsimp only
  split
  · exact optInv_none
  · split
    · exact optInv_none
    · exact optInv_some.mpr (State.rampTake_inv (State.warmTiles_inv (State.countLatency_inv (foldl_inv (fun _ _ hs => State.rootFrames_inv hs) h))))

theorem State.restoreGroup_inv {s : State} {core team hwslot asid : Nat} {g : Group} (h : s.Inv) : (s.restoreGroup core team hwslot asid g).Inv := h

theorem State.foldGroups_inv {s : State} {core asid n0 : Nat} {gs : List Group} (h : s.Inv) : (s.foldGroups core asid n0 gs).Inv := by
  unfold State.foldGroups
  grind [foldl_inv, !State.foldBack_inv]

theorem State.restoreGroups_inv {s : State} {core team asid : Nat} {l : List (Group × Nat)} (h : s.Inv) :
    OptInv (s.restoreGroups core team asid l) := by
  induction l generalizing s with
  | nil => exact optInv_some.mpr h
  | cons x rest ih => exact optInv_bind fun g => ih (State.restoreGroup_inv h)

theorem State.placeSaved_inv {s : State} {k core : Nat} (h : s.Inv) : OptInv (s.placeSaved k core) := by
  refine optInv_bind fun x => optInv_bind fun l => optInv_bind fun r => ?_
  dsimp only
  split
  · exact optInv_none
  · refine optInv_bind fun base => ?_
    split
    · exact optInv_none
    · refine optInv_bind_state (State.restoreGroups_inv (State.setTeam_inv (State.staleCode_inv h))) fun s2 h2 => ?_
      split
      · exact optInv_none
      · exact optInv_some.mpr (State.rampTake_inv (State.setLaunch_inv (State.foldGroups_inv h2)))

theorem State.place_inv {s : State} {core : Nat} {i : Item} (h : s.Inv) : OptInv (s.place core i) := by
  unfold State.place
  grind [!State.placeFresh_inv, !State.placeSaved_inv, OptInv]

theorem State.placeAll_inv {cores : List Nat} {l : List Item} {s : State} (h : s.Inv) : OptInv (s.placeAll cores l) := by
  induction l generalizing s with
  | nil => exact optInv_some.mpr h
  | cons i rest ih => exact optInv_findSome (fun c => optInv_bind_state (State.place_inv h) fun s1 h1 => ih h1) cores

theorem State.takeItem_inv {s : State} {core : Nat} {i : Item} (h : s.Inv) : OptInv (s.takeItem core i) := by
  unfold State.takeItem
  split
  · exact optInv_none
  · dsimp only
    split
    · exact optInv_none
    · exact optInv_bind_state (State.place_inv h) fun s1 h1 => State.placeAll_inv h1

theorem State.enterPool_inv {s : State} (h : s.Inv) : (s.enterPool).Inv := by
  unfold State.enterPool
  grind [foldl_inv, !State.setLaunch_inv]

theorem State.setCore_inv {s : State} {n : Nat} {c : CoreSt} (h : s.Inv) : (s.setCore n c).Inv := h

theorem State.lend_inv {s : State} {core owner : Nat} (h : s.Inv) : OptInv (s.lend core owner) := by
  unfold State.lend
  split
  · exact optInv_none
  · exact optInv_bind fun i => optInv_bind fun l => State.takeItem_inv (State.setCore_inv h)

theorem State.cfgApply_inv {s : State} {core : Nat} (h : s.Inv) : (s.cfgApply core).Inv := by
  unfold State.cfgApply
  grind [foldl_inv, !State.setPart_inv]

theorem execDispatchDecision_inv {core : Nat} {s : State} (h : s.Inv) : OutcomeInv (execDispatchDecision core s) := by
  have hcfg := State.cfgApply_inv (core := core) h
  have htake := fun i => optInv_getD (State.takeItem_inv (core := core) (i := i) hcfg) hcfg
  have hlend := optInv_getD (optInv_bind fun p => State.lend_inv (core := core) (owner := p) hcfg) hcfg (o := ((s.cfgApply core).ownerOf core).bind _)
  unfold execDispatchDecision
  grind [!State.setCore_inv, OutcomeInv]

theorem execContextResume_inv {k core : Nat} {s : State} (h : s.Inv) : OutcomeInv (execContextResume k core s) := by
  have htake := optInv_getD (State.takeItem_inv (core := core) (i := .saved k) h) h
  unfold execContextResume
  grind [OutcomeInv]

theorem State.told_inv {s : State} {k n : Nat} {l : Launch} (h : s.Inv) : (s.told k l n).Inv := h

theorem State.tellRecord_inv {s : State} {k : Nat} {l : Launch} (h : s.Inv) : (s.tellRecord k l).Inv := by
  unfold State.tellRecord
  grind [!State.told_inv, !State.hubStore_inv, Chk.Inv]

theorem State.tellStatus_inv {s : State} {k : Nat} {l : Launch} (h : s.Inv) : (s.tellStatus k l).Inv := by
  unfold State.tellStatus
  grind [!State.told_inv, !State.hubWrite_inv, !State.sheafNote_inv, Chk.Inv]

theorem State.tellSignal_inv {s : State} {k : Nat} {l : Launch} (h : s.Inv) : (s.tellSignal k l).Inv := by
  unfold State.tellSignal
  grind [!State.told_inv, !State.hubEntry_inv, !State.sheafNote_inv, !State.signalOp_inv, Chk.Inv, OptInv]

theorem State.leave_inv {s : State} {k : Nat} {l : Launch} (h : s.Inv) : (s.leave k l).Inv := by
  unfold State.leave
  grind [!State.setLaunch_inv]

theorem State.complete_inv {s : State} {k m : Nat} (h : s.Inv) : (s.complete k m).Inv := by
  fun_induction State.complete s k m <;> grind [!State.tellRecord_inv, !State.tellStatus_inv, !State.tellSignal_inv, !State.leave_inv]

theorem execLaunchComplete_inv {k : Nat} {s : State} (h : s.Inv) : OutcomeInv (execLaunchComplete k s) := by
  unfold execLaunchComplete
  grind [!State.complete_inv, OutcomeInv]

theorem execLaunch_inv {hd : Hdr} {vp : BitVec 6} {prio : BitVec 8} {s : State} (h : s.Inv) : OutcomeInv (execLaunch hd vp prio s) := by
  unfold execLaunch
  refine issue_inv h fun c hc => ?_
  grind [!Ctx.withForm_inv, !Ctx.done_inv, !Ctx.sleep_inv, !State.endSafe_inv, Res.Inv]

theorem State.answerLaunch_inv {s : State} {n q : Nat} {g : Group} {slot : SlotId} {img : DWord} (h : s.Inv) :
    (s.answerLaunch n g slot img q).Inv := by
  unfold State.answerLaunch
  grind [!State.readImage_inv, !State.wake_inv, !State.accept_inv, !State.hubDone_inv, !State.refuse_inv, !State.wakeTrap_inv, !State.hubAsk_inv,
    Chk.Inv]

theorem execLaunchAccept_inv {n : Nat} {s : State} (h : s.Inv) : OutcomeInv (execLaunchAccept n s) := by
  unfold execLaunchAccept
  grind [!State.answerLaunch_inv, OutcomeInv]

theorem State.podAsk_inv {s : State} {n pa phase seen : Nat} {l : Launch} (h : s.Inv) : (s.podAsk n l pa phase seen).Inv := by
  unfold State.podAsk
  grind [!State.freshTag_inv, !State.noteWrite_inv, !State.enqueue_inv]

theorem State.podCounted_inv {s : State} {n w : Nat} {t : Team} {arrive : Bool} (h : s.Inv) : (s.podCounted n t arrive w).Inv := h

theorem State.podRelease_inv {s : State} {n : Nat} {t : Team} (h : s.Inv) : (s.podRelease n t).Inv := by
  unfold State.podRelease
  grind [foldl_inv, !State.setTeam_inv, !State.setGroup_inv]

theorem State.podPA_inv {s : State} {l : Launch} (h : s.Inv) : (s.podPA l).2.Inv := by
  unfold State.podPA
  grind [!State.translateHub_inv, !State.postFault_inv]

theorem State.podAnswer_inv {s : State} {n phase seen v : Nat} (h : s.Inv) : (s.podAnswer n phase seen v).Inv := by
  unfold State.podAnswer
  grind [!State.podPA_inv, !State.podRelease_inv, !State.podAsk_inv, !State.podCounted_inv]

theorem execPodBarrierUpdate_inv {n : Nat} {s : State} (h : s.Inv) : OutcomeInv (execPodBarrierUpdate n s) := by
  unfold execPodBarrierUpdate
  grind [!State.podPA_inv, !State.podAsk_inv, !State.podCounted_inv, !State.writePA_inv, OutcomeInv]

theorem execPodBarrierRelease_inv {n : Nat} {s : State} (h : s.Inv) : OutcomeInv (execPodBarrierRelease n s) := by
  unfold execPodBarrierRelease
  grind [!State.podPA_inv, !State.podAsk_inv, !State.podRelease_inv, OutcomeInv]

/-! ### User queues (R319 to R322, R330) -/

theorem State.setQslot_inv {s : State} {n : Nat} {x : QSlot} (h : s.Inv) : (s.setQslot n x).Inv := h

theorem State.setQword_inv {s : State} {q k v : Nat} (h : s.Inv) : (s.setQword q k v).Inv := State.writePA_inv h

theorem State.setQFlag_inv {s : State} {q k : Nat} {on : Bool} (h : s.Inv) : (s.setQFlag q k on).Inv := by
  unfold State.setQFlag
  grind [!State.setQword_inv]

theorem State.queueStop_inv {s : State} {q err : Nat} (h : s.Inv) : (s.queueStop q err).Inv := State.setQword_inv (State.setQFlag_inv h)

theorem State.applyPrio_inv {s : State} {slot q : Nat} (h : s.Inv) : (s.applyPrio slot q).Inv := by
  unfold State.applyPrio
  grind [foldl_inv, !State.setQslot_inv, !State.setLaunch_inv]

theorem execDoorbell_inv {fn : Nat} {queue : BitVec 12} {s : State} (h : s.Inv) : OutcomeInv (execDoorbell fn queue s) := by
  unfold execDoorbell
  grind [!State.applyPrio_inv, !State.setQFlag_inv, OutcomeInv]

theorem State.mapQueue_inv {s : State} {k q : Nat} (h : s.Inv) : (s.mapQueue k q).Inv := by
  unfold State.mapQueue
  grind [!State.setQFlag_inv, !State.setQslot_inv, !State.applyPrio_inv]

theorem execQueueMap_inv {q : Nat} {s : State} (h : s.Inv) : OutcomeInv (execQueueMap q s) := by
  unfold execQueueMap
  grind [!State.queueStop_inv, !State.setQFlag_inv, !State.mapQueue_inv, OutcomeInv]

theorem State.packetWords_inv {s : State} {q : Nat} (h : s.Inv) : (s.packetWords q).Inv := State.hubWords_inv h

theorem State.acceptPacket_inv {s : State} {p : Packet} (h : s.Inv) : (s.acceptPacket p).Inv := State.setQword_inv h

theorem State.finishPacket_inv {s : State} {p : Packet} (h : s.Inv) : (s.finishPacket p).Inv := by
  unfold State.finishPacket
  grind [!State.acceptPacket_inv]

theorem State.onPacket_inv {s : State} {slot : Nat} {mine : Nat → Bool} {body : Packet → State → State} (h : s.Inv)
    (h₁ : ∀ p s, s.Inv → (body p s).Inv) : (s.onPacket slot mine body).Inv := by
  unfold State.onPacket
  grind [!State.queueStop_inv, !State.packetWords_inv, !State.hubAsk_inv, !State.hubDone_inv, Chk.Inv]

theorem execPacketNop_inv {slot : Nat} {s : State} (h : s.Inv) : OutcomeInv (execPacketNop slot s) := by
  unfold execPacketNop
  grind [!State.onPacket_inv, !State.finishPacket_inv, OutcomeInv]

theorem execPacketLaunch_inv {slot : Nat} {s : State} (h : s.Inv) : OutcomeInv (execPacketLaunch slot s) := by
  unfold execPacketLaunch
  grind [!State.onPacket_inv, !State.readImage_inv, !State.acceptPacket_inv, !State.accept_inv, !State.refuse_inv, !State.hubAsk_inv, Chk.Inv,
    OutcomeInv]

theorem execPacketSignal_inv {slot : Nat} {s : State} (h : s.Inv) : OutcomeInv (execPacketSignal slot s) := by
  unfold execPacketSignal
  grind [!State.onPacket_inv, !State.translateHub_inv, !State.postFault_inv, !State.signalOp_inv, !State.acceptPacket_inv, !State.queueStop_inv,
    OptInv, OutcomeInv]

theorem State.askSignal_inv {s : State} {p : Packet} {pa : Nat} (h : s.Inv) : (s.askSignal p pa).Inv := by
  unfold State.askSignal
  grind [!State.queueStop_inv, !State.freshTag_inv, !State.enqueue_inv]

theorem execPacketWait_inv {slot : Nat} {s : State} (h : s.Inv) : OutcomeInv (execPacketWait slot s) := by
  unfold execPacketWait
  grind [!State.onPacket_inv, !State.translateHub_inv, !State.postFault_inv, !State.queueStop_inv, !State.askSignal_inv, !State.finishPacket_inv,
    OutcomeInv]

theorem State.waitAnswer_inv {s : State} {slot rd v : Nat} (h : s.Inv) : (s.waitAnswer slot rd v).Inv := by
  unfold State.waitAnswer
  grind [!State.onPacket_inv, !State.finishPacket_inv]

theorem execPacketFence_inv {slot : Nat} {s : State} (h : s.Inv) : OutcomeInv (execPacketFence slot s) := by
  unfold execPacketFence
  grind [!State.onPacket_inv, !State.finishPacket_inv, OutcomeInv]

theorem execReservedPacket_inv {slot : Nat} {s : State} (h : s.Inv) : OutcomeInv (execReservedPacket slot s) := by
  unfold execReservedPacket
  grind [!State.onPacket_inv, OutcomeInv]

theorem State.monitorSlot_inv {s : State} {k : Nat} (h : s.Inv) : (s.monitorSlot k).Inv := by
  unfold State.monitorSlot
  grind [!State.setQslot_inv]

theorem execLatencyMonitor_inv {s : State} (h : s.Inv) : OutcomeInv (execLatencyMonitor s) := by
  unfold execLatencyMonitor
  grind [foldl_inv, !State.monitorSlot_inv, OutcomeInv]

/-! ### Stopping contexts (R328, R340, R349) -/

theorem State.poolStore_inv {s : State} {part asid size : Nat} {b : Nat → Blob} {x : Nat × State}
    (h : s.Inv) (hx : s.poolStore part asid size b = some x) : x.2.Inv := by
  obtain ⟨va, _, hstore⟩ := Option.bind_eq_some_iff.mp hx
  split at hstore
  · next s1 heq =>
    cases hstore
    exact Chk.inv_ok.mp (heq ▸ State.hubStore_inv h)
  · cases hstore

theorem State.orphanGroups_inv {s : State} {gs : List (Nat × Group)} (h : s.Inv) : (s.orphanGroups gs).Inv := by
  unfold State.orphanGroups
  grind [foldl_inv, !State.sendOrphan_inv, !State.setGroup_inv]

theorem State.saveTeam_inv {s : State} {n : Nat} {t : Team} (h : s.Inv) : OptInv (s.saveTeam n t) := by
  refine optInv_bind fun l => optInv_bind fun x => ?_
  dsimp only
  cases hpool : s.poolStore l.part l.asid _ _ with
  | none => exact optInv_none
  | some r =>
    exact optInv_some.mpr (State.rampTake_inv (State.setLaunch_inv (State.setTeam_inv
      (foldl_inv (fun _ _ hs => State.spillStack_inv hs) (State.poolStore_inv h hpool)))))

theorem State.haltRest_inv {s : State} {n since : Nat} {ts : List (Nat × Team)} (h : s.Inv) : (s.haltRest n since ts).Inv := by
  unfold State.haltRest
  grind [foldl_inv, !State.setTeam_inv]

theorem execInstructionHalt_inv {n : Nat} {s : State} (h : s.Inv) : OutcomeInv (execInstructionHalt n s) := by
  unfold execInstructionHalt
  grind [!State.orphanGroups_inv, !State.saveTeam_inv, !State.haltRest_inv, OptInv, OutcomeInv]

theorem State.softStop_inv {s : State} {k : Nat} (h : s.Inv) : (s.softStop k).Inv := by
  unfold State.softStop
  grind [!State.setLaunch_inv]

theorem execStopRequest_inv {k : Nat} {s : State} (h : s.Inv) : OutcomeInv (execStopRequest k s) := outcomeInv_next.mpr (State.softStop_inv h)

theorem State.stopDone_inv {s : State} {k : Nat} {l : Launch} (h : s.Inv) : (s.stopDone k l).Inv := by
  have hpool : ∀ size b x, s.poolStore l.part l.asid size b = some x → x.2.Inv := fun _ _ _ => State.poolStore_inv h
  unfold State.stopDone
  grind [!State.complete_inv, !State.hubEntry_inv, !State.hubWrite_inv, !State.setPart_inv, !State.leave_inv, Chk.Inv]

theorem State.graceOver_inv {s : State} {k : Nat} {l : Launch} (h : s.Inv) : (s.graceOver k l).Inv := by
  unfold State.graceOver
  split <;> exact h

theorem execGraceTimer_inv {k : Nat} {s : State} (h : s.Inv) : OutcomeInv (execGraceTimer k s) := by
  unfold execGraceTimer
  grind [!State.stopDone_inv, !State.graceOver_inv, OutcomeInv]

theorem State.killTeam_inv {s : State} {t : Team} (h : s.Inv) : (s.killTeam t).Inv := by
  unfold State.killTeam
  grind [foldl_inv, !State.endGroup_inv]

theorem State.dropSaved_inv {s : State} {k : Nat} (h : s.Inv) : (s.dropSaved k).Inv := by
  unfold State.dropSaved
  grind [foldl_inv, !State.purge_inv, !State.setLaunch_inv]

theorem State.killOne_inv {s : State} {ts : List (Nat × Team)} (h : s.Inv) : (s.killOne ts).Inv := by
  unfold State.killOne
  grind [!State.rampTake_inv, !State.killTeam_inv]

theorem execKillTimer_inv {k : Nat} {s : State} (h : s.Inv) : OutcomeInv (execKillTimer k s) := by
  unfold execKillTimer
  grind [!State.killOne_inv, !State.dropSaved_inv, !State.setLaunch_inv, OutcomeInv]

theorem State.scrub_inv {s : State} {core : Nat} (h : s.Inv) : (s.scrub core).Inv := h

theorem State.emptied_inv {s : State} {core : Nat} (h : s.Inv) : (s.emptied core).Inv := by
  unfold State.emptied
  grind [foldl_inv, !State.setTeam_inv, !State.setCore_inv]

theorem execCoreRevocation_inv {core : Nat} {s : State} (h : s.Inv) : OutcomeInv (execCoreRevocation core s) := by
  unfold execCoreRevocation
  grind [!State.setCore_inv, !State.scrub_inv, OutcomeInv]

theorem execRescueTimeout_inv {part : Nat} {s : State} (h : s.Inv) : OutcomeInv (execRescueTimeout part s) := by
  unfold execRescueTimeout
  grind [!State.setTeam_inv, OutcomeInv]

theorem State.discardTeam_inv {s : State} {n : Nat} {t : Team} (h : s.Inv) : (s.discardTeam n t).Inv := by
  unfold State.discardTeam
  grind [foldl_inv, !State.purge_inv, !State.setTeam_inv, !State.setLaunch_inv]

theorem State.coreErrorTeam_inv {s : State} {n : Nat} {t : Team} (h : s.Inv) : (s.coreErrorTeam n t).Inv := by
  unfold State.coreErrorTeam
  grind [foldl_inv, !State.discardTeam_inv, !State.endGroup_inv]

theorem State.coreError_inv {s : State} {core : Nat} {group : Option Nat} (h : s.Inv) : (s.coreError core group).Inv := by
  unfold State.coreError
  grind [foldl_inv, !State.setCore_inv, !State.rampTake_inv, !State.coreErrorTeam_inv]

theorem execCoreStateError_inv {core : Nat} {group : Option Nat} {s : State} (h : s.Inv) : OutcomeInv (execCoreStateError core group s) :=
  outcomeInv_next.mpr (State.coreError_inv h)

/-! ### Tenant stops (R267, R401) -/

theorem State.hostWrite_inv {s : State} {pa n v : Nat} (h : s.Inv) : (s.hostWrite pa n v).Inv := h

theorem State.clearDirty_inv {s : State} {d : DirtyLeaf} (h : s.Inv) : (s.clearDirty d).Inv := by
  unfold State.clearDirty
  grind [foldl_inv, !State.writePA_inv]

theorem State.dirtyReport_inv {s : State} {part : Nat} (h : s.Inv) : (s.dirtyReport part).Inv := by
  unfold State.dirtyReport
  grind [foldl_inv, !State.clearDirty_inv, !State.invalidate_inv, !State.hostWrite_inv]

theorem State.stopLaunches_inv {s : State} {mine : Launch → Bool} (h : s.Inv) : (s.stopLaunches mine).Inv := by
  unfold State.stopLaunches
  grind [foldl_inv, !State.softStop_inv]

theorem State.sendDrain_inv {s : State} {part dst : Nat} (h : s.Inv) : (s.sendDrain part dst).Inv := by
  unfold State.sendDrain
  grind [foldl_inv, !State.freshTag_inv, !State.enqueue_inv]

theorem State.drainStep_inv {s : State} {part : Nat} (h : s.Inv) : (s.drainStep part).1.Inv := by
  unfold State.drainStep
  grind [foldl_inv, !State.sendDrain_inv, !State.setPart_inv]

theorem State.setTdi_inv {s : State} {vf : Nat} {st : TdiState} (h : s.Inv) : (s.setTdi vf st).Inv := h

theorem State.finishTdi_inv {s : State} {part : Nat} (h : s.Inv) : (s.finishTdi part).Inv := by
  unfold State.finishTdi
  grind [foldl_inv, !State.scrub_inv, !State.setTdi_inv]

theorem State.beginStop_inv {s : State} {part : Nat} (h : s.Inv) : (s.beginStop part).Inv := by
  unfold State.beginStop
  grind [!State.stopLaunches_inv, !State.setPart_inv]

theorem execTenantStop_inv {part : Nat} {s : State} (h : s.Inv) : OutcomeInv (execTenantStop part s) := by
  unfold execTenantStop
  grind [!State.beginStop_inv, !State.drainStep_inv, !State.dirtyReport_inv, !State.hostWrite_inv, !State.finishTdi_inv, !State.setPart_inv,
    OutcomeInv]

theorem execQueueReset_inv {q : Nat} {s : State} (h : s.Inv) : OutcomeInv (execQueueReset q s) := by
  unfold execQueueReset
  grind [!State.stopLaunches_inv, !State.setQFlag_inv, !State.drainStep_inv, !State.setQword_inv, !State.setQslot_inv, OutcomeInv]

/-! ### Events of translation and time (R52 to R66, R425) -/

theorem execPageWalk_inv {asid va : Nat} {write : Bool} {s : State} (h : s.Inv) : OutcomeInv (execPageWalk asid va write s) := by
  unfold execPageWalk
  grind [!State.walkFill_inv, OutcomeInv]

theorem execInvcmd_inv {val : DWord} {s : State} (h : s.Inv) : OutcomeInv (execInvcmd val s) := by
  unfold execInvcmd
  grind [OutcomeInv]

theorem execInvalidationComplete_inv {s : State} (h : s.Inv) : OutcomeInv (execInvalidationComplete s) := by
  unfold execInvalidationComplete
  grind [!State.invalidate_inv, OutcomeInv]

theorem State.refusalFatal_inv {s : State} {asid page img reason : Nat} (h : s.Inv) : OptInv (s.refusalFatal asid page img reason) := by
  unfold State.refusalFatal
  grind [!State.refuseNow_inv, OptInv]

theorem State.imageFatal_inv {s : State} {asid page launch img : Nat} {parent : Option Nat} {x : State × Trap}
    (h : s.Inv) (hx : s.imageFatal asid page launch img parent = some x) : x.1.Inv := by
  unfold State.imageFatal at hx
  split at hx
  · split at hx
    · cases hx
      exact State.refuseNow_inv h
    · cases hx
  · next t _ _ =>
    obtain ⟨s1, hs1, rfl⟩ := Option.map_eq_some_iff.mp hx
    exact optInv_some.mp (hs1 ▸ State.refusalFatal_inv h)
  · cases hx

theorem State.launchFatal_inv {s : State} {asid page n : Nat} {g : Group} (h : s.Inv) : (s.launchFatal asid page n g).Inv := by
  unfold State.launchFatal
  split
  · split
    · next hx => exact State.wakeTrap_inv (State.hubDone_inv (State.imageFatal_inv h hx))
    · exact h
  · exact h

theorem State.queueFatal_inv {s : State} {asid page slot : Nat} (h : s.Inv) : (s.queueFatal asid page slot).Inv := by
  have himage : ∀ img x, s.imageFatal asid page s.launches.length img none = some x → x.1.Inv := fun _ _ => State.imageFatal_inv h
  unfold State.queueFatal
  grind [!State.hubDone_inv, !State.queueStop_inv, !State.acceptPacket_inv]

theorem State.completeFatal_inv {s : State} {asid page k : Nat} (h : s.Inv) : (s.completeFatal asid page k).Inv := by
  unfold State.completeFatal
  grind [!State.told_inv, !State.sheafNote_inv]

theorem State.unresolvable_inv {s : State} {asid page : Nat} (h : s.Inv) : (s.unresolvable asid page).Inv := by
  unfold State.unresolvable
  grind [foldl_inv, !State.launchFatal_inv, !State.setGroup_inv, !State.copyFail_inv, !State.queueFatal_inv, !State.completeFatal_inv]

theorem State.ringWrite_inv {s : State} {part : Nat} {f : PageFault} (h : s.Inv) : (s.ringWrite part f).Inv := by
  unfold State.ringWrite
  grind [!State.hostWrite_inv, !State.setPart_inv]

theorem State.faultTo_inv {s : State} {f : PageFault} {w : FaultAt} (h : s.Inv) : (s.faultTo f w).Inv := h

theorem State.passFault_inv {s : State} {f : PageFault} (h : s.Inv) : (s.passFault f).Inv := by
  unfold State.passFault
  grind [!State.unresolvable_inv, !State.faultTo_inv, !State.ringWrite_inv]

theorem State.drainRing_inv {s : State} {part : Nat} (h : s.Inv) : (s.drainRing part).Inv := by
  unfold State.drainRing
  grind [foldl_inv, !State.faultTo_inv, !State.ringWrite_inv]

theorem State.resolved_inv {s : State} {f : PageFault} (h : s.Inv) : (s.resolved f).Inv := h

theorem State.copyFrame_inv {s : State} {src dst : Nat} (h : s.Inv) : (s.copyFrame src dst).Inv := State.putBlob_inv h

theorem State.zeroFrame_inv {s : State} {dst : Nat} (h : s.Inv) : (s.zeroFrame dst).Inv := State.putBlob_inv h

theorem State.takeFrames_inv {s : State} {part f n : Nat} (h : s.Inv) : (s.takeFrames part f n).Inv := h

theorem State.demandFill_inv {s : State} {pe f : Nat} {e : DWord} (h : s.Inv) : (s.demandFill pe e f).Inv := by
  unfold State.demandFill
  grind [!State.zeroFrame_inv, !State.copyFrame_inv, !State.writePA_inv]

theorem execDemandFault_inv {n pick : Nat} {s : State} (h : s.Inv) : OutcomeInv (execDemandFault n pick s) := by
  unfold execDemandFault
  grind [!State.unresolvable_inv, !State.resolved_inv, !State.passFault_inv, !State.takeFrames_inv, !State.demandFill_inv, OutcomeInv]

theorem execFltrespReplay_inv {part : Nat} {val : DWord} {s : State} (h : s.Inv) : OutcomeInv (execFltrespReplay part val s) := by
  unfold execFltrespReplay
  grind [!State.resolved_inv, OutcomeInv]

theorem execFltrespUnresolvable_inv {part : Nat} {val : DWord} {s : State} (h : s.Inv) : OutcomeInv (execFltrespUnresolvable part val s) := by
  unfold execFltrespUnresolvable
  grind [!State.unresolvable_inv, OutcomeInv]

theorem execFltcfg_inv {part : Nat} {val : DWord} {s : State} (h : s.Inv) : OutcomeInv (execFltcfg part val s) := by
  unfold execFltcfg
  grind [foldl_inv, !State.setPart_inv, !State.unresolvable_inv, OutcomeInv]

theorem execFltcons_inv {part : Nat} {val : DWord} {s : State} (h : s.Inv) : OutcomeInv (execFltcons part val s) := by
  unfold execFltcons
  grind [!State.drainRing_inv, !State.setPart_inv, OutcomeInv]

theorem execFltbase_inv {part : Nat} {val : DWord} {s : State} (h : s.Inv) : OutcomeInv (execFltbase part val s) := by
  unfold execFltbase
  grind [!State.setPart_inv, OutcomeInv]

theorem State.replayPend_inv {s : State} {n : Nat} {g : Group} {w : Pending} (h : s.Inv) : (s.replayPend n g w).Inv := by
  unfold State.replayPend
  grind [!State.setGroup_inv, !State.pendFor_inv]

theorem State.replayRegen_inv {s : State} {n : Nat} {g : Group} {r : BitVec 6} (h : s.Inv) : (s.replayRegen n g r).Inv := by
  unfold State.replayRegen
  grind [!State.materialize_inv, !State.fitAreas_inv, !State.setGroup_inv, !State.replayPend_inv, Regen.Inv]

theorem State.replayEff_inv {s : State} {n : Nat} {g : Group} {e : LogEntry} {r : BitVec 6} (h : s.Inv) : (s.replayEff n g e r).Inv := by
  unfold State.replayEff
  grind [!State.performEff_inv, !State.fitAreas_inv, !State.setGroup_inv, !State.replayPend_inv, Regen.Inv]

theorem State.replayHstore_inv {s : State} {n bytes : Nat} {g : Group} {e : LogEntry} {acc : List (LaneAcc × Nat)} (h : s.Inv) :
    (s.replayHstore n g e bytes acc).Inv := by
  unfold State.replayHstore
  grind [!State.setGroup_inv, !State.endSafe_inv]

theorem State.replayAccess_inv {s : State} {n : Nat} {g : Group} {e : LogEntry} {o : MemOp} {acc : List (LaneAcc × Nat)} (h : s.Inv) :
    (s.replayAccess n g e o acc).Inv := by
  unfold State.replayAccess
  grind [!State.setGroup_inv, !State.prepareWrite_inv, !State.replayPend_inv, !State.perform_inv, !State.endSafe_inv, !State.writeRegs_inv,
    !State.fitAreas_inv, Regen.Inv]

theorem State.replayEntry_inv {s : State} {n : Nat} {g : Group} {e : LogEntry} (h : s.Inv) : (s.replayEntry n g e).Inv := by
  unfold State.replayEntry
  grind [!State.setGroup_inv, !State.resolve_inv, !State.replayHstore_inv, !State.replayAccess_inv, Resolved.Inv]

theorem State.afresh_inv {s : State} {n : Nat} (h : s.Inv) : (s.afresh n).Inv := by
  unfold State.afresh
  split <;> exact h

theorem execOperandLogReplay_inv {n : Nat} {s : State} (h : s.Inv) : OutcomeInv (execOperandLogReplay n s) := by
  unfold execOperandLogReplay
  grind [!State.replayRegen_inv, !State.replayEff_inv, !State.setGroup_inv, !State.afresh_inv, !State.replayEntry_inv, OutcomeInv]

theorem State.follow_inv {s : State} {src dst : Nat} (h : s.Inv) : (s.follow src dst).Inv := by
  unfold State.follow
  grind [foldl_inv, !State.setGroup_inv]

theorem State.moveLeaf_inv {s : State} {asid va pe frame : Nat} {e : DWord} {big : Bool} (h : s.Inv) : (s.moveLeaf asid va pe e big frame).Inv := by
  unfold State.moveLeaf
  grind [foldl_inv, !State.follow_inv, !State.copyFrame_inv, !State.writePA_inv, !State.invalidate_inv, !State.setPart_inv]

theorem execMigration_inv {asid va frame : Nat} {s : State} (h : s.Inv) : OutcomeInv (execMigration asid va frame s) := by
  unfold execMigration
  grind [!State.moveLeaf_inv, !State.invalidate_inv, !State.writePA_inv, !State.takeFrames_inv, OutcomeInv]

theorem execSleepExpiry_inv {n : Nat} {slotB : Bool} {s : State} (h : s.Inv) : OutcomeInv (execSleepExpiry n slotB s) := by
  unfold execSleepExpiry
  grind [!State.setGroup_inv, OutcomeInv]

theorem State.fenceTick_inv {s : State} {n : Nat} {g : Group} (h : s.Inv) : (s.fenceTick n g).Inv := by
  unfold State.fenceTick
  grind [!State.wake_inv]

theorem execHeartbeatTick_inv {s : State} (h : s.Inv) : OutcomeInv (execHeartbeatTick s) := by
  unfold execHeartbeatTick
  grind [foldl_inv, !State.fenceTick_inv, OutcomeInv]

theorem State.corrects_inv {s : State} {k : Nat} (h : s.Inv) : (s.corrects k).Inv := h

theorem State.markBSram_inv {s : State} {core k : Nat} (h : s.Inv) : (s.markBSram core k).Inv := by
  refine foldl_inv (fun s e hs => ?_) h
  split
  · exact State.setGroup_inv hs
  · exact hs

theorem execPatrolScrub_inv {word errors : Nat} {s : State} (h : s.Inv) : OutcomeInv (execPatrolScrub word errors s) := by
  unfold execPatrolScrub
  grind [!State.corrects_inv, !State.markBSram_inv, OutcomeInv]

theorem State.upsetGroup_inv {s : State} {acc : Nat} {f : Group → Group} (h : s.Inv) : (s.upsetGroup acc f).Inv := by
  unfold State.upsetGroup
  split <;> exact h

theorem State.upset_inv {s : State} {u : Nat × Nat × Nat} (h : s.Inv) : (s.upset u).Inv := by
  unfold State.upset
  grind [!State.corrects_inv, !State.upsetGroup_inv, !State.setTeam_inv, !State.markBSram_inv, !State.coreError_inv]

/-! ### Events of the fabric (R115 to R133) -/

theorem State.accepts_inv {s : State} {port type : Nat} {f : Flit} (h : s.Inv) : OptInv (s.accepts port type f) := by
  unfold State.accepts
  grind [!State.setPort_inv, OptInv]

theorem State.drops_inv {s : State} {port : Nat} {noRoom : Bool} (h : s.Inv) : (s.drops port noRoom).Inv := by
  unfold State.drops
  grind [!State.setPort_inv]

theorem State.setChunk_inv {s : State} {c : ChunkIn} {done : Bool} (h : s.Inv) : (s.setChunk c done).Inv := h

theorem State.noteVia_inv {s : State} {type : Nat} {f : Flit} {port : Option Nat} (h : s.Inv) : (s.noteVia type f port).Inv := by
  unfold State.noteVia
  split <;> exact h

theorem State.emit_inv {s : State} {type pa : Nat} {f : Flit} (h : s.Inv) : (s.emit type pa f).Inv := by
  unfold State.emit
  grind [!State.enqueueAs_inv, !State.noteVia_inv]

theorem State.release_inv {s : State} (h : s.Inv) : (s.release).Inv := by
  unfold State.release
  grind [foldl_inv, !State.emit_inv]

theorem State.forward_inv {s : State} {type : Nat} {f : Flit} (h : s.Inv) : (s.forward type f).Inv := by
  unfold State.forward
  grind [!State.emit_inv, !State.setChunk_inv, !State.enqueueAs_inv]

theorem State.answer_inv {s : State} {f : Flit} {type : Nat} {payload : List Byte} (h : s.Inv) : (s.answer f type payload).Inv := State.emit_inv h

theorem State.writeRecords_inv {s : State} {f : Flit} (h : s.Inv) : (s.writeRecords f).Inv := by
  unfold State.writeRecords
  grind [foldl_inv, !State.writePA_inv]

theorem State.atomicRecord_inv {s : State} {pa operand op new : Nat} (h : s.Inv) : (s.atomicRecord pa operand op new).1.Inv := by
  unfold State.atomicRecord
  grind [!State.writePA_inv]

theorem State.atomicRecords_inv {f : Flit} {k m : Nat} {s : State} (h : s.Inv) : (s.atomicRecords f k m).1.Inv := by
  fun_induction State.atomicRecords f k m s <;> grind [!State.atomicRecord_inv]

theorem State.ackDrains_inv {s : State} (h : s.Inv) : (s.ackDrains).Inv := by
  unfold State.ackDrains
  grind [foldl_inv, !State.emit_inv]

theorem State.closeRemote_inv {s : State} {tag : Nat} (h : s.Inv) : (s.closeRemote tag).Inv := h

theorem State.remoteDone_inv {s : State} {n : Nat} {g : Group} {r : RemoteWait} (h : s.Inv) : (s.remoteDone n g r).Inv := by
  unfold State.remoteDone
  grind [!State.setGroup_inv, !State.writeRegs_inv, !State.fitAreas_inv, Regen.Inv]

theorem State.laneAnswer_inv {s : State} {n tag : Nat} {vals : List Got} (h : s.Inv) : (s.laneAnswer n tag vals).Inv := by
  unfold State.laneAnswer
  grind [!State.remoteDone_inv, !State.setGroup_inv]

theorem State.copyAcked_inv {s : State} {tag : Nat} (h : s.Inv) : (s.copyAcked tag).Inv := by
  unfold State.copyAcked
  grind [!State.copyCredit_inv, !State.setCopy_inv]

theorem State.copyBytes_inv {s : State} {tag pa : Nat} {l : List Byte} (h : s.Inv) : (s.copyBytes tag pa l).Inv := by
  unfold State.copyBytes
  split <;> exact h

theorem State.valuesCome_inv {s : State} {tag : Nat} {vals : List Nat} (h : s.Inv) : (s.valuesCome tag vals).Inv := by
  unfold State.valuesCome
  grind [!State.closeRemote_inv, !State.laneAnswer_inv, !State.setGroup_inv, !State.waitAnswer_inv, !State.podAnswer_inv]

theorem State.ackCome_inv {s : State} {tag : Nat} (h : s.Inv) : (s.ackCome tag).Inv := by
  unfold State.ackCome
  grind [!State.closeRemote_inv, !State.laneAnswer_inv, !State.copyAcked_inv]

theorem State.serveChunk_inv {s : State} {f : Flit} (h : s.Inv) : (s.serveChunk f).Inv := by
  unfold State.serveChunk
  grind [foldl_inv, !State.emit_inv]

theorem State.resendChunk_inv {s : State} {tag : Nat} (h : s.Inv) : (s.resendChunk tag).Inv := by
  unfold State.resendChunk
  grind [!State.copyFail_inv, !State.sendBulk_inv, !State.setCopy_inv, OptInv]

theorem State.chunkAnswer_inv {s : State} {c : ChunkIn} (h : s.Inv) : (s.chunkAnswer c).Inv := by
  unfold State.chunkAnswer
  grind [!State.closeRemote_inv, !State.copyBytes_inv, !State.copyFail_inv, !State.setCopy_inv]

theorem State.chunkStore_inv {s : State} {f : Flit} {c : ChunkIn} (h : s.Inv) : (s.chunkStore f c).Inv := by
  unfold State.chunkStore
  split
  · dsimp only
    split
    · exact State.answer_inv (Mem.wf_writeBytes _ _ h)
    · exact h
  · exact State.emit_inv h

theorem State.bulkCome_inv {s : State} {f : Flit} (h : s.Inv) : (s.bulkCome f).Inv := by
  unfold State.bulkCome
  grind [!State.resendChunk_inv, !State.serveChunk_inv, !State.setChunk_inv, !State.ackDrains_inv, !State.chunkAnswer_inv, !State.chunkStore_inv]

theorem State.arrive_inv {s : State} {port type : Nat} {f : Flit} {here : State → State} (h : s.Inv) (h₁ : ∀ s, s.Inv → (here s).Inv) :
    (s.arrive port type f here).Inv := by
  unfold State.arrive
  grind [!State.accepts_inv, !State.drops_inv, !State.forward_inv, OptInv]

theorem execIdle_inv {port : Nat} {f : Flit} {s : State} (h : s.Inv) : OutcomeInv (execIdle port f s) := by
  unfold execIdle
  grind [!State.arrive_inv, OutcomeInv]

theorem execWrite_inv {port : Nat} {f : Flit} {s : State} (h : s.Inv) : OutcomeInv (execWrite port f s) := by
  unfold execWrite
  grind [!State.arrive_inv, !State.answer_inv, !State.writeRecords_inv, OutcomeInv]

theorem execRead_inv {port : Nat} {f : Flit} {s : State} (h : s.Inv) : OutcomeInv (execRead port f s) := by
  unfold execRead
  grind [foldl_inv, !State.arrive_inv, !State.answer_inv, OutcomeInv]

theorem execAtomic_inv {port : Nat} {f : Flit} {s : State} (h : s.Inv) : OutcomeInv (execAtomic port f s) := by
  unfold execAtomic
  grind [!State.arrive_inv, !State.atomicRecords_inv, !State.answer_inv, OutcomeInv]

theorem execReadResp_inv {port : Nat} {f : Flit} {s : State} (h : s.Inv) : OutcomeInv (execReadResp port f s) := by
  unfold execReadResp
  grind [!State.arrive_inv, !State.valuesCome_inv, OutcomeInv]

theorem execAtomicResp_inv {port : Nat} {f : Flit} {s : State} (h : s.Inv) : OutcomeInv (execAtomicResp port f s) := by
  unfold execAtomicResp
  grind [!State.arrive_inv, !State.valuesCome_inv, OutcomeInv]

theorem execAck_inv {port : Nat} {f : Flit} {s : State} (h : s.Inv) : OutcomeInv (execAck port f s) := by
  unfold execAck
  grind [!State.arrive_inv, !State.ackCome_inv, OutcomeInv]

theorem execBulk_inv {port : Nat} {f : Flit} {s : State} (h : s.Inv) : OutcomeInv (execBulk port f s) := by
  unfold execBulk
  grind [!State.arrive_inv, !State.bulkCome_inv, OutcomeInv]

theorem execNak_inv {port : Nat} {f : Flit} {s : State} (h : s.Inv) : OutcomeInv (execNak port f s) := by
  unfold execNak
  grind [!State.arrive_inv, !State.setPort_inv, OutcomeInv]

theorem execDrain_inv {port : Nat} {f : Flit} {s : State} (h : s.Inv) : OutcomeInv (execDrain port f s) := by
  unfold execDrain
  grind [!State.arrive_inv, !State.ackDrains_inv, OutcomeInv]

theorem execDrainAck_inv {port : Nat} {f : Flit} {s : State} (h : s.Inv) : OutcomeInv (execDrainAck port f s) := by
  unfold execDrainAck
  grind [!State.arrive_inv, !State.ackCome_inv, OutcomeInv]

theorem execCrcFailure_inv {port : Nat} {s : State} (h : s.Inv) : OutcomeInv (execCrcFailure port s) := outcomeInv_next.mpr (State.drops_inv h)

theorem execFlitSlot_inv {port : Nat} {s : State} (h : s.Inv) : OutcomeInv (execFlitSlot port s) := by
  unfold execFlitSlot
  grind [!State.setPort_inv, OutcomeInv]

theorem execReplayTimeout_inv {port : Nat} {s : State} (h : s.Inv) : OutcomeInv (execReplayTimeout port s) := by
  unfold execReplayTimeout
  grind [!State.setPort_inv, OutcomeInv]

theorem State.valueFatal_inv {s : State} {n tag va : Nat} (h : s.Inv) : (s.valueFatal n tag va).Inv := by
  unfold State.valueFatal
  grind [!State.setGroup_inv]

theorem State.originFatal_inv {s : State} {tag : Nat} (h : s.Inv) : (s.originFatal tag).Inv := by
  unfold State.originFatal
  grind [!State.closeRemote_inv, !State.setGroup_inv, !State.valueFatal_inv, !State.copyFail_inv]

theorem State.portDown_inv {s : State} {port : Nat} (h : s.Inv) : (s.portDown port).Inv := by
  unfold State.portDown
  grind [foldl_inv, !State.originFatal_inv, !State.setPort_inv]

theorem State.fabDone_inv {s : State} {err : Bool} (h : s.Inv) : (s.fabDone err).Inv := h

theorem execPortRetrain_inv {port failures : Nat} {s : State} (h : s.Inv) : OutcomeInv (execPortRetrain port failures s) := by
  unfold execPortRetrain
  grind [!State.setPort_inv, !State.fabDone_inv, !State.portDown_inv, OutcomeInv]

theorem execRouteUpdate_inv {dest : Nat} {entry : DWord} {s : State} (h : s.Inv) : OutcomeInv (execRouteUpdate dest entry s) := by
  unfold execRouteUpdate
  grind [!State.fabDone_inv, OutcomeInv]

theorem State.fabWrite_inv {s : State} {val : DWord} (h : s.Inv) : (s.fabWrite val).Inv := by
  unfold State.fabWrite
  grind [!State.setPort_inv, !State.fabDone_inv]

theorem execRetrain_inv {val : DWord} {s : State} (h : s.Inv) : OutcomeInv (execRetrain val s) := outcomeInv_next.mpr (State.fabWrite_inv h)

theorem execRoutewr_inv {val : DWord} {s : State} (h : s.Inv) : OutcomeInv (execRoutewr val s) := outcomeInv_next.mpr (State.fabWrite_inv h)

theorem execRouterd_inv {val : DWord} {s : State} (h : s.Inv) : OutcomeInv (execRouterd val s) := outcomeInv_next.mpr (State.fabWrite_inv h)

theorem execFabcmd_inv {val : DWord} {s : State} (h : s.Inv) : OutcomeInv (execFabcmd val s) := outcomeInv_next.mpr (State.fabWrite_inv h)

/-! ### Host registers, boot, security (R397 to R405) -/

theorem State.bringUp_inv {s : State} {image : List Byte} (h : s.Inv) : (s.bringUp image).Inv := h

theorem State.rom_inv {s : State} (h : s.Inv) : (s.rom).Inv := by
  unfold State.rom
  split <;> exact h

theorem State.restarted_inv {s : State} : (s.restarted).Inv := by
  unfold State.restarted
  grind [!State.reset_inv]

theorem execPowerOnReset_inv {s : State} : OutcomeInv (execPowerOnReset s) := by
  unfold execPowerOnReset
  grind [!State.rom_inv, !State.restarted_inv, OutcomeInv]

theorem execHostSideReset_inv {s : State} (h : s.Inv) : OutcomeInv (execHostSideReset s) := outcomeInv_next.mpr (State.rom_inv h)

theorem execRecov_inv {len : DWord} {s : State} (h : s.Inv) : OutcomeInv (execRecov len s) := by
  unfold execRecov
  grind [!State.bringUp_inv, OutcomeInv]

theorem execPartcfg_inv {part : Nat} {val : DWord} {s : State} (h : s.Inv) : OutcomeInv (execPartcfg part val s) := by
  unfold execPartcfg
  grind [!State.setPart_inv, OutcomeInv]

theorem execPartquads_inv {part : Nat} {val : DWord} {s : State} (h : s.Inv) : OutcomeInv (execPartquads part val s) := by
  unfold execPartquads
  grind [!State.setPart_inv, OutcomeInv]

theorem State.blockWrite_inv {s : State} {part off : Nat} {val : DWord} (h : s.Inv) : (s.blockWrite part off val).Inv := by
  unfold State.blockWrite
  grind [!State.setPart_inv, !State.beginStop_inv]

theorem State.windowWrite_inv {s : State} {acc : Nat} {val : DWord} (h : s.Inv) : (s.windowWrite acc val).Inv := by
  unfold State.windowWrite
  split <;> exact h

theorem State.msixWrite_inv {s : State} {acc : Nat} {val : DWord} (h : s.Inv) : (s.msixWrite acc val).Inv := h

theorem execRegisterWrite_inv {offset : Nat} {val : DWord} {s : State} (h : s.Inv) : OutcomeInv (execRegisterWrite offset val s) := by
  unfold execRegisterWrite
  grind [!State.blockWrite_inv, !State.msixWrite_inv, !State.windowWrite_inv, OutcomeInv]

theorem execOrphth_inv {val : Word} {s : State} (h : s.Inv) : OutcomeInv (execOrphth val s) := by
  unfold execOrphth
  grind [OutcomeInv]

theorem execQosp50_inv {val : DWord} {s : State} (h : s.Inv) : OutcomeInv (execQosp50 val s) := by
  unfold execQosp50
  grind [OutcomeInv]

theorem execQosp99_inv {val : DWord} {s : State} (h : s.Inv) : OutcomeInv (execQosp99 val s) := by
  unfold execQosp99
  grind [OutcomeInv]

theorem execSpdmRequest_inv {req : List Byte} {s : State} (h : s.Inv) : OutcomeInv (execSpdmRequest req s) := by
  unfold execSpdmRequest
  grind [OutcomeInv]

theorem execTdispTransition_inv {vf : Nat} {st : TdiState} {s : State} (h : s.Inv) : OutcomeInv (execTdispTransition vf st s) := by
  unfold execTdispTransition
  grind [!State.setTdi_inv, !State.beginStop_inv, OutcomeInv]

theorem execCxlPortFailure_inv {port : Nat} {s : State} (h : s.Inv) : OutcomeInv (execCxlPortFailure port s) := by
  unfold execCxlPortFailure
  grind [OutcomeInv]

theorem execHostMemoryAccess_inv {data : Option (List Byte)} {pa n : Nat} {s : State} (h : s.Inv) :
    OutcomeInv (execHostMemoryAccess data pa n s) := by
  unfold execHostMemoryAccess
  grind [!Mem.wf_writeBytes, !State.sheafNote_inv, OutcomeInv]

theorem execPlateSensorLimit_inv {s : State} (h : s.Inv) : OutcomeInv (execPlateSensorLimit s) := by
  unfold execPlateSensorLimit
  grind [OutcomeInv]

/-! ### Register instructions -/

theorem runReg_inv {i : Instr} {s : State} {eff : Group → Mask → Except Trap Eff} (h : s.Inv) : OutcomeInv (runReg i s eff) :=
  issue_inv h fun _ hc => Ctx.runEff_inv hc

theorem execNop_inv {s : Bool} {st : State} (h : st.Inv) : OutcomeInv (execNop s st) := issue_inv h fun _ hc => Ctx.done_inv hc

/-! ### Every instruction and event -/

/-- Every instruction and every event keeps the form: a register instruction writes no memory at all. -/
theorem exec_inv {i : Instr} {s : State} (h : s.Inv) : OutcomeInv (exec i s) := by
  cases i with
  | nop => exact execNop_inv h
  | iadd | isub | imul | imulh | imulhu | imad | iaddi | and | or | xor | andi | ori | xori | shf
  | shfi | minmax | unary | bfe | bfi | sel | icmp | icmpi | pcomb | mov | movi | movhi | li | vote
  | shfl | int64 | redux | fadd | fsub | fmul | fma | fmac | fminmax | func | fcmp | hadd2 | hmul2
  | hfma2 | hfmac2 | cvt | cvtn | cvtw | fscale | fredux | fmtset | dot4s | dot4u => exact runReg_inv h
  | aset => exact execAset_inv h
  | aadvPair => exact execAadvPair_inv h
  | aadvImm => exact execAadvImm_inv h
  | aget => exact execAget_inv h
  | anarrow => exact execAnarrow_inv h
  | ldB => exact execLdB_inv h
  | ldH => exact execLdH_inv h
  | ldW => exact execLdW_inv h
  | ldD => exact execLdD_inv h
  | ldQ => exact execLdQ_inv h
  | stB => exact execStB_inv h
  | stH => exact execStH_inv h
  | stW => exact execStW_inv h
  | stD => exact execStD_inv h
  | stQ => exact execStQ_inv h
  | ldkW => exact execLdkW_inv h
  | ldkD => exact execLdkD_inv h
  | ldl => exact execLdl_inv h
  | stl => exact execStl_inv h
  | atom => exact execAtom_inv h
  | atoml => exact execAtoml_inv h
  | red => exact execRed_inv h
  | cas => exact execCas_inv h
  | fence => exact execFence_inv h
  | pref => exact execPref_inv h
  | cctl => exact execCctl_inv h
  | qsub => exact execQsub_inv h
  | cbinit => exact execCbinit_inv h
  | cbwait => exact execCbwait_inv h
  | sleepuntil => exact execSleepuntil_inv h
  | sleepuntilChk => exact execSleepuntilChk_inv h
  | publish => exact execPublish_inv h
  | accst => exact execAccst_inv h
  | accld => exact execAccld_inv h
  | obres => exact execObres_inv h
  | obrel => exact execObrel_inv h
  | bres => exact execBres_inv h
  | brel => exact execBrel_inv h
  | mxloop => exact execMxloop_inv h
  | mxwait => exact execMxwait_inv h
  | accz => exact execAccz_inv h
  | acczFree => exact execAcczFree_inv h
  | accrd => exact execAccrd_inv h
  | accwr => exact execAccwr_inv h
  | mxfrz => exact execMxfrz_inv h
  | mxfrzThaw => exact execMxfrzThaw_inv h
  | mxsta => exact execMxsta_inv h
  | mkrcp => exact execMkrcp_inv h
  | rmat => exact execRmat_inv h
  | rmatAll => exact execRmatAll_inv h
  | rstat => exact execRstat_inv h
  | scopeOpen => exact execScopeOpen_inv h
  | scopeClose => exact execScopeClose_inv h
  | bra => exact execBra_inv h
  | jmp => exact execJmp_inv h
  | call => exact execCall_inv h
  | calli => exact execCalli_inv h
  | jmpi => exact execJmpi_inv h
  | jmpiDesc => exact execJmpiDesc_inv h
  | ret => exact execRet_inv h
  | pad => exact execPad_inv h
  | rjoinSet => exact execRjoinSet_inv h
  | rjoinAdd => exact execRjoinAdd_inv h
  | rjoinWait => exact execRjoinWait_inv h
  | exit => exact execExit_inv h
  | bar => exact execBar_inv h
  | waitSleep => exact execWaitSleep_inv h
  | waitYield => exact execWaitYield_inv h
  | loop => exact execLoop_inv h
  | henter => exact execHenter_inv h
  | hstore => exact execHstore_inv h
  | hexit => exact execHexit_inv h
  | habort => exact execHabort_inv h
  | mark => exact execMark_inv h
  | cut => exact execCut_inv h
  | graft => exact execGraft_inv h
  | unmark => exact execUnmark_inv h
  | tdrop => exact execTdrop_inv h
  | tinfo => exact execTinfo_inv h
  | launch => exact execLaunch_inv h
  | mfs => exact execMfs_inv h
  | mts => exact execMts_inv h
  | trap => exact execTrap_inv h
  | tret => exact execTret_inv h
  | icinv => exact execIcinv_inv h
  | icinvAll => exact execIcinvAll_inv h
  | bkpt => exact execBkpt_inv h
  | pageWalk => exact execPageWalk_inv h
  | demandFault => exact execDemandFault_inv h
  | operandLogReplay => exact execOperandLogReplay_inv h
  | orphanThreshold => exact execOrphanThreshold_inv h
  | migration => exact execMigration_inv h
  | copyChunk => exact execCopyChunk_inv h
  | cbwaitWake => exact execCbwaitWake_inv h
  | sleepuntilWake => exact execSleepuntilWake_inv h
  | sleepExpiry => exact execSleepExpiry_inv h
  | publishFlip => exact execPublishFlip_inv h
  | heartbeatTick => exact execHeartbeatTick_inv h
  | patrolScrub => exact execPatrolScrub_inv h
  | idle => exact execIdle_inv h
  | write => exact execWrite_inv h
  | read => exact execRead_inv h
  | atomic => exact execAtomic_inv h
  | readResp => exact execReadResp_inv h
  | atomicResp => exact execAtomicResp_inv h
  | ack => exact execAck_inv h
  | bulk => exact execBulk_inv h
  | nak => exact execNak_inv h
  | drain => exact execDrain_inv h
  | drainAck => exact execDrainAck_inv h
  | replayTimeout => exact execReplayTimeout_inv h
  | portRetrain => exact execPortRetrain_inv h
  | routeUpdate => exact execRouteUpdate_inv h
  | matrixWorkBegin => exact execMatrixWorkBegin_inv h
  | matrixBlock => exact execMatrixBlock_inv h
  | acczClaim => exact execAcczClaim_inv h
  | registerFold => exact execRegisterFold_inv h
  | registerUnspill => exact execRegisterUnspill_inv h
  | podBarrierUpdate => exact execPodBarrierUpdate_inv h
  | podBarrierRelease => exact execPodBarrierRelease_inv h
  | launchComplete => exact execLaunchComplete_inv h
  | dispatchDecision => exact execDispatchDecision_inv h
  | launchAccept => exact execLaunchAccept_inv h
  | doorbell => exact execDoorbell_inv h
  | queueMap => exact execQueueMap_inv h
  | packetNop => exact execPacketNop_inv h
  | packetLaunch => exact execPacketLaunch_inv h
  | packetSignal => exact execPacketSignal_inv h
  | packetWait => exact execPacketWait_inv h
  | packetFence => exact execPacketFence_inv h
  | coreRevocation => exact execCoreRevocation_inv h
  | rescueTimeout => exact execRescueTimeout_inv h
  | stopRequest => exact execStopRequest_inv h
  | graceTimer => exact execGraceTimer_inv h
  | killTimer => exact execKillTimer_inv h
  | instructionHalt => exact execInstructionHalt_inv h
  | contextResume => exact execContextResume_inv h
  | coreStateError => exact execCoreStateError_inv h
  | latencyMonitor => exact execLatencyMonitor_inv h
  | huskCommit => exact execHuskCommit_inv h
  | henterWake => exact execHenterWake_inv h
  | huskOrphanRequest => exact execHuskOrphanRequest_inv h
  | holderReturn => exact execHolderReturn_inv h
  | huskPurge => exact execHuskPurge_inv h
  | tenantStop => exact execTenantStop_inv h
  | queueReset => exact execQueueReset_inv h
  | invcmd => exact execInvcmd_inv h
  | invalidationComplete => exact execInvalidationComplete_inv h
  | partcfg => exact execPartcfg_inv h
  | partquads => exact execPartquads_inv h
  | retrain => exact execRetrain_inv h
  | routewr => exact execRoutewr_inv h
  | routerd => exact execRouterd_inv h
  | orphth => exact execOrphth_inv h
  | qosp50 => exact execQosp50_inv h
  | qosp99 => exact execQosp99_inv h
  | fltrespReplay => exact execFltrespReplay_inv h
  | fltrespUnresolvable => exact execFltrespUnresolvable_inv h
  | fltcfg => exact execFltcfg_inv h
  | fltcons => exact execFltcons_inv h
  | registerWrite => exact execRegisterWrite_inv h
  | powerOnReset => exact execPowerOnReset_inv
  | recov => exact execRecov_inv h
  | spdmRequest => exact execSpdmRequest_inv h
  | tdispTransition => exact execTdispTransition_inv h
  | cxlPortFailure => exact execCxlPortFailure_inv h
  | reservedMajor => exact execReservedMajor_inv h
  | fetchFault => exact execFetchFault_inv h
  | reservedPacket => exact execReservedPacket_inv h
  | crcFailure => exact execCrcFailure_inv h
  | flitSlot => exact execFlitSlot_inv h
  | fabcmd => exact execFabcmd_inv h
  | fltbase => exact execFltbase_inv h
  | hostSideReset => exact execHostSideReset_inv h
  | hostMemoryAccess => exact execHostMemoryAccess_inv h
  | plateSensorLimit => exact execPlateSensorLimit_inv h

/-! ### Issue and moves -/

theorem State.grant_inv {s : State} {n : Nat} {k : SlotId} (h : s.Inv) : (s.grant n k).Inv := by
  unfold State.grant
  split <;> exact h

theorem State.heed_inv {s : State} {n : Nat} {i : Instr} (h : s.Inv) : (s.heed n i).Inv := by
  unfold State.heed
  split <;> exact h

theorem execHeed_inv {n : Nat} {i : Instr} {s : State} (h : s.Inv) : OutcomeInv (execHeed n i s) := by
  unfold execHeed
  grind [!exec_inv, !State.heed_inv, OutcomeInv]

theorem State.issueChain_inv {s : State} {c : Ctx} {base k : Nat} (h : s.Inv) (h₁ : c.s.Inv) : OutcomeInv (s.issueChain c base k) := by
  unfold State.issueChain
  grind [!Ctx.fetchChain_inv, !exec_inv, !Ctx.await_inv, !decodeTrap_inv, !State.fitRows_inv, !State.prepareChain_inv, !execHeed_inv, Members.Inv,
    OutcomeInv]

theorem State.issuePath_inv {s : State} {n : Nat} {k : SlotId} (h : s.Inv) : OutcomeInv (s.issuePath n k) := by
  unfold State.issuePath
  grind [!State.grant_inv, !State.takeTrap_inv, !exec_inv, !Ctx.secondWord_inv, !Ctx.await_inv, !State.issueChain_inv, OutcomeInv, Second.Inv]

theorem State.issueNext_inv {s : State} (h : s.Inv) : OutcomeInv (s.issueNext) := by
  unfold State.issueNext
  grind [!Ctx.fetchChain_inv, !execHeed_inv, Members.Inv, OutcomeInv]

theorem State.deliverDeferred_inv {s : State} {n : Nat} {g : Group} (h : s.Inv) : (s.deliverDeferred n g).Inv := by
  unfold State.deliverDeferred
  grind [!State.takeTrap_inv]

theorem State.askFor_inv {s : State} {n : Nat} {k : SlotId} (h : s.Inv) : (s.askFor n k).Inv := by
  unfold State.askFor
  grind [!Ctx.askWord_inv, Res.Inv]

theorem State.markIdle_inv {s : State} {n : Nat} {g : Group} (h : s.Inv) : (s.markIdle n g).Inv := by
  unfold State.markIdle
  split <;> exact h

theorem State.settleGroup_inv {s : State} {n : Nat} {g : Group} (h : s.Inv) : (s.settleGroup n g).Inv := by
  unfold State.settleGroup
  grind [!State.respill_inv, !State.deliverDeferred_inv, !State.setGroup_inv, !State.askFor_inv, !State.barriersTest_inv, !State.arrayLine_inv,
    !State.markIdle_inv]

theorem State.settleAll_inv {s : State} (h : s.Inv) : (s.settleAll).Inv := by
  unfold State.settleAll
  grind [foldl_inv, !State.settleGroup_inv]

theorem State.post_inv {s : State} (h : s.Inv) : (s.post).Inv := h

theorem State.runPosted_inv {s : State} {k : Nat} (h : s.Inv) : OutcomeInv (s.runPosted k) := by
  unfold State.runPosted
  grind [!exec_inv, OutcomeInv]

theorem State.play_inv {s : State} {m : Move} (h : s.Inv) : OutcomeInv (s.play m) := by
  unfold State.play
  grind [!State.issuePath_inv, !exec_inv, !State.originFatal_inv, !State.runPosted_inv, !State.upset_inv, OutcomeInv]

theorem State.settled_inv {s : State} (h : s.Inv) : (s.settled).Inv := by
  unfold State.settled
  grind [!State.post_inv, !State.enterPool_inv, !State.release_inv, !State.sendWords_inv, !State.settleAll_inv]

theorem State.ownMove_inv {s : State} (h : s.Inv) : OutcomeInv (s.ownMove) := State.play_inv (State.settled_inv h)

theorem State.advance_inv {s : State} (h : s.Inv) : OutcomeInv (s.advance) := by
  unfold State.advance
  grind [!exec_inv, !State.issueNext_inv, !State.ownMove_inv, OutcomeInv]

theorem State.tick_inv {s : State} (h : s.Inv) : (s.tick).Inv := h

/-! ### The step -/

theorem step_inv {s : State} (h : s.Inv) : OutcomeInv (step s) := by
  unfold step
  grind [!State.advance_inv, !State.tick_inv, OutcomeInv]

/-- Settles O17: the form is kept by every operation that a step is made of, down to the few that write memory, and those write it byte by byte. -/
theorem stepsKeepMemoryCanonical : Obligations.StepsKeepMemoryCanonical := by
  intro s s' h hstep
  have hnext := step_inv h
  rw [hstep] at hnext
  exact outcomeInv_next.mp hnext

end Sys2Proof.Machine
end

section
/-! Settles O41: TRET at trap level, after a deferred fault, and outside trap level (R64, R249, R338). -/

namespace Sys2Proof.Machine

/-! ### Room for a group's rows where nothing that they depend on changes -/

/-- Two states with the same groups, teams and launches. -/
structure State.SameRun (s t : State) : Prop where
  groups : t.groups = s.groups
  teams : t.teams = s.teams
  launches : t.launches = s.launches

theorem State.SameRun.refl (s : State) : s.SameRun s := ⟨rfl, rfl, rfl⟩

theorem State.SameRun.setGroup {s t : State} (h : s.SameRun t) (n : Nat) (g : Group) : (s.setGroup n g).SameRun (t.setGroup n g) :=
  ⟨by simp only [State.setGroup, h.groups], h.teams, h.launches⟩

/-- The rows that a group may have are a matter of groups and teams (R160). -/
theorem State.SameRun.rowLimit {s t : State} (h : s.SameRun t) (n : Nat) (g : Group) : t.rowLimit n g = s.rowLimit n g := by
  simp only [State.rowLimit, State.rowsOthers, State.floorOf, State.coreOf, State.teamOf, State.team, State.resident, State.group, h.groups, h.teams]

/-- Room for the group's registers and entries stays where the group keeps its team, its width and its divergence entries. -/
theorem Ctx.fitAreas_setGroup {c : Ctx} (hl : c.Live) (hr : c.roomy = true) {t : State} (hrun : c.s.SameRun t) {g : Group}
    (hs : (g.team, g.width, g.stack, g.spilt) = (c.g.team, c.g.width, c.g.stack, c.g.spilt)) (had : BitVec 64) :
    (t.setGroup c.n g).fitAreas c.n had = t.setGroup c.n g := by
  have hplaces : g.spiltNow = c.g.spiltNow := Group.spiltNow_congr (congrArg Prod.snd hs)
  simp only [Prod.mk.injEq] at hs
  obtain ⟨hteam, hwidth, hstack, hspilt⟩ := hs
  simp only [Ctx.roomy, Bool.and_eq_true, decide_eq_true_eq, beq_iff_eq] at hr
  obtain ⟨hrows, hentries⟩ := hr
  have hlimit : (t.setGroup c.n g).rowLimit c.n g = c.s.rowLimit c.n c.g := by
    have hfloor : c.s.floorOf g = c.s.floorOf c.g := by simp only [State.floorOf, State.teamOf, hteam, hwidth]
    rw [(hrun.setGroup c.n g).rowLimit]
    unfold State.rowLimit
    rw [State.rowsOthers_setGroup hl.2.1 hteam, State.floorOf_setGroup, hfloor]
  have hg := t.group_setGroup_same c.n g
  unfold State.fitAreas
  rw [State.fitRows_enough hg (hlimit ▸ hrows), State.respill_same hg (by rw [hplaces, hspilt, hentries])]

/-- Where no slice is recorded and no capsule runs, an effect that leaves the group with its rows and entries is the whole step. -/
theorem issue_setGroup_of_settled {c : Ctx} {i : Instr} (h : c.Issues i) (hs : c.settled) {body : Ctx → Res} {g : Group}
    (hbody : body c = .ok (c.s.setGroup c.n g))
    (hkeep : (g.team, g.width, g.stack, g.spilt) = (c.g.team, c.g.width, c.g.stack, c.g.spilt)) :
    issue i c.s body = .next (c.s.setGroup c.n g) := by
  obtain ⟨hslice, hcapsule, hroomy⟩ := hs
  rw [issue_body h, hbody]
  simp only [Ctx.huskStep, Ctx.sliceStep, hcapsule, hslice, Ctx.fitAreas_setGroup h.1 hroomy (State.SameRun.refl c.s) hkeep]

/-! ### A group that has ended is gone -/

theorem State.groups_purge (s : State) (key : DWord) : (s.purge key).groups = s.groups := by
  have hword (s : State) (pa k v : Nat) : (s.setLockWord pa k v).groups = s.groups := rfl
  have hblock (s : State) (pa : Nat) : (s.purgeBlock key.toNat pa).groups = s.groups := by
    have hslots (l : List Nat) : (l.foldl (fun s j => if s.lockWord pa (16 + 4 * j) == key.toNat then
        (s.setLockWord pa (16 + 4 * j) 0).setLockWord pa (19 + 4 * j) 0 else s) s).groups = s.groups := by
      refine List.foldlRecOn (motive := fun t : State => t.groups = s.groups) l _ rfl fun t ht j _ => ?_
      split <;> simp only [hword, ht]
    unfold State.purgeBlock
    dsimp only
    split <;> split <;> simp only [hword, hslots]
  unfold State.purge
  split
  · rfl
  · exact List.foldlRecOn (motive := fun t : State => t.groups = s.groups) _ _ rfl fun t ht pa _ => (hblock t pa).trans ht

/-- A barrier that opens releases groups that are there and makes none. -/
theorem State.group_barrierTest_none {s : State} {k : Nat} (h : s.group k = none) (n bar : Nat) : (s.barrierTest n bar).group k = none := by
  unfold State.barrierTest
  split
  · exact h
  · dsimp only
    split
    · refine List.foldlRecOn (motive := fun t : State => t.group k = none) _ _ h fun t ht e he => ?_
      have hne : k ≠ e.1 := by
        obtain ⟨p, _, hp⟩ := List.mem_flatMap.1 he
        obtain ⟨j, _, hj⟩ := List.mem_filterMap.1 hp
        obtain ⟨g, hg, rfl⟩ := Option.map_eq_some_iff.1 hj
        rintro rfl
        rw [h] at hg
        cases hg
      rw [← ht]
      exact State.group_setGroup_ne t _ hne
    · exact h

theorem State.group_barriersTest_none {s : State} {k : Nat} (h : s.group k = none) (n : Nat) : (s.barriersTest n).group k = none :=
  List.foldlRecOn (motive := fun t : State => t.group k = none) _ _ h fun _ ht bar _ => State.group_barrierTest_none ht n bar

theorem State.groups_teamRetire (s : State) (n : Nat) : (s.teamRetire n).groups = s.groups := by
  unfold State.teamRetire
  split
  · rfl
  · dsimp only
    split <;> rfl

/-- A group that retires is gone (R63, R297). -/
theorem State.group_retire (s : State) (n : Nat) : (s.retire n).group n = none := by
  unfold State.retire
  split
  case h_1 h => exact h
  case h_2 g hg =>
    have hgone : Tbl.get none (Tbl.set none s.groups n none) n = none := Tbl.get_set_same ..
    dsimp only
    split
    · exact hgone
    · apply State.group_barriersTest_none
      rw [State.group, apply_ite State.groups, State.groups_teamRetire, ite_self]
      split <;> exact hgone

theorem State.group_endGroup (s : State) (n reason : Nat) : (s.endGroup n reason).group n = none := by
  unfold State.endGroup
  split
  case h_1 h => exact h
  case h_2 => exact State.group_retire ..

/-- No rows are fitted for a group that is gone. -/
theorem State.fitAreas_of_gone {s : State} {n : Nat} (h : s.group n = none) (had : BitVec 64) : s.fitAreas n had = s := by
  have hrows : s.fitRows n had = s := by rw [State.fitRows, h]
  rw [State.fitAreas, hrows, State.respill, h]

/-! ### TRET -/

/-- What TRET does, by the group's trap level and DF. -/
def Ctx.trapReturn (h : Hdr) (c : Ctx) : Res :=
  if !c.g.trap.level then .trap ⟨Cause.badForm, wordInfo (.tret h)⟩ c.s
  else if c.g.trap.df then .ok (c.s.endGroup c.n c.g.trap.cause.toNat)
  else .ok (c.setG c.s Group.tret)

theorem exec_tret (h : Hdr) (s : State) : exec (.tret h) s = issue (.tret h) s (Ctx.trapReturn h) := rfl

/-- The path that TRET puts back in a slot from the one saved for it (R338). -/
def Group.trapBack (g : Group) (k : SlotId) (p : Option Path) : Option Path :=
  p.bind fun q => if q.mask &&& g.alive = 0 then none
    else some (if k = g.trap.slot then
        { q with
          mask := q.mask &&& g.alive
          pc := g.trap.pc
          loop := q.loop.bind fun l => if l.start.toNat ≤ g.trap.pc.toNat ∧ g.trap.pc.toNat < l.stop.toNat then some l else none }
      else { q with mask := q.mask &&& g.alive })

theorem Group.trapBack_eq (g : Group) (k : SlotId) (p : Option Path) :
    (if k = g.trap.slot then (Path.restored g.alive p).map fun q => q.resumed g.trap.pc else Path.restored g.alive p) = g.trapBack k p := by
  cases p with
  | none => simp [Path.restored, Group.trapBack]
  | some q =>
    simp only [Path.restored, Group.trapBack, Option.bind_some, beq_iff_eq]
    by_cases hdead : q.mask &&& g.alive = 0
    · rw [if_pos hdead, if_pos hdead]
      simp
    · rw [if_neg hdead, if_neg hdead]
      by_cases hk : k = g.trap.slot <;> simp [hk, Path.resumed, Path.loopAt]

theorem Group.tret_eq (g : Group) : g.tret = { g with
    slotA := g.trapBack .a g.trap.savedA, slotB := g.trapBack .b g.trap.savedB, tstack := [], frozen := false,
    trap := { g.trap with level := false, df := false, savedA := none, savedB := none } } := by
  simp only [← Group.trapBack_eq]
  rfl

/-- TRET puts the saved paths back (R338). -/
theorem exec_tret_of_level {c : Ctx} {h : Hdr} (hi : c.Issues (.tret h)) (hlevel : c.g.trap.level = true) (hdf : c.g.trap.df = false) (hs : c.settled) :
    exec (.tret h) c.s = .next (c.s.setGroup c.n c.g.tret) := by
  have hg : c.s.group c.n = some c.g := hi.1.2.1
  rw [exec_tret]
  refine issue_setGroup_of_settled hi hs ?_ rfl
  simp only [Ctx.trapReturn, hlevel, hdf, Ctx.setG, hg, Bool.not_true, Bool.false_eq_true, if_false]

/-- After a deferred fault TRET ends the group (R64). -/
theorem exec_tret_of_deferred {c : Ctx} {h : Hdr} (hi : c.Issues (.tret h)) (hlevel : c.g.trap.level = true) (hdf : c.g.trap.df = true) (hslice : c.path.slice = none) :
    exec (.tret h) c.s = .next (c.s.endGroup c.n c.g.trap.cause.toNat) := by
  have hgone := c.s.group_endGroup c.n c.g.trap.cause.toNat
  have hbody : Ctx.trapReturn h c = .ok (c.s.endGroup c.n c.g.trap.cause.toNat) := by
    simp only [Ctx.trapReturn, hlevel, hdf, Bool.not_true, Bool.false_eq_true, if_false, if_true]
  have hhusk : c.huskStep (c.s.endGroup c.n c.g.trap.cause.toNat) = c.s.endGroup c.n c.g.trap.cause.toNat := by
    rw [Ctx.huskStep, hgone]
    split
    · contradiction
    · rfl
  rw [exec_tret, issue_body hi, hbody]
  simp only [Ctx.sliceStep, hslice, hhusk, State.fitAreas_of_gone hgone]

/-- Outside trap level TRET traps BAD_FORM with its word (R338). -/
theorem exec_tret_outside {c : Ctx} {h : Hdr} (hi : c.Issues (.tret h)) (hlevel : c.g.trap.level = false) :
    exec (.tret h) c.s = .next (c.s.takeTrap c.n c.slot ⟨0x02, BitVec.ofNat 64 (encode1 (.tret h)).toNat, c.pc, false⟩) := by
  have hbody : Ctx.trapReturn h c = .trap ⟨Cause.badForm, wordInfo (.tret h)⟩ c.s := by
    simp only [Ctx.trapReturn, hlevel, Bool.not_false, if_true]
  rw [exec_tret, issue_trap hi hbody]
  rfl

/-- Settles O41, by the three cases of TRET: at trap level, at trap level after a deferred fault, and outside trap level. -/
theorem trapReturns : Obligations.TrapReturns := by
  unfold Obligations.TrapReturns
  intro c h hi
  refine ⟨fun hlevel hdf hs => ?_, fun hlevel hdf hslice => ?_, exec_tret_outside hi⟩
  · rw [exec_tret_of_level hi hlevel hdf hs, Group.tret_eq]
    rfl
  · exact ⟨_, exec_tret_of_deferred hi hlevel hdf hslice, State.group_endGroup ..⟩

end Sys2Proof.Machine
end

section
/-! Settles O59: the command registers INVCMD and FABCMD (R53, R399, R400), the registers of a partition (R399), of quality (R400) and of the fault ring, and
the driver's answers (R425, R426). -/

namespace Sys2Proof.Machine

/-! ### INVCMD (R53, R399) -/

/-- INVCMD, where it is not busy, takes the command and the range that INVADDR names. -/
theorem exec_invcmd_of_idle {s : State} (val : DWord) (h : s.regs.invcmd.getLsbD 63 = false) :
    exec (.invcmd val) s = .next { s with regs := { s.regs with
      invcmd := (val &&& 0x00000FFFFFFFFFFF) ||| 0x8000000000000000 ||| (if val.getLsbD 62 then 0 else s.regs.invcmd &&& 0x4000000000000000)
      invnow := s.regs.invaddr } } := by
  show execInvcmd val s = _
  simp only [execInvcmd, h, Bool.false_eq_true, if_false]

/-- A busy INVCMD only sets OVR. -/
theorem exec_invcmd_of_busy {s : State} (val : DWord) (h : s.regs.invcmd.getLsbD 63 = true) :
    exec (.invcmd val) s = .next { s with regs := { s.regs with invcmd := s.regs.invcmd ||| 0x4000000000000000 } } := by
  show execInvcmd val s = _
  simp only [execInvcmd, h, if_true]

/-- An invalidation under way ends once no access of its address space is. -/
theorem exec_invalidationComplete_of_quiet {s : State} (h : s.regs.invcmd.getLsbD 63 = true)
    (hopen : s.accessesOpen (bitsOf s.regs.invcmd.toNat 32 12) = false) :
    exec .invalidationComplete s = .next
      { s.invalidate (bitsOf s.regs.invcmd.toNat 32 12) (bitsOf s.regs.invnow.toNat 16 35) (bitsOf s.regs.invcmd.toNat 0 32) with
        regs := { s.regs with invcmd := s.regs.invcmd &&& 0x7FFFFFFFFFFFFFFF } } := by
  show execInvalidationComplete s = _
  simp only [execInvalidationComplete, h, hopen, Bool.not_true, Bool.or_self, Bool.false_eq_true, if_false]
  rfl

/-! ### FABCMD (R400) -/

/-- The command that FABCMD holds once it has begun, OVR cleared. -/
def fabCommand (val : DWord) : DWord := (val &&& 0x01FF1F0F) ||| 0x8000000000000000

/-- The state in which FABCMD has begun a command. -/
def State.fabBegun (s : State) (val : DWord) : State :=
  { s with regs := { s.regs with fabcmd := fabCommand val, fabnow := s.regs.fabdata } }

/-- The end of a command clears BUSY. -/
theorem fabCommand_ended (val : DWord) : fabCommand val &&& 0x7FFFFFFFFFFFFFFF = val &&& 0x01FF1F0F := by
  rw [fabCommand, BitVec.and_or_distrib_right, BitVec.and_assoc]
  simp

theorem State.fabWrite_of_busy {s : State} (val : DWord) (h : s.regs.fabcmd.getLsbD 63 = true) :
    s.fabWrite val = { s with regs := { s.regs with fabcmd := s.regs.fabcmd ||| 0x4000000000000000 } } := by
  simp only [State.fabWrite, State.fabBit, h, if_true]

/-- What a write of an idle FABCMD does, by the op that it names; it clears OVR. -/
theorem State.fabWrite_of_idle {s : State} {val : DWord} (h : s.regs.fabcmd.getLsbD 63 = false) (hovr : val.getLsbD 62 = true) :
    s.fabWrite val = match bitsOf val.toNat 0 4 with
      | 1 => if bitsOf val.toNat 8 5 ≤ 17 && (s.port (bitsOf val.toNat 8 5)).down then
          (s.fabBegun val).setPort (bitsOf val.toNat 8 5) { s.port (bitsOf val.toNat 8 5) with retraining := true }
        else (s.fabBegun val).fabDone true
      | 2 => if routeOk s.regs.fabdata then s.fabBegun val else (s.fabBegun val).fabDone true
      | 3 => { s.fabBegun val with regs := { (s.fabBegun val).regs with fabdata := s.route (bitsOf val.toNat 16 9) } }.fabDone false
      | _ => (s.fabBegun val).fabDone true := by
  have hcmd : (val &&& 0x01FF1F0F) ||| (if val.getLsbD 62 then 0 else s.regs.fabcmd &&& 0x4000000000000000) ||| 0x8000000000000000 = fabCommand val := by
    rw [if_pos hovr, fabCommand]
    exact congrArg (· ||| _) BitVec.or_zero
  rw [State.fabWrite]
  simp only [State.fabBit, h, Bool.false_eq_true, if_false, hcmd]
  rfl

/-- What FABCMD holds after a command that fails. -/
theorem State.fabDone_fabBegun (s : State) (val : DWord) :
    (s.fabBegun val).fabDone true = { s with regs := { s.regs with fabcmd := (val &&& 0x01FF1F0F) ||| 0x2000000000000000, fabnow := s.regs.fabdata } } := by
  simp only [State.fabDone, State.fabBegun, fabCommand_ended, if_true]

theorem State.fabWrite_retrain {s : State} {val : DWord} (h : s.regs.fabcmd.getLsbD 63 = false) (hovr : val.getLsbD 62 = true)
    (hop : bitsOf val.toNat 0 4 = 1) (hport : bitsOf val.toNat 8 5 ≤ 17) (hdown : (s.port (bitsOf val.toNat 8 5)).down = true) :
    s.fabWrite val = (s.fabBegun val).setPort (bitsOf val.toNat 8 5) { s.port (bitsOf val.toNat 8 5) with retraining := true } := by
  simp only [s.fabWrite_of_idle h hovr, hop, hport, hdown, decide_true, Bool.and_self, if_true]

theorem State.fabWrite_routewr {s : State} {val : DWord} (h : s.regs.fabcmd.getLsbD 63 = false) (hovr : val.getLsbD 62 = true)
    (hop : bitsOf val.toNat 0 4 = 2) (hroute : routeOk s.regs.fabdata = true) : s.fabWrite val = s.fabBegun val := by
  simp only [s.fabWrite_of_idle h hovr, hop, hroute, if_true]

theorem State.fabWrite_routerd {s : State} {val : DWord} (h : s.regs.fabcmd.getLsbD 63 = false) (hovr : val.getLsbD 62 = true)
    (hop : bitsOf val.toNat 0 4 = 3) :
    s.fabWrite val = { s with regs := { s.regs with fabdata := s.route (bitsOf val.toNat 16 9), fabcmd := val &&& 0x01FF1F0F, fabnow := s.regs.fabdata } } := by
  simp only [s.fabWrite_of_idle h hovr, hop, State.fabDone, State.fabBegun, fabCommand_ended, Bool.false_eq_true, if_false]

theorem State.fabWrite_error {s : State} {val : DWord} (h : s.regs.fabcmd.getLsbD 63 = false) (hovr : val.getLsbD 62 = true)
    (hop : bitsOf val.toNat 0 4 ∉ [1, 2, 3]) : s.fabWrite val = (s.fabBegun val).fabDone true := by
  rw [s.fabWrite_of_idle h hovr]
  split <;> simp_all

/-- Each write of FABCMD is `State.fabWrite`. -/
theorem exec_fabCommands {s : State} {val : DWord} {i : Instr} (hi : i ∈ [Instr.retrain val, .routewr val, .routerd val, .fabcmd val]) :
    exec i s = .next (s.fabWrite val) := by
  simp only [List.mem_cons, List.not_mem_nil, or_false] at hi
  obtain rfl | rfl | rfl | rfl := hi <;> rfl

/-! ### The registers of a partition (R399) -/

/-- PARTCFG of a disabled partition whose quads no other has. -/
theorem exec_partcfg_of_free {s : State} {part : Nat} {val : DWord} (hpart : part < 16) (hfix : s.tdiFixes part = false)
    (hen : (s.part part).cfg.getLsbD 63 = false) (hnext : (s.part part).cfgNext = none) (hquads : s.quadsTaken part (s.part part).quads = false) :
    exec (.partcfg part val) s = .next (if s.partBusy part then s.setPart part { s.part part with cfgNext := some (val &&& 0xFFBFFF8000000000) }
      else s.setPart part { s.part part with cfg := val &&& 0xFFBFFF8000000000, stopped := (s.part part).stopped && !val.getLsbD 63 }) := by
  have hwritten : (s.part part).cfgWritten.getLsbD 63 = false := by rw [Part.cfgWritten, hnext]; exact hen
  show execPartcfg part val s = _
  simp only [execPartcfg, Nat.not_le.2 hpart, decide_false, hfix, hwritten, hquads, Bool.false_and, Bool.and_false, Bool.or_self, Bool.false_eq_true, if_false]
  rw [← hnext]

theorem exec_partquads_of_free {s : State} {part : Nat} {val : DWord} (hpart : part < 16) (hfix : s.tdiFixes part = false)
    (hen : (s.part part).cfg.getLsbD 63 = false) (hnext : (s.part part).cfgNext = none) (hquads : s.quadsTaken part val = false) :
    exec (.partquads part val) s = .next (s.setPart part { s.part part with quads := val }) := by
  have hwritten : (s.part part).cfgWritten.getLsbD 63 = false := by rw [Part.cfgWritten, hnext]; exact hen
  show execPartquads part val s = _
  simp only [execPartquads, Nat.not_le.2 hpart, decide_false, hfix, hwritten, hen, hquads, Bool.or_self, Bool.false_eq_true, if_false]

/-! ### The fault ring and the driver's answers (R425, R426) -/

theorem exec_fltrespReplay_of_answered {s : State} {part : Nat} {val : DWord} {f : PageFault} (hf : s.answered part val = some f)
    (hresp : bitsOf val.toNat 0 2 = 1) : exec (.fltrespReplay part val) s = .next (s.resolved f) := by
  show execFltrespReplay part val s = _
  simp only [execFltrespReplay, hf, hresp, beq_self_eq_true, if_true]

theorem exec_fltrespUnresolvable_of_answered {s : State} {part : Nat} {val : DWord} {f : PageFault} (hf : s.answered part val = some f)
    (hresp : bitsOf val.toNat 0 2 = 2) : exec (.fltrespUnresolvable part val) s = .next (s.unresolvable f.asid f.page) := by
  show execFltrespUnresolvable part val s = _
  simp only [execFltrespUnresolvable, hf, hresp, beq_self_eq_true, if_true]

/-- FLTCFG of a ring that is off. -/
theorem exec_fltcfg_of_off {s : State} {part : Nat} {val : DWord} (hpart : part < 16) (hoff : (s.part part).ringOn = false) :
    exec (.fltcfg part val) s = .next (s.setPart part { s.part part with
      fltcfg := (val &&& 0x8000000007FF0000) ||| (val &&& 0xFFFF), fltNext := if val.getLsbD 63 then 0 else (s.part part).fltNext }) := by
  show execFltcfg part val s = _
  simp only [execFltcfg, hoff, Nat.not_le.2 hpart, Bool.false_and, Bool.not_false, Bool.true_and, Bool.false_eq_true, if_false]

/-- FLTBASE of a ring that is off. -/
theorem exec_fltbase_of_off {s : State} {part : Nat} {val : DWord} (hpart : part < 16) (hoff : (s.part part).ringOn = false) :
    exec (.fltbase part val) s = .next (s.setPart part { s.part part with fltbase := val &&& 0x003FFFFFFFFFFFC0 }) := by
  show execFltbase part val s = _
  simp only [execFltbase, hoff, Nat.not_le.2 hpart, decide_false, Bool.or_self, Bool.false_eq_true, if_false]

/-- FLTCONS with no fault that waits for room in the ring. -/
theorem exec_fltcons_of_noFaults {s : State} {part : Nat} {val : DWord} (hpart : part < 16) (hnone : s.faults = []) :
    exec (.fltcons part val) s = .next (s.setPart part { s.part part with fltcons := val }) := by
  have hdrain : (s.setPart part { s.part part with fltcons := val }).drainRing part = s.setPart part { s.part part with fltcons := val } := by
    have hnone' : (s.setPart part { s.part part with fltcons := val }).faults = [] := hnone
    rw [State.drainRing, hnone', List.filter_nil, List.foldl_nil]
  show execFltcons part val s = _
  simp only [execFltcons, Nat.not_le.2 hpart, if_false, hdrain]

/-- Settles O59, clause by clause: the registers' equations above, with FABCMD by the op that it names. -/
theorem hostCommandsTakeEffect : Obligations.HostCommandsTakeEffect := by
  unfold Obligations.HostCommandsTakeEffect
  intro s val
  refine ⟨exec_invcmd_of_idle val, exec_invcmd_of_busy val, exec_invalidationComplete_of_quiet, ?_, ?_, ?_, rfl, rfl, fun _ => rfl, ?_, ?_⟩
  case refine_1 =>
    intro part hpart hfix hen hnext
    refine ⟨fun hquads => ⟨fun hbusy => ?_, fun hbusy => ?_⟩, exec_partquads_of_free hpart hfix hen hnext⟩
    · rw [exec_partcfg_of_free hpart hfix hen hnext hquads, hbusy, if_neg Bool.false_ne_true]
    · rw [exec_partcfg_of_free hpart hfix hen hnext hquads, hbusy, if_pos rfl]
  case refine_2 =>
    intro hbusy i hi
    rw [exec_fabCommands hi, s.fabWrite_of_busy val hbusy]
  case refine_3 =>
    intro hidle hovr
    refine ⟨?_, ?_, ?_, ?_⟩
    · rintro port hop rfl hport hdown
      rw [exec_fabCommands (val := val) (by simp), State.fabWrite_retrain hidle hovr hop hport hdown]
      rfl
    · intro hop hroute
      rw [exec_fabCommands (val := val) (by simp), State.fabWrite_routewr hidle hovr hop hroute]
      rfl
    · intro hop
      rw [exec_fabCommands (val := val) (by simp), State.fabWrite_routerd hidle hovr hop]
    · intro hop
      rw [exec_fabCommands (val := val) (by simp), State.fabWrite_error hidle hovr hop, State.fabDone_fabBegun]
  case refine_4 =>
    intro part f hf
    refine ⟨fun hresp => ?_, exec_fltrespUnresolvable_of_answered hf⟩
    rw [exec_fltrespReplay_of_answered hf hresp, State.resolved]
  case refine_5 =>
    exact fun part hpart => ⟨exec_fltcfg_of_off hpart, exec_fltbase_of_off hpart, exec_fltcons_of_noFaults hpart⟩

end Sys2Proof.Machine
end

section
/-! Refutes O50. A logged store of 16 bytes is performed as two of 8 bytes, the second at the next physical address (R141, R142), while the statement speaks of
16 bytes from the local address on. The two differ where the second half wraps at the end of the local address space (R43): for a lane whose address is not
aligned, on the last frame of the space, which no walk gives (R50) but which the statement lets a TLB hold. -/

namespace Sys2Proof.Machine

/-- The lane's access: the last 8 bytes of page 0 and the 8 bytes behind it, with 1 in the second half. -/
def wrapAccess : LaneAcc := ⟨0, 0xFFF8, 0x10000000000000000, 0⟩

/-- The logged store. -/
def wrapEntry : LogEntry where
  instr := .stQ ⟨false, false, false⟩ 0 ⟨0, 0, .core, .plain, false⟩
  pc := 0x10000
  slot := .a
  mask := 1
  lanes := [wrapAccess]
  pages := []
  due := 0
  kind := .access
  acq := false
  seq := 0

/-- A group whose log holds that store alone. -/
def wrapGroup : Group := { State.writeRegs.default0 with log := [wrapEntry] }

/-- The translation of page 0 to the last frame of the local address space, readable, writable and dirty. -/
def wrapEntryHeld : TlbEntry := ⟨.l1 0, 0, 0, BitVec.ofNat 64 ((2 ^ 29 - 1) * 65536 + 0x600F), false, false⟩

/-- The package with that group and that translation. -/
def wrapPkg : State := { State.reset with groups := [some wrapGroup], tlb := [wrapEntryHeld] }

/-- The memory that an outcome leaves. -/
def memoryAfter : Host.Outcome State Fault Refusal → Mem
  | .next s => s.mem
  | _ => []

/-- The access translates to the last 8 bytes of the local address space. -/
theorem wrapPkg_resolve : wrapPkg.resolve (wrapPkg.coreOf wrapGroup) (wrapPkg.asidOf wrapGroup) .store wrapEntry.lanes =
    .ok wrapPkg [(wrapAccess, 2 ^ 45 - 8)] := rfl

/-- The replay writes the second half at local address 0. -/
theorem memoryAfter_replay : (memoryAfter (exec (.operandLogReplay 0) wrapPkg)).get 0 = 1 := by decide +kernel

/-- Refutes O50: the replayed store of 16 bytes from 2^45 − 8 on changes byte 0. -/
theorem not_translationEventsComplete : ¬ Obligations.TranslationEventsComplete := by
  unfold Obligations.TranslationEventsComplete
  rintro ⟨-, -, -, hreplay, -⟩
  obtain ⟨t, ht, -, hother, -⟩ := hreplay wrapPkg wrapPkg 0 16 (2 ^ 45 - 8) wrapGroup wrapEntry [] wrapAccess
    rfl rfl rfl rfl trivial rfl rfl rfl wrapPkg_resolve rfl rfl
  have hwrites : t.mem.get 0 = 1 := by
    have h := memoryAfter_replay
    rwa [ht] at h
  have hkeeps : t.mem.get 0 = 0 := hother 0 (.inl (by decide))
  rw [hkeeps] at hwrites
  exact absurd hwrites (by decide)

end Sys2Proof.Machine
end

section
/-! Refutes O35, at CALLI. The statement asks that the pair vp be free of poison, as v[vp] and v[vp+1] by their numbers as naturals; CALLI looks at registers vp and vp + 1,
which for vp = 63 are v63 and v0. No word encodes an odd vp, but the statement's CALLI is any that issues: it traps POISON where v0 alone is poisoned. -/

namespace Sys2Proof.Machine

/-! ### A state in which CALLI with vp = 63 issues -/

/-- A launch in address space 1 with a code section of 100 packets at 0x10000. -/
def oddCallLaunch : Launch where
  serial := 0
  img := 0
  asid := 1
  part := 0
  queue := 0
  parent := none
  qprio := none
  msix := none
  hdr := ⟨1, false, 0, 1, 1, 0, 0, 0, 0, 0, 0, 0, 0, 0, 0, 0, 0, 0, 0, 0, 0⟩
  sects := [(0x10000, 1200)]
  edges := []
  nodes := []
  runs := []
  podNodes := []
  podWord := 0
  podTotal := 0
  counts := []
  faulted := none
  children := 0
  slots := [0]
  teamCount := 1
  ladder := none
  stopAt := 0
  told := 0
  live := true

/-- Its team, on core 0. -/
def oddCallTeam : Team where
  teamId := 0
  launch := 0
  node := 0
  core := 0
  width := 32
  floor := 0
  localBase := 0
  localSize := 0
  localMem := []
  localPoison := []
  counts := []
  safe := false
  prio := 0
  rescue := false
  halting := none
  started := 0
  groups := [0]
  podGen := none
  podDone := false
  live := true

/-- One lane at 0x10000. -/
def oddCallPath : Path := ⟨0x10000, 1, 0, none, none, none, false⟩

/-- The group: v0 is 0 and poisoned, v63 is 0x10000, which is both the stack offset and the low word of the target, and a15 describes the addresses below 0x20000. -/
def oddCallGroup : Group := { State.writeRegs.default0 with
  v := Tbl.set ⟨.empty, none, 0⟩ [⟨.uniform 0 true, none, 0⟩] 63 ⟨.uniform 0x10000 false, none, 0⟩
  a := Tbl.set Desc.null [] 15 ⟨0, 0, 0x20000, 0x3⟩
  slotA := some oddCallPath
  live := true }

/-- Core 0 holds the translation of page 1 to frame 2, where a PAD with tag 5 stands first. -/
def oddCallPkg : State := { State.reset with
  groups := [some oddCallGroup]
  teams := [some oddCallTeam]
  launches := [some oddCallLaunch]
  mem := [(0x20001, 0x40), (0x20002, 0x81), (0x20003, 0x1D)]
  tlb := [⟨.l1 0, 1, 1, 0x2601F, false, false⟩] }

/-- The path at CALLI. -/
def oddCallCtx : Ctx := ⟨oddCallPkg, 0, .a, oddCallGroup, oddCallPath⟩

/-- The instruction: CALLI of the pair 63 with tag 5 and a frame of 16 bytes. -/
def oddCall : Instr := .calli ⟨false, false, false⟩ 63 5 1

/-- The package once the PAD has been fetched. -/
def oddCallFetched : State := { oddCallPkg with icache := [(0, 1, 0x10000, 0x1D814000)] }

/-- The header's store, at its physical address. -/
def oddCallStore : LaneAcc × Nat := (⟨0, 0x10000, (oddCallCtx.header (oddCallCtx.packetAt 1) 0 0 0).2.2.bits, 0⟩, 0x20000)

theorem oddCall_issues : oddCallCtx.Quiet oddCall ∧ oddCallCtx.act ≠ 0 := by decide +kernel

theorem oddCall_stack : ∀ l, l < 64 → oddCallCtx.act.getLsbD l = true → oddCallCtx.stackTakes l 16 ∧ oddCallCtx.g.badN 63 2 l = false := by decide +kernel

theorem oddCall_targets : oddCallCtx.s.checkTargets oddCallCtx.g (oddCallCtx.g.pairTargets oddCallCtx.act 63) (some 5) = .ok () oddCallFetched := rfl

theorem oddCall_frames : oddCallFetched.writeFrames oddCallCtx.g (oddCallCtx.act.lanes.map (oddCallCtx.header (oddCallCtx.packetAt 1) 0 0)) =
    .ok [oddCallStore] oddCallFetched := rfl

/-! ### What the model does there -/

/-- Whether the group 0 that an outcome leaves is at trap level. -/
def levelAfter : Host.Outcome State Fault Refusal → Option Bool
  | .next s => (s.group 0).map fun g => g.trap.level
  | _ => none

/-- CALLI traps there: the group does not go on outside trap level. -/
theorem levelAfter_oddCall : levelAfter (exec oddCall oddCallPkg) ≠ some false := by decide +kernel

/-- A transfer to one target leaves the group outside trap level where the register writes before it did. -/
theorem levelAfter_spread {u : State} {g : Group} (hu : oddCallFetched.sameButMemory u) (hg : oddCallGroup.onlyRegs g) (t : DWord) (m : Mask) :
    levelAfter (.next ((u.setGroup 0 (g.spread .a oddCallPath [(t, m)] (some (oddCallCtx.packetAt 1)))).fitAreas 0 oddCallGroup.inRows)) = some false := by
  have hrun : oddCallCtx.s.SameRun u := by
    rw [hu]
    exact ⟨rfl, rfl, rfl⟩
  obtain ⟨⟨⟨hlive, -⟩, -, hroomy⟩, -⟩ := oddCall_issues
  have hfit := Ctx.fitAreas_setGroup hlive hroomy hrun (g := g.spread .a oddCallPath [(t, m)] (some (oddCallCtx.packetAt 1))) (by rw [hg]; rfl) oddCallGroup.inRows
  rw [show oddCallCtx.n = 0 from rfl] at hfit
  rw [hfit, levelAfter, State.group_setGroup_same, hg]
  rfl

/-- Refutes O35: CALLI with vp = 63 traps for the poison of v0, where the statement has it go to its target. -/
theorem not_callsAndReturns : ¬ Obligations.CallsAndReturns := by
  unfold Obligations.CallsAndReturns
  rintro ⟨hcalls, -⟩
  obtain ⟨hquiet, hact⟩ := oddCall_issues
  have hlocal : ∀ a ∈ [oddCallStore], oddCallFetched.isLocal a.2 = true := by decide +kernel
  have hcall := (hcalls oddCallCtx ⟨false, false, false⟩ 0 63 5 1 oddCallFetched oddCallFetched [oddCallStore] rfl hact
    (fun l hl ha => (oddCall_stack l hl ha).1) hlocal).2
  obtain ⟨u, g, hexec, ⟨hu, -⟩, ⟨hg, -⟩, -⟩ := hcall hquiet (fun l hl ha => (oddCall_stack l hl ha).2) oddCall_targets (by decide +kernel) oddCall_frames
  have hsets : groupTargets 64 (oddCallCtx.g.pairTargets oddCallCtx.act 63) = [(0x10000, 1)] := by decide +kernel
  rw [hsets] at hexec
  exact levelAfter_oddCall ((congrArg levelAfter hexec).trans (levelAfter_spread hu hg _ _))

end Sys2Proof.Machine
end

section
/-! SUPPORT. What writes of vector registers deliver, one after another (R21, R34, R77, R145), and the registers from one number upward as a set (R36). -/

namespace Sys2Proof.Machine

/-! ### A quiet instruction -/

theorem Ctx.group_of_quiet {c : Ctx} {i : Instr} (hq : c.Quiet i) : c.s.group c.n = some c.g := by
  obtain ⟨⟨⟨-, hgroup, -⟩, -⟩, -⟩ := hq
  exact hgroup
theorem Ctx.plain_of_quiet {c : Ctx} {i : Instr} (hq : c.Quiet i) : c.plain = true := by
  obtain ⟨-, hplain, -⟩ := hq
  exact hplain

/-! ### Lanes that take part (R20) -/

/-- An active lane below 64 makes the lowest lane one of the active ones. -/
theorem lowest_of_active {m : Mask} {l : Nat} (h : m.getLsbD l = true) : m.lowest = some (m.lowest.getD 0) := by
  have hl : l < 64 := BitVec.lt_of_getLsbD h
  cases hm : m.lowest with
  | some k => rfl
  | none => exact absurd h (by simpa using List.find?_eq_none.mp hm l (List.mem_range.mpr hl))

/-- The lanes that take part have no repeats. -/
theorem partLanes_nodup (h : Hdr) (act : Mask) : (partLanes h act).Nodup := by
  unfold partLanes
  split
  · cases act.lowest <;> simp
  · exact List.nodup_range.filter _

/-- Under U at most the lowest active lane takes part. -/
theorem partLanes_uniform {h : Hdr} (hu : h.u = true) (act : Mask) : partLanes h act = act.lowest.toList := if_pos hu

/-- Every lane that takes part is active. -/
theorem active_of_mem_partLanes {h : Hdr} {act : Mask} {k : Nat} (hk : k ∈ partLanes h act) : act.getLsbD k = true := by
  unfold partLanes at hk
  split at hk
  · exact (Mask.lowest_active (Option.mem_toList.mp hk)).1
  · exact ((Mask.mem_lanes act k).mp hk).2

/-! ### Writes of vector registers -/

/-- What a register write gives lane l of the register that it names. -/
def Write.valueAt : Write → Nat → Word × Bool
  | .lanes _ vals, l => Tbl.get (0, false) vals l
  | .uniform _ val bad, _ => (val, bad)
  | _, _ => (0, false)

/-- The mask that writes are made under: the group has a width of R273, and a full mask with no lane exited is all of its lanes. -/
structure Group.Under (g : Group) (act : Mask) (full : Bool) : Prop where
  width : g.widthOk = true
  whole : full = true → g.exited = 0 → act = g.all

/-- The path of a plain context writes under its own mask. -/
theorem Ctx.under_plain {c : Ctx} (h : c.plain = true) : c.g.Under c.act c.full := by
  simp only [Ctx.plain, Bool.and_eq_true] at h
  obtain ⟨⟨⟨⟨-, hwidth⟩, -⟩, -⟩, -⟩ := h
  exact ⟨hwidth, Ctx.full_all⟩

/-- A write of a vector register changes no other part of the group. -/
theorem Group.apply_onlyV {w : Write} {r : Nat} (hw : w.vreg? = some r) (g : Group) (act : Mask) (full : Bool) :
    g.apply act full w = { g with v := (g.apply act full w).v } := by
  cases w with
  | lanes r vals => rfl
  | uniform r val bad =>
    simp only [Group.apply, Group.writeUniform]
    split <;> rfl
  | _ => cases hw

theorem Group.Under.apply {g : Group} {act : Mask} {full : Bool} (h : g.Under act full) {w : Write} {r : Nat} (hw : w.vreg? = some r) :
    (g.apply act full w).Under act full := by
  rw [Group.apply_onlyV hw]
  exact ⟨h.width, h.whole⟩

/-- What every register delivers after a write of one: the value written in that register's active lanes, and what it delivered elsewhere. -/
theorem Group.rdp_apply {g : Group} {act : Mask} {full : Bool} (h : g.Under act full) {w : Write} {r : Nat} (hw : w.vreg? = some r) (k l : Nat) :
    (g.apply act full w).rdp k l = if k = r ∧ l < g.width ∧ act.getLsbD l = true then w.valueAt l else g.rdp k l := by
  cases w with
  | lanes r' vals =>
    obtain rfl := Option.some.inj hw
    exact Group.rdp_writeLanes h.width act r' vals k l
  | uniform r' val bad =>
    obtain rfl := Option.some.inj hw
    exact Group.rdp_writeUniform h.width act full r' val bad k l h.whole
  | _ => cases hw

/-- A write of a vector register stays within every frame that names it. -/
theorem Group.sameBut_apply {g : Group} {act : Mask} {full : Bool} (h : g.Under act full) {w : Write} {r : Nat} (hw : w.vreg? = some r) {f : Foot}
    (hr : f.v.getLsbD r = true) : g.SameBut (g.apply act full w) act f := by
  cases w with
  | lanes r' vals =>
    obtain rfl := Option.some.inj hw
    exact Group.sameBut_writeLanes h.width act vals hr
  | uniform r' val bad =>
    obtain rfl := Option.some.inj hw
    exact Group.sameBut_writeUniform h.width act full val bad h.whole hr
  | _ => cases hw

theorem Group.SameBut.refl (g : Group) (act : Mask) (f : Foot) : g.SameBut g act f :=
  ⟨rfl, fun _ _ _ => rfl, fun _ _ _ _ => rfl, fun _ _ => ⟨rfl, rfl⟩, fun _ _ _ => ⟨rfl, rfl⟩, fun _ _ _ => rfl, fun _ _ => rfl, fun _ _ => rfl⟩

theorem Group.SameBut.trans {g g' g'' : Group} {act : Mask} {f : Foot} (h : g.SameBut g' act f) (h' : g'.SameBut g'' act f) :
    g.SameBut g'' act f := by
  obtain ⟨ho, hv, hl, hp, hpl, hx, ha, hf⟩ := h
  obtain ⟨ho', hv', hl', hp', hpl', hx', ha', hf'⟩ := h'
  refine ⟨?_, fun r hr hw => (hv' r hr hw).trans (hv r hr hw), fun r i hr hi => (hl' r i hr hi).trans (hl r i hr hi),
    fun r hw => ⟨(hp' r hw).1.trans (hp r hw).1, (hp' r hw).2.trans (hp r hw).2⟩,
    fun r i hi => ⟨(hpl' r i hi).1.trans (hpl r i hi).1, (hpl' r i hi).2.trans (hpl r i hi).2⟩,
    fun n hn hw => (hx' n hn hw).trans (hx n hn hw), fun n hw => (ha' n hw).trans (ha n hw), fun n hw => (hf' n hw).trans (hf n hw)⟩
  unfold Group.onlyRegs at ho ho' ⊢
  rw [ho', ho]

/-- Writes of vector registers stay within every frame that names them. -/
theorem Group.sameBut_applyAll {g : Group} {act : Mask} {full : Bool} (h : g.Under act full) {ws : List Write} {f : Foot}
    (hws : ∀ w ∈ ws, ∃ r, w.vreg? = some r ∧ f.v.getLsbD r = true) : g.SameBut (g.applyAll act full ws) act f := by
  induction ws generalizing g with
  | nil => exact .refl g act f
  | cons w ws ih =>
    obtain ⟨r, hw, hr⟩ := hws w (by simp)
    exact (Group.sameBut_apply h hw hr).trans (ih (h.apply hw) fun x hx => hws x (by simp [hx]))

/-- Writes of other vector registers leave what a register delivers. -/
theorem Group.rdp_applyAll_other {g : Group} {act : Mask} {full : Bool} (h : g.Under act full) {ws : List Write} {k : Nat}
    (hws : ∀ w ∈ ws, ∃ r, w.vreg? = some r ∧ r ≠ k) (l : Nat) : (g.applyAll act full ws).rdp k l = g.rdp k l := by
  induction ws generalizing g with
  | nil => rfl
  | cons w ws ih =>
    obtain ⟨r, hw, hr⟩ := hws w (by simp)
    have hrest := ih (h.apply hw) fun x hx => hws x (by simp [hx])
    have hfirst := Group.rdp_apply h hw k l
    rw [if_neg fun e => hr e.1.symm] at hfirst
    exact hrest.trans hfirst

/-- Of writes of different vector registers each gives its register's active lanes the value written. -/
theorem Group.rdp_applyAll {g : Group} {act : Mask} {full : Bool} (h : g.Under act full) {ws : List Write}
    (hall : ∀ w ∈ ws, w.vreg?.isSome = true) (hne : ws.Pairwise fun w w' => w.vreg? ≠ w'.vreg?) {w : Write} (hmem : w ∈ ws) {r l : Nat}
    (hw : w.vreg? = some r) (hl : l < g.width) (ha : act.getLsbD l = true) : (g.applyAll act full ws).rdp r l = w.valueAt l := by
  induction ws generalizing g with
  | nil => cases hmem
  | cons x xs ih =>
    obtain ⟨hx, hxs⟩ := List.pairwise_cons.mp hne
    obtain ⟨q, hq⟩ := Option.isSome_iff_exists.mp (hall x (by simp))
    rcases List.mem_cons.mp hmem with rfl | hmem
    · have hother : ∀ y ∈ xs, ∃ k, y.vreg? = some k ∧ k ≠ r := fun y hy => by
        obtain ⟨k, hk⟩ := Option.isSome_iff_exists.mp (hall y (by simp [hy]))
        exact ⟨k, hk, fun e => hx y hy (by rw [hw, hk, e])⟩
      have hfirst := Group.rdp_apply h hw r l
      rw [if_pos ⟨rfl, hl, ha⟩] at hfirst
      exact (Group.rdp_applyAll_other (h.apply hw) hother l).trans hfirst
    · have hwidth : (g.apply act full x).width = g.width := by rw [Group.apply_onlyV hq]
      exact ih (h.apply hq) (fun y hy => hall y (by simp [hy])) hxs hmem (hwidth ▸ hl)

/-! ### Registers from a number upward (R26, R36) -/

/-- A pair of registers ends below v64, and so does a quad. -/
theorem pair_le {r : BitVec 6} (h : evenReg r = true) : r.toNat + 2 ≤ 64 := by
  have hr : r.toNat % 2 = 0 := by simpa [evenReg] using h
  omega
theorem quad_le {r : BitVec 6} (h : quadReg r = true) : r.toNat + 4 ≤ 64 := by
  have hr : r.toNat % 4 = 0 := by simpa [quadReg] using h
  omega
/-- The high register of a pair. -/
theorem pairHigh_toNat {r : BitVec 6} (h : evenReg r = true) : (r + 1).toNat = r.toNat + 1 := by
  have hr := pair_le h
  bv_omega

/-- The sum of n powers of two from 2^r upward. -/
theorem sum_two_pow_from (r n : Nat) : (List.range n).foldl (fun acc k => acc + 2 ^ (r + k)) 0 = 2 ^ r * (2 ^ n - 1) := by
  induction n with
  | zero => simp
  | succ n ih =>
    rw [List.range_succ, List.foldl_append, ih]
    have : 0 < 2 ^ n := Nat.two_pow_pos n
    simp only [List.foldl_cons, List.foldl_nil, Nat.pow_add, Nat.pow_one]
    rw [← Nat.mul_add]
    congr 1
    omega

/-- The set of n registers from r upward holds each of them. -/
theorem Foot.vs_getLsbD {r : BitVec 6} {n k : Nat} (hk : k < n) (hn : r.toNat + n ≤ 64) : (Foot.vs r n).v.getLsbD (r.toNat + k) = true := by
  unfold Foot.vs
  simp only [sum_two_pow_from, BitVec.getLsbD_ofNat, Nat.testBit_two_pow_mul, Nat.testBit_two_pow_sub_one]
  simp
  omega

end Sys2Proof.Machine
end

section
/-! Settles O19: ASET, AADV, ANARROW and their traps, AGET, and FMTSET (R71 to R74, R199, R229). -/

namespace Sys2Proof.Machine

/-! ### Values -/

/-- ASET's length is the low 48 bits of its second pair, and its permissions are the high 16 (R71). -/
theorem aset_fields (g : Group) (vq : BitVec 6) (l : Nat) :
    (((g.rd (vq + 3) l).setWidth 16 : BitVec 16) ++ g.rd (vq + 2) l) = BitVec.ofNat 48 ((g.rd2 (vq + 2) l).toNat % 2 ^ 48) ∧
    (g.rd (vq + 3) l).extractLsb' 16 16 = BitVec.ofNat 16 ((g.rd2 (vq + 2) l).toNat / 2 ^ 48) := by
  have hhigh : vq + 2 + 1 = vq + 3 := by rw [BitVec.add_assoc]; rfl
  have hpair : (g.rd2 (vq + 2) l).toNat = (g.rd (vq + 3) l).toNat * 2 ^ 32 + (g.rd (vq + 2) l).toNat := by
    rw [Group.rd2, hhigh, toNat_append_eq_add]
  rw [hpair]
  constructor
  · apply BitVec.eq_of_toNat_eq
    rw [toNat_append_eq_add, BitVec.toNat_setWidth, BitVec.toNat_ofNat]
    omega
  · apply BitVec.eq_of_toNat_eq
    rw [BitVec.extractLsb'_toNat, Nat.shiftRight_eq_div_pow, BitVec.toNat_ofNat]
    omega

/-- What is left from the pointer to the end, modulo 2^64 (R73). -/
theorem agetField_rem (d : Desc) :
    agetField d .rem = BitVec.ofInt 64 ((d.base.toNat : Int) + d.length.toNat - d.pointer.toNat) := by
  apply BitVec.eq_of_toNat_eq
  simp only [agetField, BitVec.toNat_ofInt]
  bv_omega

/-! ### Descriptors (R71, R72, R74) -/

/-- ASET by its operands' numbers: the checks of R71 in their order, and the descriptor. -/
theorem effAset_eq (g : Group) (act : Mask) (an : BitVec 4) (vq : BitVec 6) :
    effAset g act an vq =
      let l := act.lowest.getD 0
      let base := (g.rd2 vq l).toNat
      let len := (g.rd2 (vq + 2) l).toNat % 2 ^ 48
      let perm := (g.rd2 (vq + 2) l).toNat / 2 ^ 48
      if g.badN vq 4 l then .error ⟨Cause.poison, l⟩
      else if 32 ≤ perm then .error ⟨Cause.addrPerm, perm⟩
      else if 2 ^ 51 ≤ base ∨ 2 ^ 51 < base + len then .error ⟨Cause.addrLimit, base⟩
      else .ok ⟨[.a an ⟨g.rd2 vq l, g.rd2 vq l, BitVec.ofNat 48 len, BitVec.ofNat 16 perm⟩], []⟩ := by
  obtain ⟨hlen, hperm⟩ := aset_fields g vq (act.lowest.getD 0)
  have hpair := (g.rd2 (vq + 2) (act.lowest.getD 0)).isLt
  have hlenNat : (BitVec.ofNat 48 ((g.rd2 (vq + 2) (act.lowest.getD 0)).toNat % 2 ^ 48)).toNat = (g.rd2 (vq + 2) (act.lowest.getD 0)).toNat % 2 ^ 48 := by
    rw [BitVec.toNat_ofNat]; omega
  have hpermNat : (BitVec.ofNat 16 ((g.rd2 (vq + 2) (act.lowest.getD 0)).toNat / 2 ^ 48)).toNat = (g.rd2 (vq + 2) (act.lowest.getD 0)).toNat / 2 ^ 48 := by
    rw [BitVec.toNat_ofNat]; omega
  unfold effAset
  dsimp only
  rw [hlen, hperm]
  simp only [hlenNat, hpermNat, Bool.or_eq_true, decide_eq_true_eq]

theorem effAset_of_ruleDesc {g : Group} {act : Mask} {h : Hdr} {an an' : BitVec 4} {vq : BitVec 6} {d : Desc}
    (hd : ruleDesc g (act.lowest.getD 0) (.aset h an vq) = some (an', d)) : effAset g act an vq = .ok ⟨[.a an' d], []⟩ := by
  rw [ruleDesc] at hd
  split at hd
  · next hc =>
    obtain ⟨hbad, hperm, hbase, hend⟩ := hc
    obtain ⟨rfl, rfl⟩ := Prod.mk.inj (Option.some.inj hd)
    rw [effAset_eq]
    dsimp only
    rw [if_neg (by rw [hbad]; decide), if_neg (by omega), if_neg (by omega)]
  · cases hd

theorem effAset_of_ruleDescTrap {g : Group} {act : Mask} {h : Hdr} {an : BitVec 4} {vq : BitVec 6} {cause : BitVec 8} {info : Nat}
    (hd : ruleDescTrap g (act.lowest.getD 0) (.aset h an vq) = some (cause, info)) : effAset g act an vq = .error ⟨cause, info⟩ := by
  rw [ruleDescTrap] at hd
  rw [effAset_eq]
  dsimp only at hd ⊢
  split_ifs at hd ⊢ <;> cases hd <;> rfl

/-- AADV by its delta: the moved pointer within [base, base + length), or the trap with its value (R72). -/
theorem effAadv_of_moved {g : Group} {an an' : BitVec 4} {delta : Int} {d : Desc}
    (hd : ruleDesc.moved (g.areg an) delta an = some (an', d)) : effAadv g an delta = .ok ⟨[.a an' d], []⟩ := by
  unfold ruleDesc.moved at hd
  dsimp only at hd
  split_ifs at hd with hc
  obtain ⟨rfl, rfl⟩ := Prod.mk.inj (Option.some.inj hd)
  unfold effAadv
  dsimp only
  rw [if_neg (by simp only [Bool.or_eq_true, decide_eq_true_eq]; omega)]

theorem effAadv_of_left {g : Group} {an : BitVec 4} {delta : Int} {cause : BitVec 8} {info : Nat}
    (hd : ruleDescTrap.left (g.areg an) delta = some (cause, info)) : effAadv g an delta = .error ⟨cause, info⟩ := by
  unfold ruleDescTrap.left at hd
  dsimp only at hd
  split_ifs at hd with hc
  obtain ⟨rfl, rfl⟩ := Prod.mk.inj (Option.some.inj hd)
  unfold effAadv
  dsimp only
  rw [if_pos (by simp only [Bool.or_eq_true, decide_eq_true_eq]; omega)]
  rfl

theorem effAadvPair_of_ruleDesc {g : Group} {act : Mask} {h : Hdr} {an an' : BitVec 4} {vp : BitVec 6} {d : Desc}
    (hd : ruleDesc g (act.lowest.getD 0) (.aadvPair h an vp) = some (an', d)) : effAadvPair g act an vp = .ok ⟨[.a an' d], []⟩ := by
  rw [ruleDesc] at hd
  split_ifs at hd with hbad
  unfold effAadvPair
  dsimp only
  rw [if_neg hbad]
  exact effAadv_of_moved hd

theorem effAadvPair_of_ruleDescTrap {g : Group} {act : Mask} {h : Hdr} {an : BitVec 4} {vp : BitVec 6} {cause : BitVec 8} {info : Nat}
    (hd : ruleDescTrap g (act.lowest.getD 0) (.aadvPair h an vp) = some (cause, info)) : effAadvPair g act an vp = .error ⟨cause, info⟩ := by
  rw [ruleDescTrap] at hd
  unfold effAadvPair
  dsimp only
  split_ifs at hd ⊢ with hbad
  · obtain ⟨rfl, rfl⟩ := Prod.mk.inj (Option.some.inj hd)
    rfl
  · exact effAadv_of_left hd

theorem effAnarrow_of_ruleDesc {g : Group} {act : Mask} {h : Hdr} {ad as an' : BitVec 4} {vp : BitVec 6} {clr : BitVec 8} {d : Desc}
    (hd : ruleDesc g (act.lowest.getD 0) (.anarrow h ad as vp clr) = some (an', d)) : effAnarrow g act ad as vp clr = .ok ⟨[.a an' d], []⟩ := by
  rw [ruleDesc] at hd
  split_ifs at hd with hc
  obtain ⟨hbad, hlen, hend⟩ := hc
  obtain ⟨rfl, rfl⟩ := Prod.mk.inj (Option.some.inj hd)
  unfold effAnarrow
  dsimp only
  rw [if_neg (by rw [hbad]; decide), if_neg (by simp only [Bool.or_eq_true, decide_eq_true_eq]; omega)]
  rfl

theorem effAnarrow_of_ruleDescTrap {g : Group} {act : Mask} {h : Hdr} {ad as : BitVec 4} {vp : BitVec 6} {clr : BitVec 8} {cause : BitVec 8} {info : Nat}
    (hd : ruleDescTrap g (act.lowest.getD 0) (.anarrow h ad as vp clr) = some (cause, info)) :
    effAnarrow g act ad as vp clr = .error ⟨cause, info⟩ := by
  rw [ruleDescTrap] at hd
  unfold effAnarrow
  dsimp only at hd ⊢
  simp only [Bool.or_eq_true, decide_eq_true_eq]
  split_ifs at hd ⊢ <;> cases hd <;> rfl

/-! ### What the instructions answer -/

/-- A register instruction whose effect is one write leaves the group with it, and nothing else changed. -/
theorem issue_write {c : Ctx} {i : Instr} (hq : c.Quiet i) {eff : Group → Mask → Except Trap Eff} {w : Write}
    {g' : Group} (he : eff c.g c.act = .ok ⟨[w], []⟩) (hw : c.g.apply c.act c.full w = g') :
    issue i c.s (fun c => c.runEff i eff) = .next (c.after i g') := hw ▸ runReg_ok hq he

/-- One whose effect is a trap takes it, and no descriptor has changed. -/
theorem issue_trapOf {c : Ctx} {i : Instr} (hi : c.Issues i) (hp : c.plain = true) {eff : Group → Mask → Except Trap Eff} {cause : BitVec 8} {info : Nat}
    (he : eff c.g c.act = .error ⟨cause, info⟩) :
    issue i c.s (fun c => c.runEff i eff) = .next (c.s.takeTrap c.n c.slot ⟨cause, BitVec.ofNat 64 info, c.pc, false⟩) := runReg_trap hi hp he

/-- ASET, AADV and ANARROW give their destination the rule's descriptor (R71, R72, R74). -/
theorem exec_of_ruleDesc {c : Ctx} {i : Instr} {an : BitVec 4} {d : Desc} (hq : c.Quiet i) (hd : ruleDesc c.g c.low i = some (an, d)) :
    exec i c.s = .next (c.after i (c.g.setAreg an d)) := by
  cases i with
  | aset h an' vq => exact issue_write hq (effAset_of_ruleDesc hd) rfl
  | aadvPair h an' vp => exact issue_write hq (effAadvPair_of_ruleDesc hd) rfl
  | aadvImm h an' imm => exact issue_write hq (effAadv_of_moved hd) rfl
  | anarrow h ad as vp clr => exact issue_write hq (effAnarrow_of_ruleDesc hd) rfl
  | _ => cases hd

/-- Where a check of theirs fails they take the rule's trap (R71, R72, R74, R143). -/
theorem exec_of_ruleDescTrap {c : Ctx} {i : Instr} {cause : BitVec 8} {info : Nat} (hi : c.Issues i) (hp : c.plain = true)
    (hd : ruleDescTrap c.g c.low i = some (cause, info)) :
    exec i c.s = .next (c.s.takeTrap c.n c.slot ⟨cause, BitVec.ofNat 64 info, c.pc, false⟩) := by
  cases i with
  | aset h an' vq => exact issue_trapOf hi hp (effAset_of_ruleDescTrap hd)
  | aadvPair h an' vp => exact issue_trapOf hi hp (effAadvPair_of_ruleDescTrap hd)
  | aadvImm h an' imm => exact issue_trapOf hi hp (effAadv_of_left hd)
  | anarrow h ad as vp clr => exact issue_trapOf hi hp (effAnarrow_of_ruleDescTrap hd)
  | _ => cases hd

/-- A write from a lane's value to one register names that register, and gives every active lane the value of its lane (the lowest's under U) (R20, R40). -/
theorem lanesEff_of_active {h : Hdr} {g : Group} {act : Mask} (hw : g.widthOk = true) (vd : BitVec 6) (f : Nat → Word × Bool) {l₀ : Nat}
    (ha : act.getLsbD l₀ = true) : ∃ w, (lanesEff h g act vd f).writes = [w] ∧ w.vreg? = some vd.toNat ∧
      ∀ l, l < g.width → w.valueAt l = f (if h.u then act.lowest.getD 0 else l) := by
  unfold lanesEff
  split
  · rw [lowest_of_active ha]
    exact ⟨_, rfl, rfl, fun _ _ => rfl⟩
  · refine ⟨_, rfl, rfl, fun l hl => ?_⟩
    have hwidth := Group.width_le hw
    exact (Tbl.get_map_range (0, false) f g.w l).trans (if_pos (by omega))

/-- Every write of a pair's effect names a register of the pair (R40). -/
theorem pairEff_vreg {h : Hdr} {g : Group} {act : Mask} {vd : BitVec 6} (heven : evenReg vd = true) {f : Nat → DWord × Bool} :
    ∀ w ∈ (pairEff h g act vd f).writes, ∃ r, w.vreg? = some r ∧ (Foot.vs vd 2).v.getLsbD r = true := by
  have hend := pair_le heven
  have hsingle : ∀ (r : BitVec 6) (f : Nat → Word × Bool), ∀ w ∈ (lanesEff h g act r f).writes, w.vreg? = some r.toNat := by
    intro r f w hw
    unfold lanesEff at hw
    split at hw
    · split at hw
      · cases hw
      · rw [List.mem_singleton.mp hw]; rfl
    · rw [List.mem_singleton.mp hw]; rfl
  intro w hw
  rcases List.mem_append.mp hw with hw | hw
  · exact ⟨_, hsingle _ _ _ hw, Foot.vs_getLsbD (k := 0) (by omega) hend⟩
  · exact ⟨_, hsingle _ _ _ hw, pairHigh_toNat heven ▸ Foot.vs_getLsbD (k := 1) (by omega) hend⟩

/-- A pair's effect gives every active lane its doubleword (R40). -/
theorem rd2_pairEff {h : Hdr} {g : Group} {act : Mask} {full : Bool} (hu : g.Under act full) {vd : BitVec 6} (heven : evenReg vd = true)
    (f : Nat → DWord × Bool) {l : Nat} (hl : l < g.width) (ha : act.getLsbD l = true) :
    (g.applyAll act full (pairEff h g act vd f).writes).rd2 vd l = (f (if h.u then act.lowest.getD 0 else l)).1 := by
  obtain ⟨lo, hlo, hlor, hlov⟩ := lanesEff_of_active (h := h) hu.width vd (fun i => ((f i).1.setWidth 32, (f i).2)) ha
  obtain ⟨hi, hhi, hhir, hhiv⟩ := lanesEff_of_active (h := h) hu.width (vd + 1) (fun i => ((f i).1.extractLsb' 32 32, (f i).2)) ha
  have hws : (pairEff h g act vd f).writes = [lo, hi] := by
    simp only [pairEff, hlo, hhi, List.cons_append, List.nil_append]
  have hall : ∀ w ∈ [lo, hi], w.vreg?.isSome = true := by simp [hlor, hhir]
  have hne : [lo, hi].Pairwise fun w w' => w.vreg? ≠ w'.vreg? := by
    rw [pairHigh_toNat heven] at hhir
    simp [hlor, hhir]
  rw [hws, Group.rd2, Group.rd, Group.rd, Group.rdp_applyAll hu hall hne (by simp) hlor hl ha, Group.rdp_applyAll hu hall hne (by simp) hhir hl ha,
    hlov l hl, hhiv l hl]
  apply BitVec.eq_of_toNat_eq
  rw [toNat_append_eq_add, BitVec.extractLsb'_toNat, BitVec.toNat_setWidth, Nat.shiftRight_eq_div_pow]
  omega

/-- AGET gives every active lane the field (R73). -/
theorem exec_aget_field {c : Ctx} {h : Hdr} {vd : BitVec 6} {an : BitVec 4} {sel : AgetSel} (hq : c.Quiet (.aget h vd an sel)) (heven : evenReg vd = true) :
    ∃ g', exec (.aget h vd an sel) c.s = .next (c.after (.aget h vd an sel) g') ∧ c.g.SameBut g' c.act (Foot.vs vd 2) ∧
      ∀ l, l < c.g.width → c.act.getLsbD l = true → g'.rd2 vd l = agetField (c.g.areg an) sel := by
  have hu := Ctx.under_plain (Ctx.plain_of_quiet hq)
  have hrun := runReg_ok hq (eff := fun g act => .ok (pairEff h g act vd fun _ => (agetField (g.areg an) sel, false))) rfl
  exact ⟨_, hrun, Group.sameBut_applyAll hu (pairEff_vreg heven), fun l hl ha => rd2_pairEff hu heven _ hl ha⟩

/-- FMTSET gives the format register a valid word, and traps on another (R199, R229). -/
theorem exec_fmtset_word {c : Ctx} {h : Hdr} {fd : BitVec 2} {va : BitVec 6} (hq : c.Quiet (.fmtset h fd va)) (hbad : c.g.bad va c.low = false) :
    if fmtValid (c.g.rd va c.low) then
      exec (.fmtset h fd va) c.s = .next (c.after (.fmtset h fd va) { c.g with f := Tbl.set 0 c.g.f fd.toNat (c.g.rd va c.low) })
    else exec (.fmtset h fd va) c.s = .next (c.s.takeTrap c.n c.slot ⟨0x02, BitVec.ofNat 64 (c.g.rd va c.low).toNat, c.pc, false⟩) := by
  have heff : effFmtset c.g c.act fd va = if fmtValid (c.g.rd va c.low) then .ok ⟨[.f fd (c.g.rd va c.low)], []⟩
      else .error ⟨Cause.badForm, (c.g.rd va c.low).toNat⟩ := by
    unfold effFmtset
    change (if c.g.bad va c.low then _ else if !fmtValid (c.g.rd va c.low) then _ else _) = _
    rw [hbad]
    cases fmtValid (c.g.rd va c.low) <;> rfl
  split
  · next hv =>
    rw [if_pos hv] at heff
    exact issue_write hq heff rfl
  · next hv =>
    rw [if_neg hv] at heff
    exact issue_trapOf hq.1 (Ctx.plain_of_quiet hq) heff

/-- Settles O19, by the instruction that each clause names. -/
theorem addressRegisters : Obligations.AddressRegisters := by
  unfold Obligations.AddressRegisters
  refine ⟨⟨fun c i an d hq hd => exec_of_ruleDesc hq hd, fun c i cause info hi hp hd => exec_of_ruleDescTrap hi hp hd⟩, ?_, ?_⟩
  · intro c h vd an sel i hq hwf
    obtain ⟨g', hexec, hsame, hval⟩ := exec_aget_field hq hwf
    refine ⟨g', hexec, hsame, fun l hl ha => (hval l hl ha).trans ?_⟩
    cases sel with
    | rem => exact agetField_rem _
    | len => exact (BitVec.ofNat_toNat ..).symm
    | perm => exact (BitVec.ofNat_toNat ..).symm
    | _ => rfl
  · intro c h fd va i x hq hact hbad
    exact exec_fmtset_word hq hbad

end Sys2Proof.Machine
end

section
/-! Settles O23: the checks of a global access in their order (R75, R76, R81, R87, R143). -/

namespace Sys2Proof.Machine

/-! ### Global memory instructions -/

/-- Where no slice is recorded an LDK is a global access like another (R82). -/
theorem Ctx.ldk_plain {c : Ctx} (h : c.plain = true) (i : Instr) (o : MemOp) (an : BitVec 4) (vo : BitVec 6) : c.ldk i o an vo = c.global i o an vo := by
  simp only [Ctx.plain, Bool.and_eq_true, Option.isNone_iff_eq_none] at h
  obtain ⟨⟨⟨-, hslice⟩, -⟩, -⟩ := h
  simp [Ctx.ldk, hslice]

/-- Every global memory instruction is the global access of its form and operation (R75). -/
theorem exec_global {c : Ctx} {i : Instr} {o : MemOp} {an : BitVec 4} {vo : BitVec 6} (hp : c.plain = true) (hf : globalForm i = some (an, vo))
    (ho : memOpOf i = some o) : ∃ body, exec i c.s = issue i c.s body ∧ body c = c.global i o an vo := by
  cases i with
  | ldkW h vt an' vo' nt =>
    cases hf; cases ho
    exact ⟨fun c => c.ldk _ _ _ _, rfl, Ctx.ldk_plain hp ..⟩
  | ldkD h vt an' vo' nt =>
    cases hf; cases ho
    exact ⟨fun c => c.ldk _ _ _ _, rfl, Ctx.ldk_plain hp ..⟩
  | ldB | ldH | ldW | ldD | ldQ | stB | stH | stW | stD | stQ | atom | red | cas =>
    cases hf; cases ho
    exact ⟨fun c => c.global _ _ _ _, rfl, rfl⟩
  | _ => cases hf

/-- A global access of a plain path, unless it is a uniform one without an active lane: its checks on the operands as they are, then its pages (R20, R75). -/
theorem Ctx.global_plain {c : Ctx} (hp : c.plain = true) {i : Instr} (hact : ¬(i.hdr.u = true ∧ c.act = 0)) (o : MemOp) (an : BitVec 4) (vo : BitVec 6) :
    c.global i o an vo = match c.s.checkGlobal c.g (partLanes i.hdr c.act) (c.g.areg an) vo o (memData i c.g) with
      | .error t => .trap t c.s
      | .ok accs =>
        match c.s.resolve (c.s.coreOf c.g) (c.s.asidOf c.g) o.need accs with
        | .refused ea s1 => .trap ⟨Cause.addrPerm, ea⟩ s1
        | .poison l s1 => .trap ⟨Cause.poison, l⟩ s1
        | .wait s1 pages => if c.logFull then .hold c.s else .ok (c.enterLog i s1 accs pages)
        | .ok s1 at_ => c.access i s1 o at_ := by
  have hcond : (i.hdr.u && c.act == 0) = false := by simpa using hact
  unfold Ctx.global Ctx.unless
  rw [hcond, Ctx.withForm_plain hp]
  rfl

/-- A lane that fails a check stands among the lanes that take part, so that there is one. -/
theorem not_idle_of_mem {h : Hdr} {act : Mask} {l : Nat} (hl : l ∈ partLanes h act) : ¬(h.u = true ∧ act = 0) := by
  rintro ⟨-, rfl⟩
  exact absurd (active_of_mem_partLanes hl) (by simp)

/-- A global access of which a check fails takes the check's trap, with the instruction's PC (R332). -/
theorem exec_global_trap {c : Ctx} {i : Instr} {o : MemOp} {an : BitVec 4} {vo : BitVec 6} {l : Nat} {t : Trap} (hi : c.Issues i) (hp : c.plain = true)
    (hf : globalForm i = some (an, vo)) (ho : memOpOf i = some o) (hl : l ∈ partLanes i.hdr c.act)
    (ht : c.s.checkGlobal c.g (partLanes i.hdr c.act) (c.g.areg an) vo o (memData i c.g) = .error t) :
    exec i c.s = .next (c.s.takeTrap c.n c.slot ⟨t.cause, BitVec.ofNat 64 t.info, c.pc, false⟩) := by
  obtain ⟨body, hexec, hbody⟩ := exec_global hp hf ho
  rw [hexec]
  refine issue_trap hi ?_
  rw [hbody, Ctx.global_plain hp (not_idle_of_mem hl), ht]

/-! ### The checks in their order (R75) -/

section
variable (s : State) (g : Group) (lanes : List Nat) (d : Desc) (vo : BitVec 6) (o : MemOp) (data : Nat → BitVec 128 × Marks)

/-- The effective address of a lane (R70). -/
def State.eaOf (k : Nat) : Int := effAddr d (s.wsOf g) k (g.offset vo k)

/-- Check 2 refuses a lane: its offset is poisoned, or its data is and would leave the package (R81, R87, R143). -/
def State.poisonsLane (k : Nat) : Bool :=
  g.offsetBad vo k || ((data k).2 != 0 && s.leaves (s.coreOf g) (s.asidOf g) (s.eaOf g d vo k))

/-- The checks of a global access are made one after the other, each over all lanes that take part. -/
theorem State.checkGlobal_eq : s.checkGlobal g lanes d vo o data =
    match lanes.find? (s.poisonsLane g d vo data) with
    | some k => .error ⟨Cause.poison, k⟩
    | none =>
    match lanes.find? fun _ => !o.permitted d.perm with
    | some k => .error ⟨Cause.addrPerm, infoOf (s.eaOf g d vo k)⟩
    | none =>
    match lanes.find? fun k => !inBounds d (s.wsOf g) k o.bytes (s.eaOf g d vo k) with
    | some k => .error ⟨Cause.addrLimit, infoOf (s.eaOf g d vo k)⟩
    | none =>
    match lanes.find? fun k => (s.eaOf g d vo k).toNat % o.bytes != 0 with
    | some k => .error ⟨Cause.misalign, infoOf (s.eaOf g d vo k)⟩
    | none =>
    match lanes.find? fun k => !o.isLoad && s.refusedStore g d (s.eaOf g d vo k).toNat o.bytes with
    | some k => .error ⟨Cause.addrPerm, infoOf (s.eaOf g d vo k)⟩
    | none => .ok (lanes.map fun k => ⟨k, (s.eaOf g d vo k).toNat, (data k).1, (data k).2⟩) := rfl

variable {s g lanes d vo o data} {l : Nat}

theorem State.checkGlobal_poison (h : lanes.find? (s.poisonsLane g d vo data) = some l) :
    s.checkGlobal g lanes d vo o data = .error ⟨Cause.poison, l⟩ := by
  rw [State.checkGlobal_eq, h]

variable (hclean : ∀ k ∈ lanes, s.poisonsLane g d vo data k = false)
include hclean

theorem State.checkGlobal_addrPerm (hhead : lanes.head? = some l) (hperm : o.permitted d.perm = false) :
    s.checkGlobal g lanes d vo o data = .error ⟨Cause.addrPerm, infoOf (s.eaOf g d vo l)⟩ := by
  have hfirst : (lanes.find? fun _ => !o.permitted d.perm) = some l := by
    rw [hperm]
    cases lanes with
    | nil => cases hhead
    | cons k ks => exact hhead
  rw [State.checkGlobal_eq, List.find?_eq_none.mpr (by simpa using hclean), hfirst]

variable (hperm : o.permitted d.perm = true)
include hperm

theorem State.checkGlobal_addrLimit (h : (lanes.find? fun k => !inBounds d (s.wsOf g) k o.bytes (s.eaOf g d vo k)) = some l) :
    s.checkGlobal g lanes d vo o data = .error ⟨Cause.addrLimit, infoOf (s.eaOf g d vo l)⟩ := by
  rw [State.checkGlobal_eq, List.find?_eq_none.mpr (by simpa using hclean)]
  dsimp only
  rw [List.find?_eq_none.mpr (by simp [hperm]), h]

theorem State.checkGlobal_misalign (hinside : ∀ k ∈ lanes, inBounds d (s.wsOf g) k o.bytes (s.eaOf g d vo k) = true)
    (h : (lanes.find? fun k => (s.eaOf g d vo k).toNat % o.bytes != 0) = some l) :
    s.checkGlobal g lanes d vo o data = .error ⟨Cause.misalign, infoOf (s.eaOf g d vo l)⟩ := by
  rw [State.checkGlobal_eq, List.find?_eq_none.mpr (by simpa using hclean)]
  dsimp only
  rw [List.find?_eq_none.mpr (by simp [hperm])]
  dsimp only
  rw [List.find?_eq_none.mpr (by simpa using hinside), h]

end

/-- Settles O23: the first check that fails over the lanes that take part gives the trap. -/
theorem accessTraps : Obligations.AccessTraps := by
  unfold Obligations.AccessTraps
  intro c i o an vo l hi hp hf ho lanes d ea poisons clean inside traps
  have htrap : ∀ {cause : BitVec 8} {info : Nat} {x : BitVec 64}, l ∈ lanes → BitVec.ofNat 64 info = x →
      c.s.checkGlobal c.g lanes d vo o (memData i c.g) = .error ⟨cause, info⟩ → traps cause x :=
    fun hl hx ht => hx ▸ exec_global_trap hi hp hf ho hl ht
  have hinfo : BitVec.ofNat 64 (infoOf (ea l)) = BitVec.ofInt 64 (ea l) := (BitVec.ofNat_toNat ..).trans (BitVec.setWidth_eq _)
  refine ⟨fun h => ?_, fun hclean hhead hperm => ?_, fun hclean hperm h => ?_, fun hclean hperm hinside h => ?_⟩
  · exact htrap (List.mem_of_find?_eq_some h) rfl (State.checkGlobal_poison h)
  · exact htrap (List.mem_of_mem_head? hhead) hinfo (State.checkGlobal_addrPerm hclean hhead hperm)
  · exact htrap (List.mem_of_find?_eq_some h) hinfo (State.checkGlobal_addrLimit hclean hperm h)
  · exact htrap (List.mem_of_find?_eq_some h) hinfo (State.checkGlobal_misalign hclean hperm hinside h)

end Sys2Proof.Machine
end

section
/-! SUPPORT. Global accesses whose pages translate to this package (R57, R75, R77, R86): what the checks and the translation say of them, and what the instruction answers. -/

namespace Sys2Proof.Machine

/-! ### Groups by number -/

/-- An entry of a table put back leaves the table. -/
theorem Tbl.set_get_some {α : Type} {l : List (Option α)} {i : Nat} {x : α} (h : Tbl.get none l i = some x) : Tbl.set none l i (some x) = l := by
  induction l generalizing i with
  | nil => simp at h
  | cons y ys ih => cases i with
    | zero => exact congrArg (· :: ys) h.symm
    | succ k => exact congrArg (y :: ·) (ih h)

/-- A group put back leaves the state. -/
theorem State.setGroup_of_group {s : State} {n : Nat} {g : Group} (h : s.group n = some g) : s.setGroup n g = s := by
  unfold State.setGroup
  rw [Tbl.set_get_some h]

/-- A path that goes on goes on whether or not its group has been put back. -/
theorem Ctx.advance_setGroup (c : Ctx) (i : Instr) (s : State) (g : Group) :
    c.advance i (s.setGroup c.n g) = s.setGroup c.n (g.setSlot c.slot ((g.slot c.slot).map fun p => { p with pc := c.pc + BitVec.ofNat 64 (4 * i.words) })) := by
  simp [Ctx.advance, Ctx.setPath]

theorem State.SameRun.trans {s t u : State} (h : s.SameRun t) (h' : t.SameRun u) : s.SameRun u :=
  ⟨h'.groups.trans h.groups, h'.teams.trans h.teams, h'.launches.trans h.launches⟩

theorem State.SameRun.group {s t : State} (h : s.SameRun t) (n : Nat) : t.group n = s.group n := by simp only [State.group, h.groups]
theorem State.SameRun.coreOf {s t : State} (h : s.SameRun t) (g : Group) : t.coreOf g = s.coreOf g := by
  simp only [State.coreOf, State.teamOf, State.team, h.teams]

/-! ### Lanes and checks -/

/-- What the checks let through: each lane that takes part with its address and data; the address is within the 51 bits of R47 and aligned (R70, R75). -/
theorem State.checkGlobal_ok {s : State} {g : Group} {lanes : List Nat} {d : Desc} {vo : BitVec 6} {o : MemOp} {data : Nat → BitVec 128 × Marks}
    {accs : List LaneAcc} (h : s.checkGlobal g lanes d vo o data = .ok accs) :
    accs.map LaneAcc.lane = lanes ∧ ∀ a ∈ accs, (a.ea : Int) = effAddr d (s.wsOf g) a.lane (g.offset vo a.lane) ∧ a.data = (data a.lane).1 ∧
      a.ea % o.bytes = 0 := by
  rw [State.checkGlobal_eq] at h
  split at h
  · cases h
  split at h
  · cases h
  split at h
  · cases h
  next hbounds =>
  split at h
  · cases h
  next haligned =>
  split at h
  · cases h
  cases h
  refine ⟨by simp [Function.comp_def], fun a ha => ?_⟩
  obtain ⟨k, hk, rfl⟩ := List.mem_map.mp ha
  have hin : inBounds d (s.wsOf g) k o.bytes (s.eaOf g d vo k) = true := by simpa using List.find?_eq_none.mp hbounds k hk
  have hal : (s.eaOf g d vo k).toNat % o.bytes = 0 := by simpa using List.find?_eq_none.mp haligned k hk
  simp only [inBounds, Bool.and_eq_true, decide_eq_true_eq] at hin
  obtain ⟨⟨-, hnonneg⟩, -⟩ := hin
  exact ⟨Int.toNat_of_nonneg hnonneg, rfl, hal⟩

/-- A global access has 1, 2, 4, 8 or 16 bytes. -/
theorem memOpOf_bytes {i : Instr} {o : MemOp} (h : memOpOf i = some o) : o.bytes ∈ [1, 2, 4, 8, 16] := by
  unfold memOpOf at h
  split at h <;> cases h <;> simp only [MemOp.bytes, List.mem_cons]
  all_goals grind

/-! ### Pages (R56, R57) -/

/-- A translation leaves the groups, teams and launches. -/
theorem State.sameRun_translate (s : State) (core asid va : Nat) (write : Bool) : s.SameRun (s.translate core asid va write).2 := by
  have hwalks : ∀ (ws : List WalkEntry) (t : State), s.SameRun t → s.SameRun (t.walksInsert ws) := by
    intro ws
    induction ws with
    | nil => exact fun t h => h
    | cons w ws ih => exact fun t h => ih _ ⟨h.groups, h.teams, h.launches⟩
  unfold State.translate
  split
  · exact .refl s
  split
  · exact ⟨rfl, rfl, rfl⟩
  unfold State.walkFill
  split
  · exact .refl s
  · exact .refl s
  split
  · exact .refl s
  · next pe e big _ _ =>
    have h := hwalks (s.walkPath (core / 64) asid va big) s (.refl s)
    unfold State.leafFill
    dsimp only
    repeat' split
    all_goals exact ⟨h.groups, h.teams, h.launches⟩

/-- A translation gives the start of a page the start of a frame (R49, R55). -/
theorem State.translate_frame {s s1 : State} {core asid p pa : Nat} {write big : Bool} {pte : DWord}
    (h : s.translate core asid (p * 65536) write = (.ok pa pte big, s1)) : pa % 65536 = 0 := by
  have hleaf : ∀ e b, leafPA e b (p * 65536) % 65536 = 0 := fun e b => by
    unfold leafPA
    split <;> split <;> omega
  unfold State.translate at h
  split at h
  · cases h; exact hleaf _ _
  split at h
  · cases h; exact hleaf _ _
  unfold State.walkFill at h
  split at h
  · cases h
  · cases h
  split at h
  · cases h
  · cases h; exact hleaf _ _

theorem State.sameRun_translateAll (s : State) (core asid : Nat) (write : Bool) (l : List Nat) : s.SameRun (s.translateAll core asid write l).1 := by
  induction l generalizing s with
  | nil => exact .refl s
  | cons p ps ih => exact (s.sameRun_translate core asid _ write).trans (ih _)

theorem State.translateAll_frame {s : State} {core asid : Nat} {write : Bool} {l : List Nat} {x : Nat × Trans} {pa : Nat} {pte : DWord} {big : Bool}
    (hx : x ∈ (s.translateAll core asid write l).2) (hok : x.2 = .ok pa pte big) : pa % 65536 = 0 := by
  induction l generalizing s with
  | nil => cases hx
  | cons p ps ih =>
    rcases List.mem_cons.mp hx with rfl | hx
    · exact State.translate_frame (s1 := (s.translate core asid (p * 65536) write).2) (Prod.ext hok rfl)
    · exact ih hx

/-- The physical address of an access has the place in its frame that the virtual one has in its page. -/
theorem paOf_translateAll {s : State} {core asid ea pa : Nat} {write : Bool} {l : List Nat}
    (h : paOf (s.translateAll core asid write l).2 ea = some pa) : pa % 65536 = ea % 65536 := by
  unfold paOf at h
  split at h
  · next hfind =>
    have hframe := State.translateAll_frame (List.mem_of_find?_eq_some hfind) rfl
    cases h
    omega
  · cases h

/-- What a translation that lets an instruction's accesses through leaves, and the addresses that it gives. -/
theorem State.resolve_ok {s s1 : State} {core asid : Nat} {need : Need} {accs : List LaneAcc} {at_ : List (LaneAcc × Nat)}
    (h : s.resolve core asid need accs = .ok s1 at_) :
    s.SameRun s1 ∧ (at_.map Prod.fst).Sublist accs ∧ ∀ a ∈ at_, a.2 % 65536 = a.1.ea % 65536 := by
  unfold State.resolve at h
  dsimp only at h
  split at h
  · cases h
  split at h
  · cases h
  split at h
  · obtain ⟨rfl, rfl⟩ := Resolved.ok.inj h
    refine ⟨s.sameRun_translateAll _ _ _ _, ?_, fun a ha => ?_⟩
    · rw [List.map_filterMap]
      have hkeep : ∀ f : LaneAcc → Option Nat, (accs.filterMap fun a => ((f a).map fun pa => (a, pa)).map Prod.fst) = accs.filter fun a => (f a).isSome := by
        intro f
        rw [← List.filterMap_eq_filter]
        congr 1
        funext a
        cases hf : f a <;> simp [Option.guard, hf]
      rw [hkeep]
      exact List.filter_sublist
    · obtain ⟨b, -, hb⟩ := List.mem_filterMap.mp ha
      obtain ⟨pa, hpa, rfl⟩ := Option.map_eq_some_iff.mp hb
      exact paOf_translateAll hpa
  · cases h

/-! ### What reaches this package -/

section
variable {c : Ctx} {i : Instr} {o : MemOp} {s1 : State} {at_ : List (LaneAcc × Nat)}

/-- Translation leaves the groups, teams and launches. -/
theorem Ctx.Reaches.sameRun (h : c.Reaches i o s1 at_) : c.s.SameRun s1 := by
  obtain ⟨an, vo, accs, -, -, -, hresolve, -⟩ := h
  exact (State.resolve_ok hresolve).1

theorem Ctx.Reaches.inv (h : c.Reaches i o s1 at_) (hinv : c.s.Inv) : s1.Inv := by
  obtain ⟨an, vo, accs, -, -, -, hresolve, -⟩ := h
  have hres := State.resolve_inv (core := c.s.coreOf c.g) (asid := c.s.asidOf c.g) (need := o.need) (accs := accs) hinv
  rw [hresolve] at hres
  simpa only [Resolved.Inv] using hres

theorem Ctx.Reaches.isLocal (h : c.Reaches i o s1 at_) : ∀ a ∈ at_, s1.isLocal a.2 = true := by
  obtain ⟨an, vo, accs, -, -, -, -, hlocal⟩ := h
  exact hlocal

/-- The accesses are those of lanes that take part, in their order. -/
theorem Ctx.Reaches.lanes (h : c.Reaches i o s1 at_) : (at_.map fun a => a.1.lane).Sublist (partLanes i.hdr c.act) := by
  obtain ⟨an, vo, accs, -, -, hcheck, hresolve, -⟩ := h
  obtain ⟨-, hsub, -⟩ := State.resolve_ok hresolve
  rw [← (State.checkGlobal_ok hcheck).1]
  simpa [Function.comp_def] using hsub.map LaneAcc.lane

/-- Each has its lane's address and data (R70). -/
theorem Ctx.Reaches.operands (h : c.Reaches i o s1 at_) : ∀ a ∈ at_, ∃ an vo, globalForm i = some (an, vo) ∧
    (a.1.ea : Int) = effAddr (c.g.areg an) (c.s.wsOf c.g) a.1.lane (c.g.offset vo a.1.lane) ∧ a.1.data = (memData i c.g a.1.lane).1 := by
  obtain ⟨an, vo, accs, hform, -, hcheck, hresolve, -⟩ := h
  obtain ⟨-, hsub, -⟩ := State.resolve_ok hresolve
  intro a ha
  obtain ⟨hea, hdata, -⟩ := (State.checkGlobal_ok hcheck).2 a.1 (hsub.subset (List.mem_map_of_mem ha))
  exact ⟨an, vo, hform, hea, hdata⟩

/-- An access has 1 to 16 bytes, and its local address is a multiple of them (R75). -/
theorem Ctx.Reaches.aligned (h : c.Reaches i o s1 at_) : o.bytes ∈ [1, 2, 4, 8, 16] ∧ ∀ a ∈ at_, paLocal a.2 % o.bytes = 0 := by
  obtain ⟨an, vo, accs, -, hop, hcheck, hresolve, -⟩ := h
  obtain ⟨-, hsub, hplace⟩ := State.resolve_ok hresolve
  have hbytes := memOpOf_bytes hop
  refine ⟨hbytes, fun a ha => ?_⟩
  obtain ⟨-, -, halign⟩ := (State.checkGlobal_ok hcheck).2 a.1 (hsub.subset (List.mem_map_of_mem ha))
  have hpage := hplace a ha
  unfold paLocal
  simp only [List.mem_cons, List.not_mem_nil, or_false] at hbytes
  rcases hbytes with hn | hn | hn | hn | hn <;> rw [hn] at halign ⊢ <;> omega

/-- A uniform access without an active lane reaches nothing (R20). -/
theorem Ctx.Reaches.of_idle (h : c.Reaches i o s1 at_) (hidle : i.hdr.u = true ∧ c.act = 0) : s1 = c.s ∧ at_ = [] := by
  obtain ⟨an, vo, accs, -, -, hcheck, hresolve, -⟩ := h
  have hnone : partLanes i.hdr c.act = [] := by
    rw [partLanes_uniform hidle.1, hidle.2]
    rfl
  have haccs : accs = [] := List.map_eq_nil_iff.mp ((State.checkGlobal_ok hcheck).1.trans hnone)
  subst haccs
  obtain ⟨rfl, rfl⟩ := Resolved.ok.inj hresolve
  exact ⟨rfl, rfl⟩

end

/-! ### Accesses performed here -/

theorem State.sameButMemory.refl (s : State) : s.sameButMemory s := rfl
theorem State.sameButMemory.trans {s t u : State} (h : s.sameButMemory t) (h' : t.sameButMemory u) : s.sameButMemory u := by
  unfold State.sameButMemory at h h' ⊢
  rw [h', h]
theorem State.sameButMemory.sameRun {s t : State} (h : s.sameButMemory t) : s.SameRun t := by
  unfold State.sameButMemory at h
  rw [h]
  exact ⟨rfl, rfl, rfl⟩

theorem State.sameButMemory_writePA (s : State) (pa n v : Nat) (bad : Bool) : s.sameButMemory (s.writePA pa n v bad) := rfl

theorem State.sameButMemory_writeMarked (s : State) (pa n v : Nat) (marks : Marks) : s.sameButMemory (s.writeMarked pa n v marks) := by
  unfold State.writeMarked
  split <;> rfl

/-- An access at its home changes memory alone. -/
theorem State.sameButMemory_performAt (s : State) (o : MemOp) (a : LaneAcc) (pa : Nat) : s.sameButMemory (s.performAt o a pa).1 := by
  cases o with
  | load | ldk | atomic => rfl
  | store n => exact s.sameButMemory_writeMarked pa n _ _
  | cas dw =>
    have hif : ∀ (swaps : Bool) (t : State), s.sameButMemory t → s.sameButMemory (if swaps then t else s) := by
      rintro (_ | _) t ht
      exacts [rfl, ht]
    exact hif _ _ (s.sameButMemory_writePA ..)

/-- An access of a group changes memory, and what L1s hold, alone. -/
theorem State.sameButMemory_performFor (s : State) (n : Nat) (plain : Bool) (o : MemOp) (a : LaneAcc) (pa : Nat) :
    s.sameButMemory (s.performFor n plain o a pa).1 := by
  have hdrop : ∀ core k, s.sameButMemory (s.l1Drop core pa k) := fun _ _ => rfl
  have hfill : ∀ core, s.sameButMemory (s.l1Fill core pa) := fun _ => rfl
  unfold State.performFor
  split
  · exact s.sameButMemory_performAt o a pa
  split
  · split
    · unfold State.l1Load
      split
      · split
        · rfl
        · exact (hfill _).trans (State.sameButMemory_performAt ..)
      · exact (hfill _).trans (State.sameButMemory_performAt ..)
    · exact s.sameButMemory_performAt o a pa
  · exact (hdrop _ _).trans (State.sameButMemory_performAt ..)

theorem State.sameButMemory_performList (s : State) (n : Nat) (plain : Bool) (o : MemOp) (l : List (LaneAcc × Nat)) :
    s.sameButMemory (s.performList n plain o l).1 := by
  induction l generalizing s with
  | nil => rfl
  | cons a rest ih => exact (s.sameButMemory_performFor n plain o a.1 a.2).trans (ih _)

/-! ### What the instruction answers -/

/-- An effect that leaves groups, teams and launches but for the path's own group's registers is the whole step. -/
theorem issue_advance_of_plain {c : Ctx} {i : Instr} (hq : c.Quiet i) {body : Ctx → Res} {t : State} {g : Group} (hrun : c.s.SameRun t)
    (hkeep : (g.team, g.width, g.stack, g.spilt) = (c.g.team, c.g.width, c.g.stack, c.g.spilt))
    (hbody : body c = .ok (c.advance i (t.setGroup c.n g))) : issue i c.s body = .next (c.advance i (t.setGroup c.n g)) := by
  obtain ⟨hi, hp, hroomy⟩ := hq
  rw [issue_body hi, hbody]
  simp only [Ctx.huskStep_plain hp, Ctx.sliceStep_plain hp]
  rw [Ctx.advance_setGroup, Ctx.fitAreas_setGroup hi.1 hroomy hrun]
  cases c.slot <;> exact hkeep

/-- The writes of a plain path made, and the path taken on. -/
theorem Ctx.commit_plain {c : Ctx} (hp : c.plain = true) (i : Instr) {s : State} (hg : s.group c.n = some c.g) (ws : List Write) :
    c.commit i s ⟨ws, []⟩ = .ok (c.advance i (s.setGroup c.n (c.g.applyAll c.act c.full ws))) := by
  unfold Ctx.commit
  rw [State.writeRegs_plain hg fun r hr => Ctx.plain_recipe hp hr]
  rfl

/-- The state that the accesses leave, and what the lanes receive: a plain load may be served by the L1 (R136). -/
def Ctx.performed (c : Ctx) (i : Instr) (s : State) (o : MemOp) (at_ : List (LaneAcc × Nat)) : State × List Got :=
  s.performList c.n (s.plainFor c.n (c.acquiring i (at_.map Prod.fst)) at_) o at_

/-- Accesses of this package that do not end restart-safety are performed at once, and the answers delivered (R77, R86). -/
theorem Ctx.access_here {c : Ctx} (hp : c.plain = true) (i : Instr) {s : State} {o : MemOp} {at_ : List (LaneAcc × Nat)} (hg : s.group c.n = some c.g)
    (hlocal : ∀ a ∈ at_, s.isLocal a.2 = true) (hsafe : endsSafe o false = false) :
    c.access i s o at_ = c.commit i (c.performed i s o at_).1 ⟨deliver i c.g.w (c.performed i s o at_).2, []⟩ := by
  have hstall : s.stalled at_ = false := List.any_eq_false.mpr fun a ha => by simp [hlocal a ha]
  have haway : (at_.any fun a => !s.isLocal a.2) = false := List.any_eq_false.mpr fun a ha => by simp [hlocal a ha]
  have hhere : (at_.filter fun a => s.isLocal a.2) = at_ := List.filter_eq_self.mpr hlocal
  have hothers : (at_.filter fun a => !s.isLocal a.2) = [] := List.filter_eq_nil_iff.mpr fun a ha => by simp [hlocal a ha]
  have hperform : s.perform c.n i c.pc c.act (c.acquiring i (at_.map Prod.fst)) c.s.ticks o at_ =
      ((c.performed i s o at_).1, (c.performed i s o at_).2, []) := by
    unfold State.perform
    dsimp only
    rw [hhere, hothers]
    rfl
  unfold Ctx.access
  rw [hstall, State.prepareWrite_plain fun r hr => Ctx.plain_recipe hp hr]
  dsimp only
  rw [haway, State.setGroup_of_group hg, hperform, hsafe]
  rfl

/-- A global instruction whose accesses reach this package and do not end restart-safety performs them, delivers the answers and takes its path on. -/
theorem exec_of_reaches {c : Ctx} {i : Instr} {o : MemOp} {s1 : State} {at_ : List (LaneAcc × Nat)} (hq : c.Quiet i) (h : c.Reaches i o s1 at_)
    (hact : ¬(i.hdr.u = true ∧ c.act = 0)) (hsafe : endsSafe o false = false) :
    exec i c.s = .next (c.advance i ((c.performed i s1 o at_).1.setGroup c.n (c.g.applyAll c.act c.full (deliver i c.g.w (c.performed i s1 o at_).2)))) := by
  have hplain := Ctx.plain_of_quiet hq
  have hrun := h.sameRun
  have hperformed : s1.SameRun (c.performed i s1 o at_).1 := (State.sameButMemory_performList ..).sameRun
  have hg : s1.group c.n = some c.g := (hrun.group c.n).trans (Ctx.group_of_quiet hq)
  have hlocal := h.isLocal
  obtain ⟨an, vo, accs, hform, hop, hcheck, hresolve, -⟩ := h
  obtain ⟨body, hexec, hbody⟩ := exec_global hplain hform hop
  rw [hexec]
  refine issue_advance_of_plain hq (hrun.trans hperformed) (Group.applyAll_same ..) ?_
  rw [hbody, Ctx.global_plain hplain hact, hcheck]
  dsimp only
  rw [hresolve]
  exact (Ctx.access_here hplain i hg hlocal hsafe).trans (Ctx.commit_plain hplain i ((hperformed.group c.n).trans hg) _)

/-- A uniform instruction without an active lane only takes its path on (R20). -/
theorem issue_of_idle {c : Ctx} {i : Instr} (hq : c.Quiet i) (hidle : i.hdr.u = true ∧ c.act = 0) {body : Ctx → Res} {k : Res}
    (hbody : body c = c.unless i k) : issue i c.s body = .next (c.advance i c.s) := by
  have hself := State.setGroup_of_group (Ctx.group_of_quiet hq)
  have hcond : (i.hdr.u && c.act == 0) = true := by simpa using hidle
  have hdone : body c = .ok (c.advance i (c.s.setGroup c.n c.g)) := by
    rw [hbody, hself, Ctx.unless, hcond]
    rfl
  have hissue := issue_advance_of_plain hq (.refl c.s) rfl hdone
  rwa [hself] at hissue

theorem exec_of_idle {c : Ctx} {i : Instr} {o : MemOp} {an : BitVec 4} {vo : BitVec 6} (hq : c.Quiet i) (hform : globalForm i = some (an, vo))
    (hop : memOpOf i = some o) (hidle : i.hdr.u = true ∧ c.act = 0) : exec i c.s = .next (c.advance i c.s) := by
  obtain ⟨body, hexec, hbody⟩ := exec_global (Ctx.plain_of_quiet hq) hform hop
  exact hexec.trans (issue_of_idle hq hidle hbody)

end Sys2Proof.Machine
end

section
/-! Settles O21: stores whose pages translate to this package (R70, R77, R78). -/

namespace Sys2Proof.Machine

/-! ### Bytes in two parts -/

theorem pow_bytes (n : Nat) : 2 ^ (8 * n) = 256 ^ n := Nat.pow_mul ..

/-- Bytes written in two parts are written at once. -/
theorem Mem.writeN_add (m : Mem) (a j k v : Nat) : Mem.writeN m a (j + k) v = Mem.writeN (Mem.writeN m a j v) (a + j) k (v / 256 ^ j) := by
  induction j generalizing m a v with
  | zero => simp [Mem.writeN]
  | succ j ih =>
    rw [Nat.succ_add]
    simp only [Mem.writeN]
    rw [ih, Nat.div_div_eq_div_mul, ← Nat.pow_succ', Nat.add_assoc a 1 j, Nat.add_comm 1 j]

/-- Of a number only what the bytes hold is written. -/
theorem Mem.writeN_mod (m : Mem) (a n v : Nat) : Mem.writeN m a n (v % 256 ^ n) = Mem.writeN m a n v := by
  induction n generalizing m a v with
  | zero => rfl
  | succ n ih =>
    have hlow : BitVec.ofNat 8 (v % 256 ^ (n + 1)) = BitVec.ofNat 8 v := by
      apply BitVec.eq_of_toNat_eq
      simp only [BitVec.toNat_ofNat]
      exact Nat.mod_mod_of_dvd v ⟨256 ^ n, Nat.pow_succ' ..⟩
    simp only [Mem.writeN]
    rw [hlow, Nat.pow_succ', Nat.mod_mul_right_div_self, ih]

/-- A write of up to 16 bytes that does not wrap at the end of the local address space writes them at once, whatever their marks (R141). -/
theorem State.mem_writeMarked {s : State} {pa n v : Nat} {marks : Marks} (hn : n ≤ 16) (hend : paLocal pa + n ≤ 2 ^ 45) :
    (s.writeMarked pa n v marks).mem = Mem.writeN s.mem (paLocal pa) n v := by
  unfold State.writeMarked
  split
  · rfl
  · next h8 =>
    have hnext : paLocal (pa + 8) = paLocal pa + 8 := by unfold paLocal at hend ⊢; omega
    have hparts : n = 8 + (n - 8) := by omega
    change Mem.writeN (Mem.writeN s.mem (paLocal pa) 8 (v % 2 ^ 64)) (paLocal (pa + 8)) (n - 8) (v / 2 ^ 64) = _
    rw [hnext, show (2 : Nat) ^ 64 = 256 ^ 8 by decide, Mem.writeN_mod]
    conv_rhs => rw [hparts, Mem.writeN_add]

/-! ### Stores one after another (R78) -/

/-- One store, past the L1 of its core. -/
theorem State.mem_performFor_store (s : State) (k : Nat) (plain : Bool) {n : Nat} (a : LaneAcc) {pa : Nat} (hn : n ≤ 16) (hend : paLocal pa + n ≤ 2 ^ 45) :
    (s.performFor k plain (.store n) a pa).1.mem = Mem.writeN s.mem (paLocal pa) n (a.data.toNat % 2 ^ (8 * n)) := by
  unfold State.performFor
  split
  · exact State.mem_writeMarked hn hend
  · exact State.mem_writeMarked (s := s.l1Drop _ pa n) hn hend

theorem State.performList_append (s : State) (k : Nat) (plain : Bool) (o : MemOp) (l l' : List (LaneAcc × Nat)) :
    (s.performList k plain o (l ++ l')).1 = ((s.performList k plain o l).1.performList k plain o l').1 := by
  induction l generalizing s with
  | nil => rfl
  | cons a rest ih => exact ih _

/-- A byte that no store of a list writes reads as before. -/
theorem State.get_performList_store {s : State} {k : Nat} {plain : Bool} {n : Nat} {l : List (LaneAcc × Nat)} (hinv : s.Inv) (hn : n ≤ 16)
    (hend : ∀ a ∈ l, paLocal a.2 + n ≤ 2 ^ 45) {b : Nat} (hb : ∀ a ∈ l, b < paLocal a.2 ∨ paLocal a.2 + n ≤ b) :
    (s.performList k plain (.store n) l).1.mem.get b = s.mem.get b := by
  induction l generalizing s with
  | nil => rfl
  | cons a rest ih =>
    have hrest := ih (State.performFor_inv (n := k) (plain := plain) (o := .store n) (a := a.1) (pa := a.2) hinv)
      (fun x hx => hend x (by simp [hx])) (fun x hx => hb x (by simp [hx]))
    refine Eq.trans hrest ?_
    rw [State.mem_performFor_store s k plain a.1 hn (hend a (by simp)), Mem.get_writeN_out hinv _ _ _ _ (hb a (by simp))]

/-- What stores of a list leave: each one's bytes are its data where no later one writes them, and nothing but memory and L1 lines differs. -/
theorem State.storedAt_performList {s : State} {k : Nat} {plain : Bool} {n : Nat} {l : List (LaneAcc × Nat)} (hinv : s.Inv) (hn : n ≤ 16)
    (hend : ∀ a ∈ l, paLocal a.2 + n ≤ 2 ^ 45) : s.storedAt (s.performList k plain (.store n) l).1 n l := by
  refine ⟨State.sameButMemory_performList .., fun b hb => State.get_performList_store hinv hn hend hb, ?_⟩
  rintro a before later rfl hlater
  have hbefore : (s.performList k plain (.store n) before).1.Inv := State.performList_inv hinv
  have hown := State.mem_performFor_store (s.performList k plain (.store n) before).1 k plain a.1 hn (hend a (by simp))
  have hinv' := State.performFor_inv (n := k) (plain := plain) (o := .store n) (a := a.1) (pa := a.2) hbefore
  rw [State.performList_append]
  change Mem.readN (((s.performList k plain (.store n) before).1.performFor k plain (.store n) a.1 a.2).1.performList k plain (.store n) later).1.mem _ n = _
  rw [Mem.readN_congr fun b h1 h2 => State.get_performList_store hinv' hn (fun x hx => hend x (by simp [hx])) fun x hx => by
    have := hlater x hx
    omega]
  rw [hown, Mem.readN_writeN hbefore, ← pow_bytes, Nat.mod_mod]

/-- A store has no destination. -/
theorem memDest_of_store {i : Instr} {n : Nat} (h : memOpOf i = some (.store n)) : memDest i = none := by
  cases i with
  | stB | stH | stW | stD | stQ | hstore => rfl
  | _ => cases h

/-- Settles O21: the stores are performed in lane order at their addresses, which are aligned, so that none wraps. -/
theorem storeResults : Obligations.StoreResults := by
  unfold Obligations.StoreResults
  intro c i n s1 at_ hq hwf hinv h
  have hoperands := h.operands
  by_cases hidle : i.hdr.u = true ∧ c.act = 0
  · obtain ⟨rfl, rfl⟩ := h.of_idle hidle
    obtain ⟨an, vo, accs, hform, hop, -⟩ := h
    exact ⟨c.s, exec_of_idle hq hform hop hidle, rfl, hoperands, fun _ _ => rfl, fun a before later he => by simp at he⟩
  · obtain ⟨hbytes, halign⟩ := h.aligned
    have hn : n ≤ 16 := by
      simp only [MemOp.bytes, List.mem_cons, List.not_mem_nil, or_false] at hbytes
      omega
    have hend : ∀ a ∈ at_, paLocal a.2 + n ≤ 2 ^ 45 := fun a ha => by
      have := halign a ha
      have hlt : paLocal a.2 < 2 ^ 45 := Nat.mod_lt _ (by decide)
      simp only [MemOp.bytes, List.mem_cons, List.not_mem_nil, or_false] at hbytes this
      rcases hbytes with rfl | rfl | rfl | rfl | rfl <;> omega
    obtain ⟨hsame, hother, hstored⟩ := State.storedAt_performList (k := c.n) (plain := s1.plainFor c.n (c.acquiring i (at_.map Prod.fst)) at_)
      (h.inv hinv) hn hend
    have hexec := exec_of_reaches hq h hidle rfl
    have hdeliver : ∀ got, deliver i c.g.w got = [] := fun got => by
      obtain ⟨an, vo, accs, -, hop, -⟩ := h
      rw [deliver, memDest_of_store hop]
    have hg := (hsame.sameRun.group c.n).trans ((h.sameRun.group c.n).trans (Ctx.group_of_quiet hq))
    rw [hdeliver] at hexec
    refine ⟨_, hexec.trans ?_, hsame, hoperands, hother, hstored⟩
    rw [Ctx.performed, Group.applyAll, List.foldl_nil, State.setGroup_of_group hg]

end Sys2Proof.Machine
end

section
/-! Settles O20: loads and LDK whose pages translate to this package (R70, R77, R82, R136, R142). -/

namespace Sys2Proof.Machine

/-! ### Bytes within bytes -/

theorem Mem.readN_lt (m : Mem) (a n : Nat) : Mem.readN m a n < 256 ^ n := by
  induction n generalizing a with
  | zero => exact Nat.one_pos
  | succ n ih =>
    have hbyte := (Mem.get m a).isLt
    have hrest := ih (a + 1)
    simp only [Mem.readN, Nat.pow_succ']
    omega

/-- Bytes read in two parts are read at once. -/
theorem Mem.readN_add (m : Mem) (a j k : Nat) : Mem.readN m a (j + k) = Mem.readN m a j + 256 ^ j * Mem.readN m (a + j) k := by
  induction j generalizing a with
  | zero => simp [Mem.readN]
  | succ j ih =>
    rw [Nat.succ_add]
    simp only [Mem.readN]
    rw [ih, Nat.pow_succ', Nat.add_assoc a 1 j, Nat.add_comm 1 j]
    ring

/-- n bytes from byte j on of N bytes read. -/
theorem Mem.readN_within (m : Mem) {a j n N : Nat} (h : j + n ≤ N) : Mem.readN m a N / 256 ^ j % 256 ^ n = Mem.readN m (a + j) n := by
  obtain ⟨r, rfl⟩ := Nat.exists_eq_add_of_le h
  have hpos : 0 < 256 ^ j := Nat.pow_pos (by decide)
  rw [Nat.add_assoc, Mem.readN_add m a j, Nat.add_mul_div_left _ _ hpos, Nat.div_eq_of_lt (Mem.readN_lt m a j), Nat.zero_add, Mem.readN_add m (a + j) n,
    Nat.add_mul_mod_self_left, Nat.mod_eq_of_lt (Mem.readN_lt m (a + j) n)]

/-! ### Poison marks of words (R141, R142) -/

/-- Bytes within one 64-bit word are poisoned where the word is. -/
theorem poisonedIn_word (ps : List Nat) {a n : Nat} (hn : 0 < n) (hword : (a + n - 1) / 8 = a / 8) : poisonedIn ps a n = ps.contains (a / 8) := by
  unfold poisonedIn wordsOfRange
  rw [if_neg (by omega), hword]
  simp

/-- The marks of an aligned access are those of the one or two words it lies in. -/
theorem marksIn_aligned (ps : List Nat) {a n : Nat} (hn : n ∈ [1, 2, 4, 8, 16]) (ha : a % n = 0) :
    marksIn ps a n = markOf (ps.contains (a / 8)) ||| (if decide (8 < n) && ps.contains (a / 8 + 1) then 2 else 0) := by
  unfold marksIn markOf
  by_cases h8 : 8 < n
  · obtain rfl : n = 16 := by
      simp only [List.mem_cons, List.not_mem_nil, or_false] at hn
      omega
    have hsecond : (a + 8) / 8 = a / 8 + 1 := by omega
    change ((if poisonedIn ps a 8 then 1 else 0) ||| if poisonedIn ps (a + 8) 8 then 2 else 0) = _
    rw [poisonedIn_word ps (by decide) (by omega), poisonedIn_word ps (by decide) (by omega), hsecond]
    simp
  · have hword : 0 < n ∧ (a + n - 1) / 8 = a / 8 := by
      simp only [List.mem_cons, List.not_mem_nil, or_false] at hn
      rcases hn with rfl | rfl | rfl | rfl | rfl <;> omega
    have hnone : poisonedIn ps (a + 8) 0 = false := rfl
    rw [show Nat.min n 8 = n from Nat.min_eq_left (by omega), show n - 8 = 0 by omega, poisonedIn_word ps hword.1 hword.2, hnone]
    simp [h8]

/-! ### Lines of the L1 (R9, R136) -/

/-- Word j of a line just read is poisoned where memory has it so. -/
theorem State.poison_lineOf (s : State) (core pa : Nat) {j : Nat} (hj : j < 8) :
    (s.lineOf core pa).poison.getLsbD j = s.memPoison.contains (paLocal pa / 64 * 64 / 8 + j) := by
  have hsum : (fun (m k : Nat) => m + if s.memPoison.contains (paLocal pa / 64 * 64 / 8 + k) then 2 ^ k else 0) =
      fun m k => if s.memPoison.contains (paLocal pa / 64 * 64 / 8 + k) then m + 2 ^ k else m := by
    funext m k
    split <;> rfl
  simp only [State.lineOf, BitVec.getLsbD_ofNat, hj, decide_true, Bool.true_and]
  rw [hsum, Mask.fold_testBit _ 8 j hj]

/-- An aligned access reads from a line that has just been read what memory holds. -/
theorem State.read_lineOf (s : State) (core : Nat) {pa pa' n : Nat} (hn : n ∈ [1, 2, 4, 8, 16]) (ha : paLocal pa % n = 0)
    (hline : paLocal pa' / 64 = paLocal pa / 64) : (s.lineOf core pa').read pa n = (s.readPA pa n, s.marksPA pa n) := by
  have hplace : pa % 64 = paLocal pa % 64 := by unfold paLocal; omega
  have hfit : pa % 64 + n ≤ 64 ∧ (8 < n → (pa % 64 + 8) / 8 < 8) := by
    rw [hplace]
    simp only [List.mem_cons, List.not_mem_nil, or_false] at hn
    rcases hn with rfl | rfl | rfl | rfl | rfl <;> omega
  obtain ⟨hdata, hsecond⟩ := hfit
  have hstart : paLocal pa' / 64 * 64 + pa % 64 = paLocal pa := by omega
  have hword0 : (s.lineOf core pa').poison.getLsbD ((pa % 64 + 8 * 0) / 8) = s.memPoison.contains (paLocal pa / 8) := by
    rw [s.poison_lineOf core pa' (by omega)]
    congr 1
    omega
  have hword1 : (decide (8 < n) && (s.lineOf core pa').poison.getLsbD ((pa % 64 + 8 * 1) / 8)) =
      (decide (8 < n) && s.memPoison.contains (paLocal pa / 8 + 1)) := by
    by_cases h8 : 8 < n
    · rw [s.poison_lineOf core pa' (hsecond h8)]
      congr 2
      omega
    · simp [h8]
  unfold L1Line.read
  refine Prod.ext ?_ ?_
  · change Mem.readN s.mem (paLocal pa' / 64 * 64) 64 / 2 ^ (8 * (pa % 64)) % 2 ^ (8 * n) = _
    rw [pow_bytes, pow_bytes, Mem.readN_within s.mem hdata, hstart]
    rfl
  · dsimp only
    rw [hword0, hword1, State.marksPA, marksIn_aligned _ hn ha]

theorem mem_of_mem_dropNth {α : Type} {p : α → Bool} {k : Nat} {l : List α} {x : α} (h : x ∈ dropNth p k l) : x ∈ l := by
  induction l generalizing k with
  | nil => exact h
  | cons y ys ih =>
    unfold dropNth at h
    split at h
    · split at h
      · exact List.mem_cons_of_mem y h
      · exact (List.mem_cons.mp h).elim (fun e => e ▸ List.mem_cons_self) fun h => List.mem_cons_of_mem y (ih h)
    · exact (List.mem_cons.mp h).elim (fun e => e ▸ List.mem_cons_self) fun h => List.mem_cons_of_mem y (ih h)

/-- What leaves an L1 to make room adds nothing to it. -/
theorem mem_of_mem_makeRoom {α : Type} {p : α → Bool} {bound victim : Nat} {l : List α} {x : α} (h : x ∈ makeRoom p bound victim l) : x ∈ l := by
  unfold makeRoom at h
  split at h
  · exact h
  · exact mem_of_mem_dropNth h

/-! ### Loads one after another -/

/-- Nothing but L1 lines differs from a state, and every line is one of that state's or holds what its memory holds. -/
structure State.Refilled (base t : State) : Prop where
  same : t = { base with l1 := t.l1 }
  lines : ∀ x ∈ t.l1, x ∈ base.l1 ∨ ∃ core pa, x = base.lineOf core pa

theorem State.Refilled.refl (s : State) : s.Refilled s := ⟨rfl, fun _ hx => .inl hx⟩

/-- A line read keeps that so. -/
theorem State.Refilled.fill {base t : State} (h : base.Refilled t) (core pa : Nat) : base.Refilled (t.l1Fill core pa) := by
  obtain ⟨hsame, hlines⟩ := h
  refine ⟨by unfold State.l1Fill; rw [hsame], fun x hx => ?_⟩
  rcases List.mem_cons.mp hx with rfl | hx
  · exact .inr ⟨core, pa, by rw [hsame]; rfl⟩
  · exact hlines x (List.mem_filter.mp (mem_of_mem_makeRoom hx)).1

/-- A load performed at its home gives the lane what memory holds. -/
theorem State.performAt_load {o : MemOp} (ho : o.isLoad = true) (s : State) (a : LaneAcc) (pa : Nat) :
    s.performAt o a pa = (s, (a.lane, BitVec.ofNat 128 (s.readPA pa o.bytes), s.marksPA pa o.bytes)) := by
  cases o with
  | load | ldk => rfl
  | _ => cases ho

/-- The number that a lane receives is the one read, of up to 16 bytes. -/
theorem toNat_answer {v n : Nat} (hn : n ∈ [1, 2, 4, 8, 16]) (hv : v < 256 ^ n) : (BitVec.ofNat 128 v).toNat = v := by
  have hbound : 256 ^ n ≤ 2 ^ 128 := by
    simp only [List.mem_cons, List.not_mem_nil, or_false] at hn
    rcases hn with rfl | rfl | rfl | rfl | rfl <;> decide
  rw [BitVec.toNat_ofNat, Nat.mod_eq_of_lt (by omega)]

/-- One load of a lane: it receives what R136 allows, and L1 lines alone may change. -/
theorem Ctx.loaded_performFor {c : Ctx} {i : Instr} {o : MemOp} {base t : State} {plain : Bool} (hrun : c.s.SameRun base) (hg : base.group c.n = some c.g)
    (ho : o.isLoad = true) (hplain : plain = true → acquires i = false) (hn : o.bytes ∈ [1, 2, 4, 8, 16]) (ht : base.Refilled t) (a : LaneAcc) {pa : Nat}
    (ha : paLocal pa % o.bytes = 0) :
    base.Refilled (t.performFor c.n plain o a pa).1 ∧ (t.performFor c.n plain o a pa).2.1 = a.lane ∧
      c.Loaded i base pa o.bytes ((t.performFor c.n plain o a pa).2.2.1.toNat, (t.performFor c.n plain o a pa).2.2.2) := by
  have hhome : ∀ u : State, base.Refilled u → base.Refilled (u.performAt o a pa).1 ∧ (u.performAt o a pa).2.1 = a.lane ∧
      c.Loaded i base pa o.bytes ((u.performAt o a pa).2.2.1.toNat, (u.performAt o a pa).2.2.2) := by
    intro u hu
    rw [State.performAt_load ho]
    refine ⟨hu, rfl, .inl ?_⟩
    dsimp only
    rw [toNat_answer (v := u.readPA pa o.bytes) hn (Mem.readN_lt ..), hu.same]
    rfl
  have hgroup : t.group c.n = some c.g := by rw [ht.same]; exact hg
  unfold State.performFor
  rw [hgroup]
  dsimp only
  rw [if_pos ho]
  split
  · next hp =>
    unfold State.l1Load
    split
    · next x hx =>
      split
      · obtain hmem := List.mem_of_find?_eq_some hx
        have hfound := List.find?_some hx
        simp only [Bool.and_eq_true, beq_iff_eq, decide_eq_true_eq] at hfound
        obtain ⟨⟨hcore, hline⟩, hsince⟩ := hfound
        have hnum : (BitVec.ofNat 128 (x.read pa o.bytes).1).toNat = (x.read pa o.bytes).1 :=
          toNat_answer hn (by rw [← pow_bytes]; exact Nat.mod_lt _ (Nat.two_pow_pos _))
        refine ⟨ht, rfl, ?_⟩
        dsimp only
        rw [hnum]
        rcases ht.lines x hmem with hold | ⟨core, pa', rfl⟩
        · have hcoreOf : t.coreOf c.g = c.s.coreOf c.g := by rw [ht.same]; exact hrun.coreOf c.g
          exact .inr ⟨hplain hp, x, hold, hcore.trans hcoreOf, hline, hsince, rfl⟩
        · exact .inl (base.read_lineOf core hn ha hline)
      · exact hhome _ (ht.fill _ _)
    · exact hhome _ (ht.fill _ _)
  · exact hhome t ht

/-- Loads of a list: each lane receives what R136 allows, and L1 lines alone may change. -/
theorem Ctx.loaded_performList {c : Ctx} {i : Instr} {o : MemOp} {base t : State} {plain : Bool} (hrun : c.s.SameRun base) (hg : base.group c.n = some c.g)
    (ho : o.isLoad = true) (hplain : plain = true → acquires i = false) (hn : o.bytes ∈ [1, 2, 4, 8, 16]) (ht : base.Refilled t)
    {l : List (LaneAcc × Nat)} (ha : ∀ a ∈ l, paLocal a.2 % o.bytes = 0) :
    base.Refilled (t.performList c.n plain o l).1 ∧
      List.Forall₂ (fun a y => y.1 = a.1.lane ∧ c.Loaded i base a.2 o.bytes (y.2.1.toNat, y.2.2)) l (t.performList c.n plain o l).2 := by
  induction l generalizing t with
  | nil => exact ⟨ht, .nil⟩
  | cons a rest ih =>
    obtain ⟨hfirst, hlane, hloaded⟩ := Ctx.loaded_performFor hrun hg ho hplain hn ht a.1 (ha a (by simp))
    obtain ⟨hrest, hanswers⟩ := ih hfirst fun x hx => ha x (by simp [hx])
    exact ⟨hrest, .cons ⟨hlane, hloaded⟩ hanswers⟩

/-! ### Answers delivered (R77) -/

/-- A lane of a list without repeats finds its own answer. -/
theorem gotOf_of_mem {R : LaneAcc × Nat → Got → Prop} (hR : ∀ a y, R a y → y.1 = a.1.lane) {l : List (LaneAcc × Nat)} {got : List Got}
    (h : List.Forall₂ R l got) (hnodup : (l.map fun a => a.1.lane).Nodup) {a : LaneAcc × Nat} (ha : a ∈ l) : ∃ y, R a y ∧ gotOf got a.1.lane = y.2 := by
  induction h with
  | nil => cases ha
  | @cons b y rest ys hby hrest ih =>
    obtain ⟨hfresh, hnodup⟩ := List.nodup_cons.mp hnodup
    rcases List.mem_cons.mp ha with rfl | ha
    · exact ⟨y, hby, by simp [gotOf, hR _ _ hby]⟩
    · obtain ⟨z, hz, hgot⟩ := ih hnodup ha
      have hne : y.1 ≠ a.1.lane := fun e => hfresh (List.mem_map.mpr ⟨a, ha, by rw [← e, hR _ _ hby]⟩)
      refine ⟨z, hz, ?_⟩
      rw [← hgot]
      simp [gotOf, hne]

/-- Word k of an answer, with the mark of the 8 bytes that it comes from (R142). -/
def answerAt (x : BitVec 128 × Marks) (k : Nat) : Word × Bool := (answerWord x.1.toNat k, x.2.getLsbD (k / 2))

theorem answerAt_eq (x : BitVec 128 × Marks) (k : Nat) : (x.1.extractLsb' (32 * k) 32, x.2.getLsbD (k / 2)) = answerAt x k := by
  refine Prod.ext (BitVec.eq_of_toNat_eq ?_) rfl
  rw [BitVec.extractLsb'_toNat, Nat.shiftRight_eq_div_pow]
  rfl

/-- The writes that deliver answers to n registers from vt upward: one for each register; without U each lane's word of its own answer, under U that of the one answer. -/
theorem gotWrites_eq (h : Hdr) (w : Nat) (vt : BitVec 6) (n : Nat) (got : List Got) : ∃ word : Nat → Write,
    gotWrites h w vt n got = (List.range n).map word ∧ (∀ k, (word k).vreg? = some (vt.toNat + k)) ∧
      (h.u = false → ∀ k l, l < w → (word k).valueAt l = answerAt (gotOf got l) k) ∧
      (h.u = true → ∀ y, got = [y] → ∀ k l, (word k).valueAt l = answerAt y.2 k) := by
  refine ⟨_, rfl, fun k => ?_, fun hu k l hl => ?_, ?_⟩
  · dsimp only
    split
    · split <;> rfl
    · rfl
  · dsimp only
    rw [if_neg (by simp [hu])]
    refine (Tbl.get_map_range (0, false) _ w l).trans ((if_pos hl).trans ?_)
    exact answerAt_eq (gotOf got l) k
  · rintro hu y rfl k l
    dsimp only
    rw [if_pos hu]
    exact answerAt_eq y.2 k

/-- Writes to n registers from vt upward stay within the frame of those registers. -/
theorem Group.sameBut_gotWrites {g : Group} {act : Mask} {full : Bool} (hunder : g.Under act full) (h : Hdr) {vt : BitVec 6} {n : Nat} (hn : vt.toNat + n ≤ 64)
    (w : Nat) (got : List Got) : g.SameBut (g.applyAll act full (gotWrites h w vt n got)) act (Foot.vs vt n) := by
  obtain ⟨word, heq, hreg, -⟩ := gotWrites_eq h w vt n got
  rw [heq]
  refine Group.sameBut_applyAll hunder fun x hx => ?_
  obtain ⟨k, hk, rfl⟩ := List.mem_map.mp hx
  exact ⟨_, hreg k, Foot.vs_getLsbD (List.mem_range.mp hk) hn⟩

/-- Every active lane receives, register by register, the words of its lane's answer, under U those of the one answer. -/
theorem Group.rdp_gotWrites {g : Group} {act : Mask} {full : Bool} (hunder : g.Under act full) {h : Hdr} {vt : BitVec 6} {n : Nat} {got : List Got}
    {k l : Nat} (hk : k < n) (hl : l < g.width) (ha : act.getLsbD l = true) {x : BitVec 128 × Marks}
    (hx : if h.u then ∃ y, got = [y] ∧ y.2 = x else gotOf got l = x) :
    (g.applyAll act full (gotWrites h g.w vt n got)).rdp (vt.toNat + k) l = answerAt x k := by
  obtain ⟨word, heq, hreg, hown, hone⟩ := gotWrites_eq h g.w vt n got
  have hall : ∀ w ∈ (List.range n).map word, w.vreg?.isSome = true := fun w hw => by
    obtain ⟨k, -, rfl⟩ := List.mem_map.mp hw
    simp [hreg k]
  have hne : ((List.range n).map word).Pairwise fun w w' => w.vreg? ≠ w'.vreg? := by
    refine List.pairwise_map.mpr (List.pairwise_lt_range.imp fun {a b} hab => ?_)
    simp [hreg]
    omega
  rw [heq, Group.rdp_applyAll hunder hall hne (List.mem_map_of_mem (List.mem_range.mpr hk)) (hreg k) hl ha]
  split at hx
  · next hu =>
    obtain ⟨y, hgot, rfl⟩ := hx
    exact hone hu y hgot k l
  · next hu =>
    have hw := Group.width_le hunder.width
    rw [hown (by simpa using hu) k l (by omega), hx]

/-! ### What a load answers -/

/-- A load's destinations, which are the registers that it writes, are registers (R26). -/
theorem memDest_of_load {i : Instr} {o : MemOp} {vt : BitVec 6} {n : Nat} (hop : memOpOf i = some o) (ho : o.isLoad = true) (hwf : i.wellFormed = true)
    (hdest : memDest i = some (vt, n)) : writes i = Foot.vs vt n ∧ vt.toNat + n ≤ 64 := by
  cases i with
  | ldB | ldH | ldW | ldkW =>
    cases hdest
    exact ⟨rfl, by omega⟩
  | ldD =>
    cases hdest
    exact ⟨rfl, pair_le (Bool.and_elim_left hwf)⟩
  | ldkD =>
    cases hdest
    exact ⟨rfl, pair_le hwf⟩
  | ldQ =>
    cases hdest
    exact ⟨rfl, quad_le (Bool.and_elim_left hwf)⟩
  | atom | atoml | cas | ldl => cases hop <;> cases ho
  | _ => cases hdest

/-- Under U one access alone reaches this package. -/
theorem Ctx.Reaches.eq_singleton {c : Ctx} {i : Instr} {o : MemOp} {s1 : State} {at_ : List (LaneAcc × Nat)} (h : c.Reaches i o s1 at_) (hu : i.hdr.u = true)
    {a : LaneAcc × Nat} (ha : a ∈ at_) : at_ = [a] := by
  have hone : at_.length ≤ 1 := by
    have hlen := h.lanes.length_le
    rw [List.length_map, partLanes_uniform hu] at hlen
    exact hlen.trans (by cases c.act.lowest <;> simp)
  obtain ⟨b, rfl⟩ := List.length_eq_one_iff.mp (Nat.le_antisymm hone (List.length_pos_of_mem ha))
  rw [List.mem_singleton.mp ha]

/-- The answer that an active lane's registers are given is that of the access of its lane, under U of the one access (R20). -/
theorem Ctx.Reaches.answer {c : Ctx} {i : Instr} {o : MemOp} {s1 : State} {at_ : List (LaneAcc × Nat)} (h : c.Reaches i o s1 at_) {got : List Got}
    {R : LaneAcc × Nat → Got → Prop} (hR : ∀ a y, R a y → y.1 = a.1.lane) (hanswers : List.Forall₂ R at_ got) {a : LaneAcc × Nat} (ha : a ∈ at_) {l : Nat}
    (hown : a.1.lane = c.laneOf i l) :
    if i.hdr.u then ∃ y, got = [y] ∧ y.2 = gotOf got a.1.lane else gotOf got l = gotOf got a.1.lane := by
  split
  · next hu =>
    rw [h.eq_singleton hu ha] at hanswers
    obtain ⟨y, rest, hy, hrest, rfl⟩ := List.forall₂_cons_left_iff.mp hanswers
    obtain rfl := List.forall₂_nil_left_iff.mp hrest
    exact ⟨y, rfl, by simp [gotOf, hR a y hy]⟩
  · next hu => rw [hown, Ctx.laneOf, if_neg hu]

/-- What the accesses of a load leave, and what its lanes receive. -/
theorem Ctx.Reaches.loaded {c : Ctx} {i : Instr} {o : MemOp} {s1 : State} {at_ : List (LaneAcc × Nat)} (h : c.Reaches i o s1 at_)
    (hg : c.s.group c.n = some c.g) (ho : o.isLoad = true) : s1.Refilled (c.performed i s1 o at_).1 ∧
      List.Forall₂ (fun a y => y.1 = a.1.lane ∧ c.Loaded i s1 a.2 o.bytes (y.2.1.toNat, y.2.2)) at_ (c.performed i s1 o at_).2 := by
  have hplain : s1.plainFor c.n (c.acquiring i (at_.map Prod.fst)) at_ = true → acquires i = false := fun hp => by
    simp only [State.plainFor, Bool.and_eq_true, Bool.not_eq_true', Ctx.acquiring, Bool.or_eq_false_iff] at hp
    obtain ⟨⟨⟨hcode, -⟩, -⟩, -⟩ := hp
    exact hcode
  obtain ⟨hbytes, haligned⟩ := h.aligned
  exact Ctx.loaded_performList h.sameRun ((h.sameRun.group c.n).trans hg) ho hplain hbytes (.refl s1) haligned

/-- Settles O20: every lane's answer is what R136 allows, and its words go to the destination registers in order. -/
theorem loadResults : Obligations.LoadResults := by
  unfold Obligations.LoadResults
  intro c i o vt n s1 at_ hq hwf ho hdest h
  have hg := Ctx.group_of_quiet hq
  have hoperands := h.operands
  obtain ⟨an, vo, accs, hform, hop, -⟩ := id h
  obtain ⟨hwrites, hregs⟩ := memDest_of_load hop ho hwf hdest
  by_cases hidle : i.hdr.u = true ∧ c.act = 0
  · obtain ⟨rfl, rfl⟩ := h.of_idle hidle
    refine ⟨c.g, c.s.l1, fun _ => (0, 0), ?_, .refl .., by simp, by simp⟩
    rw [exec_of_idle hq hform hop hidle, State.setGroup_of_group hg]
  · have hunder := Ctx.under_plain (Ctx.plain_of_quiet hq)
    have hsafe : endsSafe o false = false := by
      cases o with
      | load | ldk => rfl
      | _ => cases ho
    obtain ⟨hrefilled, hanswers⟩ := h.loaded hg ho
    have hnodup := (partLanes_nodup i.hdr c.act).sublist h.lanes
    have hexec := exec_of_reaches hq h hidle hsafe
    rw [deliver, hdest] at hexec
    generalize c.performed i s1 o at_ = r at hrefilled hanswers hexec
    refine ⟨c.g.applyAll c.act c.full (gotWrites i.hdr c.g.w vt n r.2), r.1.l1, fun k => ((gotOf r.2 k).1.toNat, (gotOf r.2 k).2),
      ?_, hwrites ▸ Group.sameBut_gotWrites hunder i.hdr hregs _ _, fun a ha => ⟨?_, ?_⟩, fun l hl hact a ha hown k hk => ?_⟩
    · rw [hexec, hrefilled.same]
      rfl
    · obtain ⟨an, vo, hform, hea, -⟩ := hoperands a ha
      exact ⟨an, vo, hform, hea⟩
    · obtain ⟨y, ⟨-, hloaded⟩, hgot⟩ := gotOf_of_mem (fun _ _ hR => hR.1) hanswers hnodup ha
      dsimp only
      rw [hgot]
      exact hloaded
    · exact Group.rdp_gotWrites hunder hk hl hact (h.answer (fun _ _ hR => hR.1) hanswers ha hown)

end Sys2Proof.Machine
end

section
/-! Refutes O22 and O24, at a uniform instruction without an active lane. Such an instruction has no effect (R20), so that ATOM and ATOML leave the team's run restart-safe
there, where the two statements have it restart-safe no longer for every ATOM and ATOML that issues (R349). -/

namespace Sys2Proof.Machine

/-! ### A state in which a uniform instruction issues without an active lane -/

/-- A team whose run is restart-safe. -/
def idleTeam : Team := { oddCallTeam with safe := true }

/-- A path without a lane. -/
def idlePath : Path := { oddCallPath with mask := 0 }

def idleGroup : Group := { State.writeRegs.default0 with slotA := some idlePath, live := true }

def idlePkg : State := { State.reset with groups := [some idleGroup], teams := [some idleTeam] }

def idleCtx : Ctx := ⟨idlePkg, 0, .a, idleGroup, idlePath⟩

/-- ATOM.ADD of v2 to a word through a0, and the same on local memory, both with U. -/
def idleAtom : Instr := .atom ⟨false, true, false⟩ 1 ⟨0, 63, .core, .relaxed, false⟩ .add false 2
def idleAtoml : Instr := .atoml ⟨false, true, false⟩ 1 63 .relaxed false .add false 2

theorem idleAtom_quiet : idleCtx.Quiet idleAtom := by decide +kernel
theorem idleAtoml_quiet : idleCtx.Quiet idleAtoml := by decide +kernel
theorem idleCtx_idle : idleCtx.act = 0 := by decide

/-- No lane takes part, so that no access fails a check and none reaches memory. -/
theorem idleAtom_reaches : idleCtx.Reaches idleAtom (.atomic .add false true) idlePkg [] :=
  ⟨0, 63, [], rfl, rfl, rfl, rfl, by simp⟩

/-! ### Restart-safety there -/

/-- A uniform ATOML without an active lane only takes its path on (R20). -/
theorem exec_atoml_of_idle {c : Ctx} {h : Hdr} {vt vo vs : BitVec 6} {order : Order} {nt dw : Bool} {op : AtomOp}
    (hq : c.Quiet (.atoml h vt vo order nt op dw vs)) (hu : h.u = true) (hact : c.act = 0) :
    exec (.atoml h vt vo order nt op dw vs) c.s = .next (c.advance (.atoml h vt vo order nt op dw vs) c.s) := by
  change execAtoml h vt vo order nt op dw vs c.s = _
  unfold execAtoml
  exact issue_of_idle hq ⟨hu, hact⟩ rfl

/-- Whether the run of team 0 that an outcome leaves is restart-safe. -/
def safeAfter : Host.Outcome State Fault Refusal → Option Bool
  | .next s => (s.team 0).map Team.safe
  | _ => none

theorem Ctx.team_advance (c : Ctx) (i : Instr) (s : State) (n : Nat) : (c.advance i s).team n = s.team n := by
  unfold Ctx.advance Ctx.setPath
  split <;> rfl

theorem safeAfter_idleAtom : safeAfter (exec idleAtom idlePkg) = some true := by
  rw [show exec idleAtom idlePkg = .next (idleCtx.advance idleAtom idlePkg) from exec_of_idle idleAtom_quiet rfl rfl ⟨rfl, idleCtx_idle⟩, safeAfter, Ctx.team_advance]
  rfl

theorem safeAfter_idleAtoml : safeAfter (exec idleAtoml idlePkg) = some true := by
  rw [show exec idleAtoml idlePkg = .next (idleCtx.advance idleAtoml idlePkg) from exec_atoml_of_idle idleAtoml_quiet rfl idleCtx_idle, safeAfter, Ctx.team_advance]
  rfl

/-- Refutes O22: a uniform ATOM without an active lane leaves the run restart-safe, where the statement ends that. -/
theorem not_atomicResults : ¬ Obligations.AtomicResults := by
  unfold Obligations.AtomicResults
  rintro ⟨hatomics, -⟩
  obtain ⟨g', hexec, -⟩ := hatomics idleCtx idleAtom _ idlePkg [] idleAtom_quiet rfl rfl rfl idleAtom_reaches
  have hends : safeAfter (exec idleAtom idlePkg) = some false := by
    rw [show exec idleAtom idlePkg = _ from hexec, safeAfter, Ctx.team_advance]
    rfl
  exact absurd (safeAfter_idleAtom.symm.trans hends) (by decide)

/-- Refutes O24: so does a uniform ATOML. -/
theorem not_localMemoryResults : ¬ Obligations.LocalMemoryResults := by
  unfold Obligations.LocalMemoryResults
  rintro ⟨-, -, hatomics⟩
  obtain ⟨g', hexec, -⟩ := hatomics idleCtx idleTeam ⟨false, true, false⟩ 1 63 .relaxed false .add false 2 idleAtoml_quiet rfl rfl rfl
    (fun k hk => by cases hk)
  have hends : safeAfter (exec idleAtoml idlePkg) = some false := by
    rw [show exec idleAtoml idlePkg = _ from hexec, safeAfter, Ctx.team_advance]
    rfl
  exact absurd (safeAfter_idleAtoml.symm.trans hends) (by decide)

end Sys2Proof.Machine
end

section
/-! Settles O30: CBWAIT, SLEEPUNTIL, SLEEPUNTIL.CHK and PUBLISH, completed or asleep (R105 to R107). -/

namespace Sys2Proof.Machine

/-! ### An engine instruction of a quiet context -/

/-- An instruction whose effect is to complete takes its path on and leaves all else. -/
theorem issue_done {c : Ctx} {i : Instr} (hq : c.Quiet i) {body : Ctx → Res} (hbody : body c = c.done i c.s) :
    issue i c.s body = .next (c.advance i c.s) := by
  have hself := State.setGroup_of_group (Ctx.group_of_quiet hq)
  have hissue := issue_advance_of_plain hq (body := body) (.refl c.s) rfl (by rw [hbody, hself]; rfl)
  rwa [hself] at hissue

/-- One whose effect is to sleep leaves its group asleep, and ends the chain (R24). -/
theorem issue_sleep {c : Ctx} {i : Instr} (hq : c.Quiet i) {body : Ctx → Res} {z : Sleep} (hbody : body c = c.sleep c.s z) :
    issue i c.s body = .next { c.s.setGroup c.n { c.g with asleep := some z } with chain := 0 } := by
  rw [issue_body hq.1, hbody, Ctx.sleep, Ctx.setG, Ctx.group_of_quiet hq]

/-- A local address with a sound offset, inside the limit and aligned passes the checks of R83. -/
theorem checkLocal_single {g : Group} {size l imm n : Nat} {vo : BitVec 6} (hoffset : g.offsetBad vo l = false)
    (hinside : g.localAddr vo imm l + n ≤ size) (haligned : g.localAddr vo imm l % n = 0) : checkLocal g size [l] vo imm n = none := by
  have hlimit : ¬ size < g.localAddr vo imm l + n := Nat.not_lt.mpr hinside
  simp [checkLocal, firstLane, hoffset, hlimit, haligned]

/-- The local address of an engine instruction, by the lowest active lane's offset (R103). -/
theorem Ctx.engineAddr_eq (c : Ctx) (vo : BitVec 6) (imm n : Nat) :
    c.engineAddr c.g vo (imm * n) = (if vo = 63 then 0 else (c.g.rd vo c.low).toNat) + n * imm := by
  rw [Nat.mul_comm n imm]
  rfl

theorem Ctx.localSize_of_team {c : Ctx} {t : Team} (ht : c.team = some t) : c.localSize = t.localSize := by
  rw [Ctx.localSize, ht]
  rfl

/-- The checks of an engine instruction's local address, where it lies aligned in the team's local memory (R83, R103). -/
theorem Ctx.engineCheck_of_placed {c : Ctx} {t : Team} {vo : BitVec 6} {imm n : Nat} (ht : c.team = some t) (hoffset : c.g.offsetBad vo c.low = false)
    (hinside : (if vo = 63 then 0 else (c.g.rd vo c.low).toNat) + n * imm + n ≤ t.localSize)
    (haligned : ((if vo = 63 then 0 else (c.g.rd vo c.low).toNat) + n * imm) % n = 0) : c.engineCheck c.g vo (imm * n) n = none := by
  rw [← Ctx.engineAddr_eq] at hinside haligned
  exact checkLocal_single hoffset ((Ctx.localSize_of_team ht).symm ▸ hinside) haligned

theorem Ctx.pairOf_of_clean {c : Ctx} {vp : BitVec 6} (h : c.g.badN vp 2 c.low = false) : c.pairOf c.g vp = .ok (c.g.rd2 vp c.low) := by
  rw [Ctx.pairOf, h]
  rfl

/-! ### Barriers and their waits (R105, R106) -/

/-- A barrier that shows no fault and is not poisoned says whether it expects nothing more (R105). -/
theorem Team.barState_of_sound {t : Team} {la : Nat} (hfault : barFault (t.barrier la) = false) (hpoison : (t.readLocal la 16).2 = false) :
    t.barState la = .ok (barCount (t.barrier la) == 0) := by
  simp [Team.barState, Team.barPoison, hpoison, hfault]

section
variable {c : Ctx} {t : Team} {h : Hdr} {vp vo : BitVec 6} {imm : BitVec 9} {la : Nat}

/-- CBWAIT at a sound barrier completes where it expects nothing, and sleeps where it expects bytes (R105). -/
theorem exec_cbwait_of_sound (hq : c.Quiet (.cbwait h vo imm)) (ht : c.team = some t) (haddr : c.engineAddr c.g vo (imm.toNat * 16) = la)
    (hcheck : c.engineCheck c.g vo (imm.toNat * 16) 16 = none) (hfault : barFault (t.barrier la) = false) (hpoison : (t.readLocal la 16).2 = false) :
    (barCount (t.barrier la) = 0 → exec (.cbwait h vo imm) c.s = .next (c.advance (.cbwait h vo imm) c.s)) ∧
    (barCount (t.barrier la) ≠ 0 →
      exec (.cbwait h vo imm) c.s = .next { c.s.setGroup c.n { c.g with asleep := some (.cbwait c.slot la) } with chain := 0 }) := by
  change (_ → execCbwait h vo imm c.s = _) ∧ (_ → execCbwait h vo imm c.s = _)
  unfold execCbwait
  refine ⟨fun hcount => issue_done hq ?_, fun hcount => issue_sleep hq ?_⟩ <;>
    simp only [Ctx.withForm_plain (Ctx.plain_of_quiet hq), haddr, hcheck, ht, Team.barState_of_sound hfault hpoison]
  · rw [hcount]
    rfl
  · rw [beq_false_of_ne hcount]

/-- SLEEPUNTIL completes at or after its cycle, and sleeps before it (R106). -/
theorem exec_sleepuntil_of_clean (hq : c.Quiet (.sleepuntil h vp)) (hclean : c.g.badN vp 2 c.low = false) :
    ((c.g.rd2 vp c.low).toNat ≤ c.s.cycle → exec (.sleepuntil h vp) c.s = .next (c.advance (.sleepuntil h vp) c.s)) ∧
    (c.s.cycle < (c.g.rd2 vp c.low).toNat → exec (.sleepuntil h vp) c.s =
      .next { c.s.setGroup c.n { c.g with asleep := some (.sleepuntil c.slot (c.g.rd2 vp c.low) none) } with chain := 0 }) := by
  change (_ → execSleepuntil h vp c.s = _) ∧ (_ → execSleepuntil h vp c.s = _)
  unfold execSleepuntil
  refine ⟨fun htime => issue_done hq ?_, fun htime => issue_sleep hq ?_⟩ <;>
    simp only [Ctx.withForm_plain (Ctx.plain_of_quiet hq), Ctx.pairOf_of_clean hclean]
  · rw [if_neg (Nat.not_lt.mpr htime)]
  · rw [if_pos htime]

/-- SLEEPUNTIL.CHK sleeps before its cycle whatever its barrier holds, and at or after it completes at a sound barrier that expects nothing (R106). -/
theorem exec_sleepuntilChk_of_clean (hq : c.Quiet (.sleepuntilChk h vp vo imm)) (hclean : c.g.badN vp 2 c.low = false) (ht : c.team = some t)
    (haddr : c.engineAddr c.g vo (imm.toNat * 16) = la) (hcheck : c.engineCheck c.g vo (imm.toNat * 16) 16 = none) :
    (barFault (t.barrier la) = false → (t.readLocal la 16).2 = false → barCount (t.barrier la) = 0 → (c.g.rd2 vp c.low).toNat ≤ c.s.cycle →
      exec (.sleepuntilChk h vp vo imm) c.s = .next (c.advance (.sleepuntilChk h vp vo imm) c.s)) ∧
    (c.s.cycle < (c.g.rd2 vp c.low).toNat → exec (.sleepuntilChk h vp vo imm) c.s =
      .next { c.s.setGroup c.n { c.g with asleep := some (.sleepuntil c.slot (c.g.rd2 vp c.low) (some la)) } with chain := 0 }) := by
  change (_ → _ → _ → _ → execSleepuntilChk h vp vo imm c.s = _) ∧ (_ → execSleepuntilChk h vp vo imm c.s = _)
  unfold execSleepuntilChk
  refine ⟨fun hfault hpoison hcount htime => issue_done hq ?_, fun htime => issue_sleep hq ?_⟩ <;>
    simp only [Ctx.withForm_plain (Ctx.plain_of_quiet hq), Ctx.pairOf_of_clean hclean, haddr, hcheck, ht]
  · rw [if_neg (Nat.not_lt.mpr htime), Team.sleepEnd, Team.barState_of_sound hfault hpoison, hcount]
    rfl
  · rw [if_pos htime]

/-! ### An empty region (R107) -/

/-- The checks of PUBLISH pass an empty region of a descriptor with P whose base is a multiple of 64 KiB. -/
theorem Ctx.publishCheck_empty {d : Desc} (htwin : d.perm.getLsbD 7 = true) (hbase : d.base.toNat % 65536 = 0) (hlen : d.length = 0) :
    c.publishCheck d = none := by
  simp [Ctx.publishCheck, htwin, hbase, hlen, regionPages]

/-- PUBLISH of an empty region completes at once (R107). -/
theorem exec_publish_empty {an : BitVec 4} (hq : c.Quiet (.publish h an)) (hcheck : c.publishCheck (c.g.areg an) = none)
    (hlen : (c.g.areg an).length = 0) (hremote : c.g.remoteWrites = false) :
    exec (.publish h an) c.s = .next (c.advance (.publish h an) c.s) := by
  change execPublish h an c.s = _
  unfold execPublish
  refine issue_done hq ?_
  simp [hcheck, hlen, hremote, regionPages]

end

/-- Settles O30, by the instruction that each clause names. -/
theorem waitsComplete : Obligations.WaitsComplete := by
  unfold Obligations.WaitsComplete
  intro c t h vp vo imm an ht
  have hcheck (hoffset : c.g.offsetBad vo c.low = false) := Ctx.engineCheck_of_placed (n := 16) (imm := imm.toNat) ht hoffset
  have haddr := c.engineAddr_eq vo imm.toNat 16
  refine ⟨?waited, ?waits, fun hq hclean => (exec_sleepuntil_of_clean hq hclean).1, fun hq hclean => (exec_sleepuntil_of_clean hq hclean).2,
    ?checked, ?early, fun hq htwin hbase hlen => exec_publish_empty hq (Ctx.publishCheck_empty htwin hbase hlen) hlen⟩
  case waited =>
    rintro hq ⟨hoffset, hinside, haligned⟩ ⟨hfault, hpoison⟩
    exact (exec_cbwait_of_sound hq ht haddr (hcheck hoffset hinside haligned) hfault hpoison).1
  case waits =>
    rintro hq ⟨hoffset, hinside, haligned⟩ ⟨hfault, hpoison⟩
    exact (exec_cbwait_of_sound hq ht haddr (hcheck hoffset hinside haligned) hfault hpoison).2
  case checked =>
    rintro hq hclean ⟨hoffset, hinside, haligned⟩ ⟨hfault, hpoison⟩
    exact (exec_sleepuntilChk_of_clean hq hclean ht haddr (hcheck hoffset hinside haligned)).1 hfault hpoison
  case early =>
    rintro hq hclean ⟨hoffset, hinside, haligned⟩
    exact (exec_sleepuntilChk_of_clean hq hclean ht haddr (hcheck hoffset hinside haligned)).2

end Sys2Proof.Machine
end

section
/-! Settles O29: QSUB hands its request in, and CBINIT makes a barrier (R91, R99, R101, R103, R104). -/

namespace Sys2Proof.Machine

/-! ### QSUB (R91, R101, R103) -/

/-- The request that a QSUB of block blk hands in, with no list: nothing is done yet, and its completion is promised (R101, R103). -/
def Ctx.copyRequest (c : Ctx) (t : Team) (blk : BitVec 512) : CopyReq :=
  let r : CopyReq := ⟨t.core, c.g.team, c.n, blk, [], 0, blkSeed blk, 0, none, [], 0, [], [], []⟩
  { r with promise := c.s.promise c.g r }

/-- A promised completion is at least 96 cycles off (R101). -/
theorem State.promise_ge (s : State) (g : Group) (r : CopyReq) : s.cycle + 96 ≤ s.promise g r :=
  (Nat.add_le_add_right (Nat.le_max_left ..) 96).trans (Nat.le_add_right ..)

/-- A QSUB whose block passes every static check, on an engine with a free record, hands its request in and writes the promise (R101, R103). -/
theorem exec_qsub_of_accepted {c : Ctx} {t : Team} {h : Hdr} {vd vo : BitVec 6} {imm : BitVec 10} {la : Nat} {blk : BitVec 512}
    (hq : c.Quiet (.qsub h vd vo imm)) (ht : c.team = some t) (haddr : c.engineAddr c.g vo (imm.toNat * 64) = la)
    (hcheck : c.engineCheck c.g vo (imm.toNat * 64) 64 = none) (hblk : BitVec.ofNat 512 (t.readLocal la 64).1 = blk)
    (hclean : (t.readLocal la 64).2 = false) (hlist : blkLcnt blk = 0) (hstatic : copyCheck c.g t.localSize blk [] = 0)
    (hfree : (c.s.copies.filter fun r => r.core == t.core).length < 32) (hremote : c.g.remoteWrites = false) (hmx : c.g.mxUses blk = false) :
    exec (.qsub h vd vo imm) c.s = .next (c.advance (.qsub h vd vo imm) { c.s.setGroup c.n (c.g.applyAll c.act c.full
      (pairEff h c.g c.act vd fun _ => (BitVec.ofNat 64 (c.copyRequest t blk).promise, false)).writes) with
        copies := c.s.copies ++ [c.copyRequest t blk] }) := by
  have hplain := Ctx.plain_of_quiet hq
  have hroom : ¬ Config.copyRecords ≤ (c.s.copies.filter fun r => r.core == t.core).length := Nat.not_le.mpr hfree
  change execQsub h vd vo imm c.s = _
  unfold execQsub
  refine issue_advance_of_plain hq (t := { c.s with copies := c.s.copies ++ [c.copyRequest t blk] }) ⟨rfl, rfl, rfl⟩ (Group.applyAll_same ..) ?_
  simp only [Ctx.withForm_plain hplain, haddr, hcheck, ht, hblk, hclean, hlist, hmx, hremote]
  simp [hstatic, hroom, State.writeRegs_plain (Ctx.group_of_quiet hq) fun r hr => Ctx.plain_recipe hplain hr]
  rfl

/-! ### CBINIT (R99, R104) -/

/-- Where only a team's local memory changes its groups keep the rows that they may have (R160). -/
theorem State.rowLimit_setTeam {s : State} {k : Nat} {t t' : Team} (ht : s.team k = some t) (hcore : t'.core = t.core) (hfloor : t'.floor = t.floor)
    (n : Nat) (g : Group) : (s.setTeam k t').rowLimit n g = s.rowLimit n g := by
  have hteam (f : Team → Nat) (hf : f t' = f t) (g : Group) : ((s.setTeam k t').teamOf g).map f = (s.teamOf g).map f := by
    simp only [State.teamOf, State.team, State.setTeam] at ht ⊢
    by_cases hk : g.team = k
    · rw [hk, Tbl.get_set_same, ht, Option.map_some, Option.map_some, hf]
    · rw [Tbl.get_set_ne _ _ _ hk]
  have hres : (s.setTeam k t').resident = s.resident := rfl
  simp only [State.rowLimit, State.rowsOthers, State.floorOf, State.coreOf, hres, hteam Team.core hcore, hteam Team.floor hfloor]

/-- An effect that changes only its team, and neither the team's core nor its rows, is the whole step. -/
theorem issue_setTeam {c : Ctx} {i : Instr} (hq : c.Quiet i) {body : Ctx → Res} {t t' : Team} (ht : c.team = some t) (hcore : t'.core = t.core)
    (hfloor : t'.floor = t.floor) (hbody : body c = c.done i (c.s.setTeam c.g.team t')) :
    issue i c.s body = .next (c.advance i (c.s.setTeam c.g.team t')) := by
  have hself : (c.s.setTeam c.g.team t').setGroup c.n c.g = c.s.setTeam c.g.team t' := State.setGroup_of_group (Ctx.group_of_quiet hq)
  have hplain := Ctx.plain_of_quiet hq
  obtain ⟨hissues, -, hroomy⟩ := hq
  have hroomy' : Ctx.roomy { c with s := c.s.setTeam c.g.team t' } = true := by
    have hlimit := State.rowLimit_setTeam ht hcore hfloor c.n c.g
    simp only [State.rowLimit] at hlimit
    simpa only [Ctx.roomy, hlimit] using hroomy
  rw [issue_body hissues, hbody]
  simp only [Ctx.done, Ctx.huskStep_plain hplain, Ctx.sliceStep_plain hplain]
  rw [← hself, Ctx.advance_setGroup]
  congr 1
  exact Ctx.fitAreas_setGroup (c := { c with s := c.s.setTeam c.g.team t' }) hissues.1 hroomy' (.refl _) (by cases c.slot <;> rfl) _

@[simp] theorem Team.core_writeLocal (t : Team) (la n v : Nat) (bad : Bool) : (t.writeLocal la n v bad).core = t.core := rfl
@[simp] theorem Team.floor_writeLocal (t : Team) (la n v : Nat) (bad : Bool) : (t.writeLocal la n v bad).floor = t.floor := rfl

/-- CBINIT writes its pair's bytes, and as many zero bytes behind them, at the local address (R104). -/
theorem exec_cbinit_of_placed {c : Ctx} {t : Team} {h : Hdr} {vp vo : BitVec 6} {imm : BitVec 9} {la : Nat} (hq : c.Quiet (.cbinit h vp vo imm))
    (ht : c.team = some t) (hclean : c.g.badN vp 2 c.low = false) (haddr : c.engineAddr c.g vo (imm.toNat * 16) = la)
    (hcheck : c.engineCheck c.g vo (imm.toNat * 16) 16 = none) : exec (.cbinit h vp vo imm) c.s =
      .next (c.advance (.cbinit h vp vo imm) (c.s.setTeam c.g.team (t.writeLocal la 16 (c.g.rd2 vp c.low).toNat false))) := by
  have hteam : c.s.team c.g.team = some t := ht
  change execCbinit h vp vo imm c.s = _
  unfold execCbinit
  refine issue_setTeam hq ht (Team.core_writeLocal ..) (Team.floor_writeLocal ..) ?_
  simp only [Ctx.withForm_plain (Ctx.plain_of_quiet hq), Ctx.pairOf_of_clean hclean, haddr, hcheck, State.onTeam, hteam]

/-- A barrier just written with a doubleword expects those bytes and shows no fault (R99). -/
theorem Team.barrier_writeLocal {t : Team} (hwf : Mem.wf t.localMem = true) (la : Nat) (v : DWord) (bad : Bool) :
    (t.writeLocal la 16 v.toNat bad).barrier la = v.toNat := by
  have hlt := v.isLt
  exact (Mem.readN_writeN hwf la 16 v.toNat).trans (Nat.mod_eq_of_lt (by omega))

/-- Settles O29, by the state that each of the two instructions leaves. -/
theorem copyEngineInstructions : Obligations.CopyEngineInstructions := by
  unfold Obligations.CopyEngineInstructions
  refine ⟨?submitted, ?initialized⟩
  case submitted =>
    intro c t h vd vo imm i la blk hq heven ht hoffset hinside haligned hclean hlist hstatic hfree hremote hmx
    have hunder := Ctx.under_plain (Ctx.plain_of_quiet hq)
    have hcheck := Ctx.engineCheck_of_placed ht hoffset hinside haligned
    exact ⟨_, c.copyRequest t blk, exec_qsub_of_accepted hq ht (c.engineAddr_eq vo imm.toNat 64) hcheck rfl hclean hlist hstatic hfree hremote hmx,
      Group.sameBut_applyAll hunder (pairEff_vreg heven), rfl, rfl, rfl, rfl, rfl, rfl, State.promise_ge .., fun l hl hact => rd2_pairEff hunder heven _ hl hact⟩
  case initialized =>
    intro c t h vp vo imm i la hq ht hclean hoffset hinside haligned hwf
    have hcheck := Ctx.engineCheck_of_placed ht hoffset hinside haligned
    have hbarrier := Team.barrier_writeLocal hwf la (c.g.rd2 vp c.low) false
    have hlt := (c.g.rd2 vp c.low).isLt
    refine ⟨_, exec_cbinit_of_placed hq ht hclean (c.engineAddr_eq vo imm.toNat 16) hcheck, rfl, ?_, ?_, fun b hb => Mem.get_writeN_out hwf _ _ _ _ hb⟩
    · rw [hbarrier, barCount, Nat.mod_eq_of_lt hlt]
    · rw [hbarrier, barFault, Nat.div_eq_of_lt hlt]
      rfl

end Sys2Proof.Machine
end

section
/-! Settles O52: chunks (R100), wakes (R105, R106), publications (R107), claims (R244) and blocks (R240). -/

namespace Sys2Proof.Machine

/-! ### Chunks (R100) -/

/-- The key of a scaled block that earlier chunks of the request have completed (R97). -/
def CopyReq.completed (r : CopyReq) (key : Int × Int) : Bool :=
  (r.prodsFrom 0 r.next).any fun p => p.drow == key.1 && p.dk / ((dstSide r.block).block : Int) == key.2

/-- The productions that the request's next chunk is made from (R100, R111). -/
def CopyReq.ahead (r : CopyReq) : List Prod_ :=
  r.prodsFrom r.next (if (dstSide r.block).block ≠ 0 ∧ blkLcnt r.block ≠ 0 then r.count.1 else 8 * Config.chunkBytes + 8)

/-- A full chunk whose destination is in this package is counted and credits its barrier (R100). -/
theorem State.copyStep_full {s : State} {r : CopyReq} {g : Group} {w : Work} {k : Nat} (hg : s.group r.group = some g)
    (hkind : (dstSide r.block).kind ≠ 4)
    (hchunk : (⟨r.group, g, r.block, r.inbuf⟩ : Job).chunk r.completed r.ahead.length [] r.ahead 0 ⟨s, [], r.rng, [], []⟩ = (w, k, .full)) (hk : k ≠ 0) :
    s.copyStep r = ((w.s.count g w.counts).setCopy r (some { r with rng := w.rng, inbuf := [], waitPage := none })).copyCredit
      { r with rng := w.rng, inbuf := [], waitPage := none } ((⟨r.group, g, r.block, r.inbuf⟩ : Job).bytesOf k) := by
  have hlocal : ((dstSide r.block).kind == 4) = false := beq_false_of_ne hkind
  have hcovers : (k != 0) = true := bne_iff_ne.mpr hk
  have hahead : r.prodsFrom r.next (if (dstSide r.block).block != 0 && blkLcnt r.block != 0 then r.count.1 else 8 * Config.chunkBytes + 8) = r.ahead := by
    simp only [CopyReq.ahead, Bool.and_eq_true, bne_iff_ne]
  unfold CopyReq.completed at hchunk
  simp only [State.copyStep, hg, hahead, hchunk, hcovers, hlocal, Bool.false_and, if_true, Bool.false_eq_true, if_false]

/-- COPY_CHUNK goes on with the request at the head of its core's engine (R103). -/
theorem exec_copyChunk_of_head {s : State} {core : Nat} {r : CopyReq} (hhead : s.copyHead core [] s.copies = some r) :
    exec (.copyChunk core) s = .next (s.copyStep r) := by
  change execCopyChunk core s = _
  rw [execCopyChunk, hhead]

/-! ### Wakes (R105, R106) -/

/-- A CBWAIT is over once its barrier is sound and expects nothing more (R105). -/
theorem exec_cbwaitWake_of_zero {s : State} {n la : Nat} {g : Group} {t : Team} {slot : SlotId} (hg : s.group n = some g) (ht : s.teamOf g = some t)
    (hasleep : g.asleep = some (.cbwait slot la)) (hpoison : (t.readLocal la 16).2 = false) (hfault : barFault (t.barrier la) = false)
    (hcount : barCount (t.barrier la) = 0) : exec (.cbwaitWake n) s = .next (s.wake n slot 1) := by
  change execCbwaitWake n s = _
  simp [execCbwaitWake, hg, ht, hasleep, Team.barState_of_sound hfault hpoison, hcount]

/-- A SLEEPUNTIL is over once its cycle has come (R106). -/
theorem exec_sleepuntilWake_of_late {s : State} {n : Nat} {g : Group} {t : Team} {slot : SlotId} {c : DWord} (hg : s.group n = some g)
    (ht : s.teamOf g = some t) (hasleep : g.asleep = some (.sleepuntil slot c none)) (htime : c.toNat ≤ s.cycle) :
    exec (.sleepuntilWake n) s = .next (s.wake n slot 1) := by
  have hlate : ¬ s.cycle < c.toNat := Nat.not_lt.mpr htime
  change execSleepuntilWake n s = _
  simp [execSleepuntilWake, hg, ht, hasleep, hlate]

/-! ### Publications (R107) -/

/-- A publication flips its region once no twin request to it, no access of its address space and no migration of its pages is under way (R53, R107). -/
theorem exec_publishFlip_of_idle {s : State} {n base len : Nat} {g : Group} {slot : SlotId} (hg : s.group n = some g)
    (hasleep : g.asleep = some (.publish slot base len)) (hbusy : s.twinBusy (s.asidOf g) base len = false)
    (hopen : s.accessesOpen (s.asidOf g) = false) (hfrozen : ∀ a ∈ regionPages base len, s.twinPage (s.asidOf g) a ≠ .frozen) :
    exec (.publishFlip n) s = .next (((s.flipRegion (s.asidOf g) (regionPages base len)).endSafe g).wake n slot 1) := by
  have hthawed : ((regionPages base len).any fun a => s.twinPage (s.asidOf g) a == .frozen) = false :=
    List.any_eq_false.mpr fun a ha => by simpa using hfrozen a ha
  change execPublishFlip n s = _
  simp [execPublishFlip, hg, hasleep, hbusy, hopen, hthawed]

/-- A page is a twin where its walk ends in a leaf with TW that no migration has frozen (R107). -/
theorem State.twinPage_twin {s : State} {asid va pe : Nat} {e : DWord} :
    s.twinPage asid va = .twin pe e ↔ ∃ big, s.walk asid va = .leaf pe e big ∧ pteTW e = true ∧ pteFZ e = false := by
  unfold State.twinPage
  constructor
  · intro htwin
    split at htwin
    · next hwalk =>
      split_ifs at htwin with htw hfz
      cases htwin
      exact ⟨_, hwalk, by simpa using htw, by simpa using hfz⟩
    · cases htwin
  · rintro ⟨big, hwalk, htw, hfz⟩
    simp [hwalk, htw, hfz]

/-- A list without its repeats has none. -/
theorem nodup_eraseDups {α : Type} [BEq α] [LawfulBEq α] (l : List α) : l.eraseDups.Nodup := by
  match l with
  | [] => exact List.nodup_nil
  | a :: l =>
    rw [List.eraseDups_cons, List.nodup_cons]
    exact ⟨by simp, nodup_eraseDups _⟩
  termination_by l.length
  decreasing_by exact Nat.lt_succ_of_le (List.length_filter_le ..)

/-- The leaves of a region are those of its twin pages (R107). -/
theorem State.mem_twinLeaves {s : State} {asid : Nat} {pages : List Nat} {x : Nat × DWord} :
    x ∈ s.twinLeaves asid pages ↔ ∃ va ∈ pages, s.twinPage asid va = .twin x.1 x.2 := by
  unfold State.twinLeaves
  rw [List.mem_eraseDups, List.mem_filterMap]
  refine exists_congr fun va => and_congr_right fun _ => ?_
  split
  · next pe e htwin => simp [htwin, Prod.ext_iff]
  · next htwin => exact iff_of_false nofun (htwin x.1 x.2)

/-! ### Claims (R244) -/

/-- The next work stands at its place in the queue. -/
theorem Group.mxHead_getElem {g : Group} {k : Nat} {w : MxWork} (h : g.mxHead = some (k, w)) : g.mx[k]? = some w := by
  unfold Group.mxHead at h
  split at h
  · obtain ⟨v, hv, heq⟩ := Option.map_eq_some_iff.mp h
    cases heq
    exact hv
  · split at h
    · cases h
    · obtain ⟨v, hv, heq⟩ := Option.map_eq_some_iff.mp h
      cases heq
      exact hv

section
variable {s : State} {n k : Nat} {g : Group} {w : MxWork} {h : Hdr} {t : Bool}

/-- An ACCZ reads no register, so that none of its operands is poisoned. -/
theorem Group.mxOperands_accz (hinstr : w.instr = .accz h t) : (g.mxOperands w).2 = false := by
  have hreads : reads (.accz h t) = Foot.none := rfl
  have hnone : vList Foot.none.v = [] := by decide
  rw [Group.mxOperands, hinstr, hreads, hnone]
  rfl

/-- A claim at the head of the queue takes a tile that no other group of the core holds, as zeros (R244). -/
theorem State.mxBegin_accz (hg : s.group n = some g) (hhead : g.mxHead = some (k, w)) (hinstr : w.instr = .accz h t) (hops : w.ops = none)
    (hsound : w.spoiled = none) (hfree : s.tileTaken n g (tileNum t) = false) :
    s.mxBegin n = s.setGroup n ((g.mxDone k w).setTile (tileNum t) (some Tile.zero)) := by
  simp [State.mxBegin, hg, hhead, hops, hsound, Group.mxOperands_accz hinstr, hinstr, State.beginClaim, hfree]

/-- Behind work that is no MXLOOP the group's rows are made to fit, and nothing else follows (R160, R235). -/
theorem State.afterMx_of_notLoop {s1 : State} {g1 : Group} (hg : s.group n = some g) (hg1 : s1.group n = some g1) (hloop : g.atLoop = false) :
    s.afterMx n s1 = s1.fitRows n g.inRows := by
  simp [State.afterMx, hg, hg1, hloop]

theorem Group.atLoop_accz (hhead : g.mxHead = some (k, w)) (hinstr : w.instr = .accz h t) : g.atLoop = false := by
  simp [Group.atLoop, hhead, hinstr]

/-- MATRIX_WORK_BEGIN of a claim that need not wait (R244). -/
theorem exec_matrixWorkBegin_accz (hg : s.group n = some g) (hhead : g.mxHead = some (k, w)) (hinstr : w.instr = .accz h t) (hops : w.ops = none)
    (hsound : w.spoiled = none) (hfree : s.tileTaken n g (tileNum t) = false) :
    exec (.matrixWorkBegin n) s = .next ((s.setGroup n ((g.mxDone k w).setTile (tileNum t) (some Tile.zero))).fitRows n g.inRows) := by
  change execMatrixWorkBegin n s = _
  rw [execMatrixWorkBegin, State.mxBegin_accz hg hhead hinstr hops hsound hfree,
    State.afterMx_of_notLoop hg (State.group_setGroup_same ..) (Group.atLoop_accz hhead hinstr)]

/-- ACCZ_CLAIM of a claim whose wait is over (R244). -/
theorem exec_acczClaim_of_free {ops : List Word} (hg : s.group n = some g) (hhead : g.mxHead = some (k, w)) (hinstr : w.instr = .accz h t)
    (hops : w.ops = some ops) (hfree : s.tileTaken n g (tileNum t) = false) :
    exec (.acczClaim n) s = .next (s.setGroup n ((g.mxDone k { w with ops := none }).setTile (tileNum t) (some Tile.zero))) := by
  change execAcczClaim n s = _
  simp [execAcczClaim, State.mxClaim, hg, hhead, hinstr, hops, hfree]

end

/-! ### Rows made to fit change vector registers alone (R156, R160) -/

/-- The group but for its vector registers. -/
def Group.butV (g : Group) : Group := { g with v := [] }

/-- Two states with the same memory, and the same groups but for their vector registers. -/
structure State.SameButV (s t : State) : Prop where
  mem : t.mem = s.mem
  groups : ∀ k, (t.group k).map Group.butV = (s.group k).map Group.butV

theorem State.SameButV.refl (s : State) : s.SameButV s := ⟨rfl, fun _ => rfl⟩
theorem State.SameButV.trans {s t u : State} (h : s.SameButV t) (h' : t.SameButV u) : s.SameButV u :=
  ⟨h'.mem.trans h.mem, fun k => (h'.groups k).trans (h.groups k)⟩

theorem State.sameButV_setGroup {s : State} {n : Nat} {g g' : Group} (hg : s.group n = some g) (h : g'.butV = g.butV) :
    s.SameButV (s.setGroup n g') := by
  refine ⟨rfl, fun k => ?_⟩
  by_cases hk : k = n
  · rw [hk, State.group_setGroup_same, hg, Option.map_some, Option.map_some, h]
  · rw [State.group_setGroup_ne s g' hk]

/-- Steps that each change vector registers alone do so together. -/
theorem State.sameButV_foldl {α : Type} {f : State → α → State} (hf : ∀ (s : State) a, s.SameButV (f s a)) (l : List α) (s : State) :
    s.SameButV (l.foldl f s) :=
  List.foldlRecOn (motive := s.SameButV) l f (.refl s) fun t ht a _ => ht.trans (hf t a)

theorem Group.butV_spill (g : Group) (r : Nat) : (g.spill r).butV = g.butV := by
  unfold Group.spill
  split
  · split <;> rfl
  · rfl

theorem State.sameButV_foldFor (s : State) (n k r : Nat) : s.SameButV (s.foldFor n k r) := by
  unfold State.foldFor
  split
  · exact .refl s
  · next g hg =>
    split
    · exact State.sameButV_setGroup hg rfl
    · exact .refl s

theorem State.sameButV_spillFor (s : State) (n r : Nat) : s.SameButV (s.spillFor n r) := by
  unfold State.spillFor
  split
  · exact .refl s
  · next g hg =>
    split
    · exact .refl s
    · exact State.sameButV_setGroup hg (g.butV_spill r)

theorem State.sameButV_fitRows (s : State) (n : Nat) (had : BitVec 64) : s.SameButV (s.fitRows n had) := by
  unfold State.fitRows
  split
  · exact .refl s
  · split
    · exact .refl s
    · dsimp only
      refine State.SameButV.trans ?_ (State.sameButV_foldl (fun s r => s.sameButV_spillFor n r) _ _)
      split
      · exact .refl s
      · exact State.sameButV_foldl (fun s k => State.sameButV_foldl (fun s r => s.sameButV_foldFor n k r) _ s) _ s

/-- Such a group holds the same tiles and has the same queue. -/
theorem State.SameButV.group {s t : State} (h : s.SameButV t) {n : Nat} {g : Group} (hg : s.group n = some g) :
    ∃ g', t.group n = some g' ∧ g'.butV = g.butV := by
  have hn := h.groups n
  rw [hg] at hn
  exact Option.map_eq_some_iff.mp hn

theorem Group.tileAt_of_butV {g g' : Group} (h : g'.butV = g.butV) (t : Nat) : g'.tileAt t = g.tileAt t := by
  have htiles := congrArg (Group.tileAt · t) h
  exact htiles
theorem Group.mx_of_butV {g g' : Group} (h : g'.butV = g.butV) : g'.mx = g.mx := by
  have hmx := congrArg Group.mx h
  exact hmx

/-! ### Blocks (R240) -/

/-- Work that completes leaves the tiles alone: it gives up its place and its locks. -/
theorem Group.tileAt_mxDone (g : Group) (k : Nat) (w : MxWork) (t : Nat) : (g.mxDone k w).tileAt t = g.tileAt t := by
  have hunlock (g : Group) (i : Instr) : (g.unlock i).tileAt t = g.tileAt t :=
    List.foldlRecOn (motive := fun x : Group => x.tileAt t = g.tileAt t) _ _ rfl fun _ hx _ _ => hx
  unfold Group.mxDone
  dsimp only
  split
  · exact hunlock ..
  · rfl

/-- The group after its MXLOOP at place k, of kc positions and `it` iterations, has run a block of len positions: the work goes on with the next block, or has
completed (R240). -/
def Group.loopOn (g : Group) (k : Nat) (w : MxWork) (kc it len : Nat) : Group :=
  let ends := decide (kc ≤ w.k + len)
  let it' := if ends then w.it + 1 else w.it
  if it' == it then g.mxDone k w else g.setMx k { w with it := it', k := if ends then 0 else w.k + len }

theorem Group.tileAt_loopOn (g : Group) (k : Nat) (w : MxWork) (kc it len t : Nat) : (g.loopOn k w kc it len).tileAt t = g.tileAt t := by
  unfold Group.loopOn
  exact (apply_ite (Group.tileAt · t) ..).trans ((ite_congr rfl (fun _ => g.tileAt_mxDone ..) fun _ => rfl).trans (ite_self _))

/-- Within an iteration the work goes on behind the block. -/
theorem Group.mx_loopOn_within {g : Group} {k : Nat} {w : MxWork} {kc it len : Nat} (hw : g.mx[k]? = some w) (hmore : w.k + len < kc) (hit : w.it ≠ it) :
    (g.loopOn k w kc it len).mx[k]? = some { w with k := w.k + len } := by
  obtain ⟨hlt, -⟩ := List.getElem?_eq_some_iff.mp hw
  have hgoes : g.loopOn k w kc it len = g.setMx k { w with k := w.k + len } := by
    simp [Group.loopOn, Nat.not_le.mpr hmore, hit]
  rw [hgoes]
  exact List.getElem?_set_self hlt

/-- One block of a dense MXLOOP whose operands stand: its tile is what the block gives, its work goes on, and the NaNs are counted (R208, R240). -/
theorem State.loopBlock_dense {s : State} {n k t ob b kc it mob : Nat} {g : Group} {w : MxWork} {quad : List Word} {ra rb : Resv} {tile : Tile} {d : MxDesc}
    {p : MxPlace} (ha : g.obAt ob = some ra) (hb : g.bAt b = some rb) (htile : g.tileAt t = some tile) (hquad : MxDesc.of quad = some d)
    (hp : p = ⟨d, ra, rb, none, .dense, kc, it, w.it, w.k, Nat.min (sumBlock ra rb) (kc - w.k)⟩) (hmeta : p.metaOk = true) :
    let g1 := (g.setTile t (some (p.run tile).1)).loopOn k w kc it p.len
    s.loopBlock n g k w t ob b .dense kc it mob quad = (s.setGroup n g1).count g1 (List.replicate (p.run tile).2 (3 * (ra.fmt.toNat / 128 % 64) + 2)) := by
  subst hp
  simp only [State.loopBlock, ha, hb, htile, hquad, beq_self_eq_true, ↓reduceIte]
  rw [if_neg (by rw [hmeta]; decide)]
  rfl

/-- What follows a move of matrix work leaves memory, and the group but for its vector registers. -/
theorem State.afterMx_group {s s1 : State} {n : Nat} {g g1 : Group} (hg : s.group n = some g) (hg1 : s1.group n = some g1) :
    (s.afterMx n s1).mem = s1.mem ∧ ∃ g', (s.afterMx n s1).group n = some g' ∧ g'.butV = g1.butV := by
  unfold State.afterMx
  rw [hg, hg1]
  dsimp only
  split <;> exact ⟨(State.sameButV_fitRows ..).mem, (State.sameButV_fitRows ..).group hg1⟩

theorem State.mem_count (s : State) (g : Group) (cs : List Nat) : (s.count g cs).mem = s.mem := by
  unfold State.count
  split
  · rfl
  · split <;> rfl

/-- MATRIX_BLOCK of an MXLOOP that has begun and has the array (R235, R240). -/
theorem State.mxStep_mxloop {s : State} {n k : Nat} {g : Group} {w : MxWork} {h : Hdr} {t z : Bool} {ob mob : BitVec 3} {b : BitVec 2} {vq : BitVec 6}
    {sp : Sparsity} {kc it : BitVec 12} {quad : List Word} (hg : s.group n = some g) (hhead : g.mxHead = some (k, w))
    (hinstr : w.instr = .mxloop h t ob b vq sp z kc it mob) (hops : w.ops = some quad) (hsound : w.spoiled = none) (hturn : s.arrayTurn n g = true) :
    s.mxStep n = s.loopBlock n g k w (tileNum t) ob.toNat b.toNat sp kc.toNat it.toNat mob.toNat quad := by
  simp [State.mxStep, hg, hhead, hops, hsound, hinstr, hturn]

/-- Settles O52, by what each event does in the case that the statement names. -/
theorem engineEventsComplete : Obligations.EngineEventsComplete := by
  unfold Obligations.EngineEventsComplete
  refine ⟨?chunk, fun s n la g t slot hg ht hasleep hpoison hfault hcount => ?waited, fun s n g t slot c hg ht hasleep htime => ?slept,
    fun s n base len g slot hg hasleep hbusy hopen hfrozen => exec_publishFlip_of_idle hg hasleep hbusy hopen hfrozen,
    fun s asid pages => ⟨nodup_eraseDups _, fun x => ?leaves, rfl⟩,
    fun s n k g w h t hg hhead hinstr hops hsound hfree => exec_matrixWorkBegin_accz hg hhead hinstr hops hsound hfree,
    fun s n k g w h t hg hhead hinstr hops hfree => exec_acczClaim_of_free hg hhead hinstr hops hfree, ?block⟩
  case chunk =>
    intro s core k r g w hhead hg hkind j before ps hchunk hk r'
    exact (exec_copyChunk_of_head hhead).trans (congrArg _ (State.copyStep_full hg hkind hchunk hk))
  case waited =>
    rw [exec_cbwaitWake_of_zero hg ht hasleep hpoison hfault hcount, State.wake_group hg]
    rfl
  case slept =>
    rw [exec_sleepuntilWake_of_late hg ht hasleep htime, State.wake_group hg]
    rfl
  case leaves => simp only [State.mem_twinLeaves, State.twinPage_twin]
  case block =>
    intro s n k g w h t ob b vq z kc it mob quad ra rb tile d hg hhead hinstr hops hsound hturn ha hb htile hquad len p hmeta
    have hblock := State.loopBlock_dense (s := s) (n := n) (k := k) (mob := mob.toNat) ha hb htile hquad rfl hmeta
    obtain ⟨hmem, g', hg', hsame⟩ := State.afterMx_group (s1 := s.mxStep n) hg (by
      rw [State.mxStep_mxloop hg hhead hinstr hops hsound hturn, hblock, State.group_count, State.group_setGroup_same])
    refine ⟨s.afterMx n (s.mxStep n), g', rfl, hg', ?_, fun hmore hit => ?_, ?_⟩
    · rw [Group.tileAt_of_butV hsame, Group.tileAt_loopOn]
      exact Tbl.get_set_same ..
    · rw [Group.mx_of_butV hsame]
      exact Group.mx_loopOn_within (Group.mxHead_getElem hhead) hmore hit
    · rw [hmem, State.mxStep_mxloop hg hhead hinstr hops hsound hturn, hblock, State.mem_count]
      rfl

end Sys2Proof.Machine
end

section
/-! Settles O54: the bytes of a flit (R117, R118), what a port sends in a slot (R120, R121, R123), replays and retraining (R121, R122), and routes (R125). -/

namespace Sys2Proof.Machine

/-! ### Numbers as bytes -/

@[simp] theorem length_bytesOf (n v : Nat) : (bytesOf n v).length = n := by
  induction n generalizing v with
  | zero => rfl
  | succ n ih => simp [bytesOf, ih]

/-- Bytes of a number give it back, but for what they cannot hold. -/
theorem ofBytes_bytesOf (n v : Nat) : ofBytes (bytesOf n v) = v % 256 ^ n := by
  induction n generalizing v with
  | zero => simp [bytesOf, ofBytes, Nat.mod_one]
  | succ n ih =>
    have hsplit : v % (256 * 256 ^ n) = v % 256 + 256 * (v / 256 % 256 ^ n) := Nat.mod_mul
    rw [bytesOf, ofBytes, ih, Nat.pow_succ', hsplit, BitVec.toNat_ofNat]

/-- The lowest b bits of what stands from bit a upward are a field of their own, and the rest stands from bit a + b upward. -/
theorem peel_field {h t x a : Nat} (b c : Nat) (he : h / 2 ^ a = t * 2 ^ b + x) (hx : x < 2 ^ b) (hc : a + b = c) :
    h / 2 ^ c = t ∧ h / 2 ^ a % 2 ^ b = x := by
  subst hc
  rw [Nat.pow_add, ← Nat.div_div_eq_div_mul, he, Nat.mul_comm]
  exact ⟨by rw [Nat.mul_add_div (Nat.two_pow_pos b), Nat.div_eq_of_lt hx, Nat.add_zero], by rw [Nat.mul_add_mod, Nat.mod_eq_of_lt hx]⟩

/-! ### The header (R118) -/

section
variable {type : Nat} {f : Flit} (ht : type < 16) (hlen : f.payload.length ≤ 240)
include ht hlen

/-- The fields of a header lie side by side, so that each is read back where R118 has it. -/
theorem flitHeader_fields : let h := flitHeader type f
    h / 2 ^ 92 = type ∧ h / 2 ^ 90 % 2 ^ 2 = f.cls.toNat ∧ h / 2 ^ 88 % 4 * 2 + h % 2 = f.rsv.toNat ∧ h / 2 ^ 72 % 2 ^ 16 = f.seq.toNat ∧
      h / 2 ^ 56 % 2 ^ 16 = f.ack.toNat ∧ h / 2 ^ 47 % 2 ^ 9 = f.dst.toNat ∧ h / 2 ^ 38 % 2 ^ 9 = f.src.toNat ∧
      h / 2 ^ 30 % 256 = f.payload.length ∧ h / 2 ^ 14 % 2 ^ 16 = f.tag.toNat ∧ h / 2 ^ 10 % 2 ^ 4 = f.hops.toNat ∧
      h / 4 % 2 ^ 8 = f.rate.toNat ∧ h / 2 % 2 = f.w.toNat := by
  have hlen8 : f.payload.length < 2 ^ 8 := by omega
  have hhorner : flitHeader type f / 2 ^ 0 = (((((((((((type * 2 ^ 2 + f.cls.toNat) * 2 ^ 2 + f.rsv.toNat / 2) * 2 ^ 16 + f.seq.toNat) * 2 ^ 16 +
      f.ack.toNat) * 2 ^ 9 + f.dst.toNat) * 2 ^ 9 + f.src.toNat) * 2 ^ 8 + f.payload.length) * 2 ^ 16 + f.tag.toNat) * 2 ^ 4 + f.hops.toNat) * 2 ^ 8 +
      f.rate.toNat) * 2 ^ 1 + f.w.toNat) * 2 ^ 1 + f.rsv.toNat % 2 := by
    have hw : (if f.w = true then 2 else 0) = 2 * f.w.toNat := by cases f.w <;> rfl
    rw [flitHeader, hw, Nat.mod_eq_of_lt ht, Nat.mod_eq_of_lt (show f.payload.length < 256 from hlen8)]
    rw [Nat.pow_zero, Nat.div_one]
    ring
  obtain ⟨hrest, hrsv0⟩ := peel_field 1 1 hhorner (Nat.mod_lt _ Nat.two_pos) rfl
  obtain ⟨hrest, hw⟩ := peel_field 1 2 hrest f.w.toNat_lt rfl
  obtain ⟨hrest, hrate⟩ := peel_field 8 10 hrest f.rate.isLt rfl
  obtain ⟨hrest, hhops⟩ := peel_field 4 14 hrest f.hops.isLt rfl
  obtain ⟨hrest, htag⟩ := peel_field 16 30 hrest f.tag.isLt rfl
  obtain ⟨hrest, hlength⟩ := peel_field 8 38 hrest hlen8 rfl
  obtain ⟨hrest, hsrc⟩ := peel_field 9 47 hrest f.src.isLt rfl
  obtain ⟨hrest, hdst⟩ := peel_field 9 56 hrest f.dst.isLt rfl
  obtain ⟨hrest, hack⟩ := peel_field 16 72 hrest f.ack.isLt rfl
  obtain ⟨hrest, hseq⟩ := peel_field 16 88 hrest f.seq.isLt rfl
  obtain ⟨hrest, hrsv1⟩ := peel_field 2 90 hrest (Nat.div_lt_of_lt_mul f.rsv.isLt) rfl
  obtain ⟨htype, hcls⟩ := peel_field 2 92 hrest f.cls.isLt rfl
  rw [Nat.pow_zero, Nat.div_one, Nat.pow_one] at hrsv0
  exact ⟨htype, hcls, (congrArg₂ (· * 2 + ·) hrsv1 hrsv0).trans (Nat.div_add_mod' ..), hseq, hack, hdst, hsrc, hlength, htag, hhops, hrate, hw⟩

/-- A header has 96 bits. -/
theorem flitHeader_lt : flitHeader type f < 256 ^ 12 := by
  obtain ⟨htype, -⟩ := flitHeader_fields ht hlen
  have h : flitHeader type f / 2 ^ 92 < 16 := htype.symm ▸ ht
  have hbits : 256 ^ 12 = 16 * 2 ^ 92 := by norm_num
  rw [hbits]
  exact (Nat.div_lt_iff_lt_mul (Nat.two_pow_pos 92)).mp h

end

/-! ### The bytes (R117) -/

/-- The bytes of a flit before its CRC. -/
def flitBody (type : Nat) (f : Flit) : List Byte := bytesOf 12 (flitHeader type f) ++ (f.payload ++ List.replicate (240 - f.payload.length) 0)

theorem flitBytes_eq (type : Nat) (f : Flit) : flitBytes type f = flitBody type f ++ bytesOf 4 (crc32c (flitBody type f)).toNat := by
  rw [flitBody, ← List.append_assoc]
  rfl

theorem length_flitBody {f : Flit} (hlen : f.payload.length ≤ 240) (type : Nat) : (flitBody type f).length = 252 := by
  simp [flitBody]
  omega

theorem length_flitBytes {f : Flit} (hlen : f.payload.length ≤ 240) (type : Nat) : (flitBytes type f).length = 256 := by
  simp [flitBytes_eq, length_flitBody hlen]

theorem ofNat_of_mod {w n : Nat} {x : BitVec w} (h : n % 2 ^ w = x.toNat) : BitVec.ofNat w n = x :=
  BitVec.eq_of_toNat_eq ((BitVec.toNat_ofNat ..).trans h)

/-- The 256 bytes of a flit give it back (R117, R118). -/
theorem flitOfBytes_flitBytes {type : Nat} {f : Flit} (ht : type < 16) (hlen : f.payload.length ≤ 240) :
    flitOfBytes (flitBytes type f) = some (type, f) := by
  have hbody := length_flitBody hlen type
  have hheader : ofBytes ((flitBytes type f).take 12) = flitHeader type f := by
    rw [flitBytes_eq, flitBody, List.append_assoc, List.take_left' (length_bytesOf ..), ofBytes_bytesOf, Nat.mod_eq_of_lt (flitHeader_lt ht hlen)]
  have hcrc : ofBytes ((flitBytes type f).drop 252) = (crc32c ((flitBytes type f).take 252)).toNat := by
    rw [flitBytes_eq, List.drop_left' hbody, List.take_left' hbody, ofBytes_bytesOf]
    exact Nat.mod_eq_of_lt (crc32c (flitBody type f)).isLt
  have hrest : (flitBytes type f).drop 12 =
      f.payload ++ (List.replicate (240 - f.payload.length) 0 ++ bytesOf 4 (crc32c (flitBody type f)).toNat) := by
    rw [flitBytes_eq]
    simp only [flitBody, List.append_assoc]
    exact List.drop_left' (length_bytesOf ..)
  have hpad : ((flitBytes type f).drop (12 + f.payload.length)).take (240 - f.payload.length) = List.replicate (240 - f.payload.length) 0 := by
    rw [← List.drop_drop, hrest, List.drop_left' rfl, List.take_left' List.length_replicate]
  obtain ⟨htype, hcls, hrsv, hseq, hack, hdst, hsrc, hlen', htag, hhops, hrate, hw⟩ := flitHeader_fields ht hlen
  simp only [flitOfBytes, hheader, hlen', length_flitBytes hlen, hcrc, hpad, hrest, List.take_left' rfl, htype, hrsv, hw, ofNat_of_mod hcls, ofNat_of_mod hseq,
    ofNat_of_mod hack, ofNat_of_mod hdst, ofNat_of_mod hsrc, ofNat_of_mod htag, ofNat_of_mod hhops, ofNat_of_mod hrate, BitVec.ofNat_toNat]
  have hzeros : ((List.replicate (240 - f.payload.length) (0 : Byte)).all fun b => b == 0) = true := by simp
  have hwinnow : (f.w.toNat == 1) = f.w := by cases f.w <;> rfl
  simp only [hlen, hzeros, hwinnow, BitVec.setWidth_eq, beq_self_eq_true, decide_true, Bool.and_self, if_true]

/-! ### The meanings of the events -/

theorem exec_crcFailure (port : Nat) (s : State) : exec (.crcFailure port) s = .next (s.drops port false) := rfl
theorem exec_flitSlot (port : Nat) (s : State) : exec (.flitSlot port) s = execFlitSlot port s := rfl
theorem exec_replayTimeout (port : Nat) (s : State) : exec (.replayTimeout port) s = execReplayTimeout port s := rfl
theorem exec_portRetrain (port k : Nat) (s : State) : exec (.portRetrain port k) s = execPortRetrain port k s := rfl
theorem exec_routeUpdate (d : Nat) (e : DWord) (s : State) : exec (.routeUpdate d e) s = execRouteUpdate d e s := rfl

/-! ### A port that is up (R121, R123) -/

section
variable {s : State} {port : Nat} (hport : port < 18) (hup : (s.port port).up = true) (htrained : (s.port port).retraining = false)
include hport hup htrained

/-- A port that is up drops a flit with one NAK owed, and without room sets the rate to 0. -/
theorem State.drops_of_up (noRoom : Bool) : s.drops port noRoom =
    s.setPort port (if noRoom then { (s.port port).drop with rateOut := 0 } else (s.port port).drop) := by
  simp [State.drops, hup, htrained, Nat.not_le.mpr hport]

/-- A port that is up uses its slot. -/
theorem exec_flitSlot_of_up : exec (.flitSlot port) s =
    .next (s.setPort port ((s.port port).send s.cycle s.pkgId (Config.linkDst s.ticks) s.fill)) := by
  simp [exec_flitSlot, execFlitSlot, hup, htrained, Nat.not_le.mpr hport]

end

/-! ### What a port sends (R120) -/

section
variable {p : Port} (now : Nat) (src dst : BitVec 9) (fill : Nat)

theorem Port.send_of_nakDue (hstart : p.mayStart = true) (hdue : p.nakDue = true) : p.send now src dst fill =
    { p with nakDue := false, nakSent := true, wire := flitBytes 8 (p.control src dst) }.slotUsed true fill := by
  simp [Port.send, hstart, hdue]

/-- With nothing to send a port sends an IDLE, whatever its pace. -/
theorem Port.send_of_nothing (hdue : p.nakDue = false) (hreplay : p.replay[p.resend]? = none) (hqueue : p.sendq = []) :
    p.send now src dst fill = p.idle src dst fill := by
  simp [Port.send, hdue, hreplay, hqueue]

theorem Port.send_of_queued {x : OutFlit} {rest : List OutFlit} (hstart : p.mayStart = true) (hdue : p.nakDue = false)
    (hreplay : p.replay[p.resend]? = none) (hqueue : p.sendq = x :: rest) (hroom : p.replay.length < Config.replayFlits) :
    let y := x.stamp p p.nextSeq now
    p.send now src dst fill = { p with
      sendq := rest, replay := p.replay ++ [y], resend := p.resend + 1, nextSeq := (p.nextSeq + 1) % 65536
      wire := flitBytes y.type y.flit }.slotUsed true fill := by
  simp [Port.send, hstart, hdue, hreplay, hqueue, Nat.not_le.mpr hroom]

end

/-! ### Replays and retraining (R121, R122) -/

/-- An oldest flit that has waited 4 µs has the port send everything again; after 8 replays without an advance the port retrains. -/
theorem exec_replayTimeout_of_late {s : State} {port : Nat} {x : OutFlit} {xs : List OutFlit} (hreplay : (s.port port).replay = x :: xs)
    (hup : (s.port port).up = true) (htrained : (s.port port).retraining = false) (hsent : (s.port port).resend ≠ 0) (hlate : x.at_ + 4200 ≤ s.cycle) :
    exec (.replayTimeout port) s = .next (s.setPort port { s.port port with
      resend := 0, replays := (s.port port).replays + 1, retraining := decide (8 ≤ (s.port port).replays) }) := by
  simp [exec_replayTimeout, execReplayTimeout, Port.replayAll, hreplay, hup, htrained, hsent, hlate]

section
variable {s : State} {port k : Nat} (hretraining : (s.port port).retraining = true) (hcmd : s.fabRunning 1 = false)
include hretraining hcmd

/-- A retraining that ends brings the port up, to send what it holds from the oldest flit. -/
theorem exec_portRetrain_of_trained (hk : k < 3) : exec (.portRetrain port k) s = .next (s.setPort port { s.port port with
    up := true, down := false, retraining := false, replays := 0, resend := 0, rateIn := 255, rateOut := 255, slots := 0, recent := [] }) := by
  simp [exec_portRetrain, execPortRetrain, hretraining, hcmd, hk]

/-- The third failure leaves a port that holds nothing down. -/
theorem exec_portRetrain_of_failed (hk : 3 ≤ k) (hreplay : (s.port port).replay = []) (hqueue : (s.port port).sendq = []) :
    exec (.portRetrain port k) s = .next (s.setPort port { Port.reset with down := true }) := by
  simp [exec_portRetrain, execPortRetrain, State.portDown, hretraining, hcmd, Nat.not_lt.mpr hk, hreplay, hqueue]

end

/-! ### Routes (R125) -/

/-- What is sent to a destination whose entry names a port that is down is stalled. -/
theorem State.routeStalled_of_down {s : State} {port d : Nat} (hport : port < 18) (hdown : (s.port port).down = true)
    (hvalid : (s.route d).getLsbD 63 = true)
    (hnamed : bitsOf (s.route d).toNat 58 5 = port ∨ (s.route d).getLsbD (40 + port) = true) : s.routeStalled d = true := by
  have hdoomed : s.routeDoomed d = true := by
    simp only [State.routeDoomed, hvalid, Bool.true_and, Bool.or_eq_true, List.any_eq_true, Bool.and_eq_true]
    rcases hnamed with rfl | hbulk
    · exact .inl hdown
    · exact .inr ⟨port, List.mem_range.mpr hport, hbulk, hdown⟩
  rw [State.routeStalled, hdoomed, Bool.or_true]

/-- An entry changes once no request to its destination is outstanding. -/
theorem exec_routeUpdate_of_idle {s : State} {d : Nat} (e : DWord) (hd : d < 512) (hopen : s.openTo d = false) (hcmd : s.fabRunning 2 = false) :
    exec (.routeUpdate d e) s = .next { s with routes := Tbl.set 0 s.routes d e } := by
  have hcmd' : State.fabRunning { s with routes := Tbl.set 0 s.routes d e } 2 = false := hcmd
  simp only [exec_routeUpdate, execRouteUpdate, hopen, hcmd', decide_eq_false (Nat.not_le.mpr hd), Bool.or_false, Bool.false_and, Bool.false_eq_true,
    if_false]

@[simp] theorem State.port_setPort_same (s : State) (n : Nat) (p : Port) : (s.setPort n p).port n = p := Tbl.get_set_same ..

/-- Settles O54, by what a port does in the case that each clause names. -/
theorem portsKeepTheirOrder : Obligations.PortsKeepTheirOrder := by
  unfold Obligations.PortsKeepTheirOrder
  refine ⟨fun type f ht hlen => ⟨?bytes, flitOfBytes_flitBytes ht hlen⟩, fun s port => ⟨fun hport hup htrained => ?dropped,
    fun hport hup htrained hstart hdue => ?nak, fun hport hup htrained hdue hreplay hqueue => ?idle,
    fun x rest hport hup htrained hstart hdue hreplay hqueue hroom => ?queued,
    fun x xs hreplay hup htrained hsent hlate => exec_replayTimeout_of_late hreplay hup htrained hsent hlate,
    fun k hretraining hk hcmd => ⟨_, exec_portRetrain_of_trained hretraining hcmd hk, rfl, rfl, rfl, rfl, rfl, rfl, rfl, rfl⟩,
    fun k hretraining hk hcmd hreplay hqueue hport => ⟨exec_portRetrain_of_failed hretraining hcmd hk hreplay hqueue, fun d hvalid hnamed => ?down⟩,
    fun d e hd hopen hcmd => exec_routeUpdate_of_idle e hd hopen hcmd⟩⟩
  case bytes => exact length_flitBytes hlen type
  case dropped => exact congrArg Host.Outcome.next (State.drops_of_up hport hup htrained false)
  case nak =>
    refine ⟨_, Config.linkDst s.ticks, exec_flitSlot_of_up hport hup htrained, ?_⟩
    rw [Port.send_of_nakDue _ _ _ _ hstart hdue]
    exact ⟨rfl, rfl, rfl, rfl, rfl, rfl⟩
  case idle =>
    refine ⟨_, Config.linkDst s.ticks, exec_flitSlot_of_up hport hup htrained, ?_⟩
    rw [Port.send_of_nothing _ _ _ _ hdue hreplay hqueue]
    exact ⟨rfl, rfl, rfl⟩
  case queued =>
    refine ⟨_, exec_flitSlot_of_up hport hup htrained, ?_⟩
    rw [Port.send_of_queued _ _ _ _ hstart hdue hreplay hqueue hroom]
    exact ⟨rfl, rfl, rfl, rfl, rfl⟩
  case down => exact State.routeStalled_of_down hport (by simp) hvalid hnamed

end Sys2Proof.Machine
end

section
/-! Settles O53: acceptance (R120, R121, R123), the way on (R124, R125), what requests do here (R119, R126, R128, R130), and what answers end (R126, R128). -/

namespace Sys2Proof.Machine

/-! ### The meanings of the events -/

/-- Whatever a flit means here, its event is its arrival. -/
theorem exec_eq_arrive (s : State) (port : Nat) (f : Flit) :
    ∀ x ∈ [(0, Instr.idle port f), (1, .write port f), (2, .read port f), (3, .atomic port f), (4, .readResp port f), (5, .atomicResp port f),
      (6, .ack port f), (7, .bulk port f), (8, .nak port f), (9, .drain port f), (10, .drainAck port f)],
    ∃ here, exec x.2 s = .next (s.arrive port x.1 f here) := by
  simp only [List.forall_mem_cons, List.not_mem_nil, false_imp_iff, implies_true, and_true]
  exact ⟨⟨_, rfl⟩, ⟨_, rfl⟩, ⟨_, rfl⟩, ⟨_, rfl⟩, ⟨_, rfl⟩, ⟨_, rfl⟩, ⟨_, rfl⟩, ⟨_, rfl⟩, ⟨_, rfl⟩, ⟨_, rfl⟩, ⟨_, rfl⟩⟩

/-! ### Acceptance (R120, R121, R123) -/

/-- A port that is up accepts the flit that is next in order, where it has room for it. -/
theorem State.accepts_of_next {s : State} {port type : Nat} {f : Flit} (hport : port < 18) (hup : (s.port port).up = true)
    (htrained : (s.port port).retraining = false) (hok : s.flitOk type f = true) (hseq : f.seq.toNat = (s.port port).expectSeq % 65536)
    (h0 : type ≠ 0) (h8 : type ≠ 8) (hfits : s.fits type = true) :
    s.accepts port type f = some (s.setPort port { (s.port port).acked f.ack.toNat with
      expectSeq := ((s.port port).expectSeq + 1) % 65536, nakSent := false, rateIn := f.rate.toNat
      rateOut := Nat.min (s.port port).rateOut (fillRate s.fill) }) := by
  simp [State.accepts, hup, htrained, Nat.not_le.mpr hport, hok, hseq, h0, h8, hfits]

/-- An accepted IDLE or NAK, whatever package it names, has its meaning here. -/
theorem State.arrive_control {s s1 : State} {port type : Nat} {f : Flit} (h : s.accepts port type f = some s1) (hcontrol : type = 0 ∨ type = 8)
    (here : State → State) : s.arrive port type f here = here s1 := by
  rcases hcontrol with rfl | rfl <;> simp [State.arrive, h]

/-! ### The way on (R124, R125) -/

/-- What is sent to a package whose route is to change is held. -/
theorem State.emit_of_stalled {s : State} {f : Flit} (h : s.routeStalled f.dst.toNat = true) (type pa : Nat) :
    s.emit type pa f = { s with held := s.held ++ [⟨type, f, pa⟩] } := by
  have hstalled : s.routeStalled f.to_ = true := h
  simp [State.emit, hstalled]

/-- A flit other than a chunk's goes to the port of its destination's entry. -/
theorem State.emit_of_route {s : State} {type q : Nat} {f : Flit} (h7 : type ≠ 7) (hstands : s.routeStalled f.dst.toNat = false)
    (hheld : ∀ h ∈ s.held, h.flit.dst ≠ f.dst) (hroute : s.routePort f.dst.toNat = some q) (pa : Nat) :
    s.emit type pa f = s.enqueueAs q type f false := by
  have hstands' : s.routeStalled f.to_ = false := hstands
  have hroute' : s.routePort f.to_ = some q := hroute
  have hheld' : (s.held.any fun h => h.flit.dst == f.dst) = false := by simpa using hheld
  simp [State.emit, State.noteVia, hstands', hheld', hroute', h7]

/-- A WRITE passes on with one hop more. -/
theorem State.forward_of_route {s : State} {f : Flit} (hhops : f.hops ≠ 15) (hvalid : (s.route f.dst.toNat).getLsbD 63 = true) :
    s.forward 1 f = s.emit 1 0 { f with hops := f.hops + 1 } := by
  have hvalid' : (s.route f.to_).getLsbD 63 = true := hvalid
  have hlost : (f.hops == 15 || !(s.route f.to_).getLsbD 63) = false := by rw [beq_eq_false_iff_ne.mpr hhops, hvalid']; rfl
  simp only [State.forward, hlost, Bool.false_eq_true, if_false]
  rfl

/-! ### Requests of one record performed here (R119, R126) -/

/-- The one address word of a request names memory of this package. -/
theorem State.allMine_of_single {s : State} {f : Flit} {size : Nat} (hlen : f.payload.length / size = 1) (hmine : s.mine (f.get 0 8 % 2 ^ 54) = true) :
    s.allMine f size = true := by
  simp [State.allMine, hlen, hmine, -Nat.reducePow]

theorem chunksOf_of_short {α : Type} {l : List α} {n : Nat} (h0 : l ≠ []) (hn : l.length ≤ n) (k : Nat) : chunksOf (k + 2) n l = [l] := by
  cases l with
  | nil => exact absurd rfl h0
  | cons x xs => simp only [chunksOf, List.take_of_length_le hn, List.drop_of_length_le hn]

section
variable {s : State} {f : Flit} (hmine : s.mine (f.get 0 8 % 2 ^ 54) = true)
include hmine

theorem State.writeRecords_of_single (hlen : f.payload.length = 24) :
    let n := 2 ^ (f.get 0 8 / 2 ^ 54 % 8)
    s.writeRecords f = s.writePA (f.get 0 8 % 2 ^ 54) n (f.get 8 16 % 2 ^ (8 * n)) false := by
  simp [State.writeRecords, hlen, hmine, -Nat.reducePow]

theorem State.readRecords_of_single (hlen : f.payload.length = 8) :
    s.readRecords f = bytesOf 16 (s.readPA (f.get 0 8 % 2 ^ 54) (2 ^ (f.get 0 8 / 2 ^ 54 % 8))) := by
  simp [State.readRecords, hlen, hmine, -Nat.reducePow]

/-- The one record of an ATOMIC of an operation of R84. -/
theorem State.atomicRecords_of_single {op : AtomOp} (hlen : f.payload.length = 24) (hcas : f.get 16 8 % 32 ≠ casCode)
    (hop : AtomOp.of (f.get 16 8 % 32) = some op) :
    let pa := f.get 0 8 % 2 ^ 54
    let m := if f.get 16 8 / 32 % 4 = 1 then 8 else 4
    State.atomicRecords f 10 0 s =
      (s.writePA pa m (atomNew op m (s.readPA pa m) (f.get 8 8 % 2 ^ (8 * m))) (s.poisonedPA pa m), [s.readPA pa m]) := by
  simp [State.atomicRecords, State.atomicRecord, hlen, hcas, hop, hmine, -Nat.reducePow]

end

section
variable {s s1 : State} {port : Nat} {f : Flit} (hd : f.dst = s1.pkgId)
include hd

/-- A WRITE of one record stores its bytes and is acknowledged. -/
theorem exec_write_of_single (h : s.accepts port 1 f = some s1) (hlen : f.payload.length = 24) (hmine : s1.mine (f.get 0 8 % 2 ^ 54) = true) :
    let n := 2 ^ (f.get 0 8 / 2 ^ 54 % 8)
    exec (.write port f) s = .next ((s1.writePA (f.get 0 8 % 2 ^ 54) n (f.get 8 16 % 2 ^ (8 * n)) false).answer f 6 []) := by
  refine (congrArg Host.Outcome.next (State.arrive_here h hd _)).trans ?_
  rw [if_pos (State.allMine_of_single (by rw [hlen]) hmine), State.writeRecords_of_single hmine hlen]

/-- A READ of one address word is answered with the data. -/
theorem exec_read_of_single (h : s.accepts port 2 f = some s1) (hlen : f.payload.length = 8) (hmine : s1.mine (f.get 0 8 % 2 ^ 54) = true) :
    exec (.read port f) s = .next (s1.answer f 4 (bytesOf 16 (s1.readPA (f.get 0 8 % 2 ^ 54) (2 ^ (f.get 0 8 / 2 ^ 54 % 8))))) := by
  refine (congrArg Host.Outcome.next (State.arrive_here h hd _)).trans ?_
  rw [if_pos (State.allMine_of_single (by rw [hlen]) hmine), State.readRecords_of_single hmine hlen,
    chunksOf_of_short (List.ne_nil_of_length_pos (by simp)) (by simp)]
  rfl

/-- An ATOMIC of one record leaves what its operation gives and is answered with the old value. -/
theorem exec_atomic_of_single {op : AtomOp} (h : s.accepts port 3 f = some s1) (hlen : f.payload.length = 24)
    (hmine : s1.mine (f.get 0 8 % 2 ^ 54) = true) (hred : f.isRed = false) (hcas : f.get 16 8 % 32 ≠ casCode)
    (hop : AtomOp.of (f.get 16 8 % 32) = some op) :
    let pa := f.get 0 8 % 2 ^ 54
    let m := if f.get 16 8 / 32 % 4 = 1 then 8 else 4
    exec (.atomic port f) s = .next ((s1.writePA pa m (atomNew op m (s1.readPA pa m) (f.get 8 8 % 2 ^ (8 * m))) (s1.poisonedPA pa m)).answer f 5
      (bytesOf 8 (s1.readPA pa m))) := by
  refine (congrArg Host.Outcome.next (State.arrive_here h hd _)).trans ?_
  rw [State.allMine_of_single (by rw [hlen]) hmine, State.atomicRecords_of_single hmine hlen hcas hop, hred]
  simp only [Bool.not_true, Bool.false_eq_true, if_false, List.flatMap_singleton]

/-! ### Answers (R126, R128) -/

/-- An ACK ends the signal's update, whose message then goes out. -/
theorem exec_ack_of_signal {pkg part a : Nat} {x : Bool} {m : Option Nat} (h : s.accepts port 6 f = some s1)
    (hremote : s1.remoteAt f.id = some ⟨f.id, pkg, part, x, .signal a m⟩) :
    exec (.ack port f) s = .next { s1.closeRemote f.id with msix := s1.msix ++ m.toList } := by
  refine (congrArg Host.Outcome.next (State.arrive_here h hd _)).trans ?_
  simp only [State.ackCome, hremote]
  rfl

theorem exec_drainAck_of_drain {pkg part d : Nat} {x : Bool} (h : s.accepts port 10 f = some s1)
    (hremote : s1.remoteAt f.id = some ⟨f.id, pkg, part, x, .drain d⟩) : exec (.drainAck port f) s = .next (s1.closeRemote f.id) := by
  refine (congrArg Host.Outcome.next (State.arrive_here h hd _)).trans ?_
  simp only [State.ackCome, hremote]

/-- A DRAIN with no chunk of its source under way is answered at once. -/
theorem exec_drain_of_idle (h : s.accepts port 9 f = some s1) (hdrains : s1.drains = []) (hchunks : ∀ c ∈ s1.chunks, c.src ≠ f.src.toNat) :
    exec (.drain port f) s = .next (s1.emit 10 0 (mkFlit s1 1 f.src.toNat f.tag.toNat false (bytesOf 2 (f.get 0 2)))) := by
  refine (congrArg Host.Outcome.next (State.arrive_here h hd _)).trans ?_
  have hidle : (s1.chunks.any fun c => c.src == f.from_ && c.via.isNone) = false := by
    rw [List.any_eq_false]
    intro c hc
    have hsrc : c.src ≠ f.from_ := hchunks c hc
    simp [hsrc]
  have hsame : { s1 with drains := [] } = s1 := by rw [← hdrains]
  simp only [State.ackDrains, hdrains, List.nil_append, List.filter_singleton, hidle, Bool.not_false, cond_true, cond_false,
    List.foldl_cons, List.foldl_nil, hsame]
  rfl

end

/-! ### A value for the lane that waits for it (R126) -/

/-- Rows and entries have their places where the group keeps its team, its width and its divergence entries (R160, R278). -/
theorem State.fitAreas_setGroup {s : State} {n : Nat} {g g' : Group} (hg : s.group n = some g) (hrows : 128 ≤ s.rowLimit n g)
    (hplaces : g.spiltNow = g.spilt) (hs : (g'.team, g'.width, g'.stack, g'.spilt) = (g.team, g.width, g.stack, g.spilt)) (had : BitVec 64) :
    (s.setGroup n g').fitAreas n had = s.setGroup n g' := by
  have hplaces' : g'.spiltNow = g.spiltNow := Group.spiltNow_congr (congrArg Prod.snd hs)
  simp only [Prod.mk.injEq] at hs
  obtain ⟨hteam, hwidth, -, hspilt⟩ := hs
  have hfloor : s.floorOf g' = s.floorOf g := by simp only [State.floorOf, State.teamOf, hteam, hwidth]
  have hlimit : (s.setGroup n g').rowLimit n g' = s.rowLimit n g := by
    simp only [State.rowLimit, State.rowsOthers_setGroup hg hteam, State.floorOf_setGroup, hfloor]
  have hg' := s.group_setGroup_same n g'
  rw [State.fitAreas, State.fitRows_enough hg' (hlimit ▸ hrows), State.respill_same hg' (by rw [hplaces', hplaces, hspilt])]

theorem Mask.getLsbD_bit {k : Nat} (hk : k < 64) (l : Nat) : (Mask.bit l).getLsbD k = decide (l = k) := by
  rw [Mask.bit, BitVec.getLsbD_ofNat, Nat.testBit_two_pow, decide_eq_true hk, Bool.true_and]

/-- One lane is never all the lanes of a group. -/
theorem Group.all_ne_bit (g : Group) (l : Nat) : (Mask.bit l &&& g.all) ≠ g.all := by
  obtain ⟨hset0, hset1⟩ : g.all.getLsbD 0 = true ∧ g.all.getLsbD 1 = true := by
    unfold Group.all
    split
    · decide
    · split <;> decide
  intro hall
  have hbit : ∀ k, k < 64 → g.all.getLsbD k = true → l = k := fun k hk hset => by
    have := congrArg (·.getLsbD k) hall
    simpa only [BitVec.getLsbD_and, Mask.getLsbD_bit hk, hset, Bool.and_true, decide_eq_true_eq] using this
  have h0 := hbit 0 (by decide) hset0
  have h1 := hbit 1 (by decide) hset1
  omega

/-- The registers of a group without recipes carry none. -/
theorem Group.plain_recipe {g : Group} (h : g.plain = true) : ∀ r, r < 64 → (g.vreg r).recipe = none := by
  intro r hr
  have hboth := List.all_eq_true.mp h r (List.mem_range.mpr hr)
  simp only [Bool.and_eq_true, Option.isNone_iff_eq_none] at hboth
  obtain ⟨hnone, -⟩ := hboth
  exact hnone

/-- The one answer that has come, in the order of lanes. -/
theorem filterMap_range_find_single {x : Got} (n : Nat) :
    (List.range n).filterMap (fun i => [x].find? fun y => y.1 == i) = if x.1 < n then [x] else [] := by
  induction n with
  | zero => rfl
  | succ n ih =>
    rw [List.range_succ, List.filterMap_append, ih]
    obtain hlt | heq | hgt := Nat.lt_trichotomy x.1 n
    · simp [hlt, Nat.lt_succ_of_lt hlt, hlt.ne]
    · simp [heq]
    · simp [Nat.not_lt.mpr hgt.le, Nat.not_lt.mpr (Nat.succ_le_of_lt hgt), hgt.ne']

theorem Mask.bit_ne_zero {l : Nat} (hl : l < 64) : Mask.bit l ≠ 0 := fun e => by
  have := Mask.getLsbD_bit hl l
  simp [e] at this

/-- The last answer, for the one lane of an instruction that waits, completes it: the register is written, and the group waits for nothing. -/
theorem State.remoteDone_of_single {s : State} {n l : Nat} {g g0 : Group} {r : RemoteWait} {x : BitVec 128 × Marks} (hg : s.group n = some g0)
    (hrows : 128 ≤ s.rowLimit n g0) (hplaces : g0.spiltNow = g0.spilt)
    (hs : (g.team, g.width, g.stack, g.spilt) = (g0.team, g0.width, g0.stack, g0.spilt)) (hplain : g.plain = true) (hwaits : g.remote = [r])
    (hl : l < 64) (hmask : r.mask = Mask.bit l) (hgot : r.got = [(l, x)]) :
    s.remoteDone n g r =
      s.setGroup n (Group.applyAll { g with remote := [] } (Mask.bit l) false (Sys2Proof.Machine.deliver r.instr g.w [(l, x)])) := by
  have hnone : (Mask.bit l == 0) = false := beq_eq_false_iff_ne.mpr (Mask.bit_ne_zero hl)
  have hfull : (Mask.bit l &&& g.all == g.all) = false := beq_eq_false_iff_ne.mpr (g.all_ne_bit l)
  have hleft : g.remote.filter (fun y => y != r) = [] := by simp [hwaits]
  have hregs := State.writeRegs_plain (State.group_setGroup_same s n { g with remote := [] }) (Group.plain_recipe hplain) (Mask.bit l) false
    (Sys2Proof.Machine.deliver r.instr g.w [(l, x)])
  simp only [State.remoteDone, hmask, hnone, hfull, hleft, hgot, filterMap_range_find_single, hl, hregs, if_true, Bool.false_eq_true, if_false,
    State.setGroup_setGroup]
  exact State.fitAreas_setGroup hg hrows hplaces ((Group.applyAll_same { g with remote := [] } ..).trans hs) _

/-- The low word of an answer without marks. -/
theorem answerAt_low (v : Nat) : answerAt (BitVec.ofNat 128 v, 0) 0 = (BitVec.ofNat 32 v, false) := by
  have hlow : v % 2 ^ 128 % 2 ^ 32 = v % 2 ^ 32 := Nat.mod_mod_of_dvd v (pow_dvd_pow 2 (by decide))
  have hword : answerWord (BitVec.ofNat 128 v).toNat 0 = BitVec.ofNat 32 v :=
    BitVec.eq_of_toNat_eq (by simpa only [answerWord, BitVec.toNat_ofNat, Nat.mul_zero, Nat.pow_zero, Nat.div_one] using hlow)
  simp only [answerAt, hword]
  rfl

/-- The group that an answer of width 32 to its one waiting lane leaves. -/
def Group.answered (g : Group) (i : Instr) (l v now : Nat) : Group :=
  Group.applyAll { g with remote := [], l1Since := now } (Mask.bit l) false (Sys2Proof.Machine.deliver i g.w [(l, BitVec.ofNat 128 v, 0)])

section
variable {s : State} {k l tag : Nat} {g : Group} {i : Instr} {vt : BitVec 6} (h : s.awaits k l tag g i vt) (v : Nat)
include h

/-- A value that the one lane waits for completes the instruction. -/
theorem State.valuesCome_of_awaits : s.valuesCome tag [v] = (s.closeRemote tag).setGroup k (g.answered i l v s.ticks) := by
  obtain ⟨pkg, part, w, pc, accs, acq, seq, hremote, hg, hplain, hwidth, hrows, hplaces, hwaits, hl, -, -⟩ := h
  have hl64 : l < 64 := by have := Group.width_le hwidth; omega
  have hcome : s.valuesCome tag [v] = (s.closeRemote tag).laneAnswer k tag [(l, BitVec.ofNat 128 v, 0)] := by
    simp [State.valuesCome, hremote]
  have hg' : (s.closeRemote tag).group k = some g := hg
  have hlast : (s.closeRemote tag).laneAnswer k tag [(l, BitVec.ofNat 128 v, 0)] = (s.closeRemote tag).remoteDone k
      { g with remote := [⟨i, Mask.bit l, [], [(l, BitVec.ofNat 128 v, 0)], pc, accs, acq, seq⟩], l1Since := s.ticks }
      ⟨i, Mask.bit l, [], [(l, BitVec.ofNat 128 v, 0)], pc, accs, acq, seq⟩ := by
    simp [State.laneAnswer, hg', hwaits, delNat]
    rfl
  exact hcome.trans (hlast.trans (State.remoteDone_of_single hg' hrows hplaces rfl hplain rfl hl64 rfl rfl))

/-- The register then has the low 32 bits of the value in that lane, and the group waits for nothing. -/
theorem Group.answered_spec (now : Nat) : (g.answered i l v now).remote = [] ∧ (g.answered i l v now).rdp vt.toNat l = (BitVec.ofNat 32 v, false) := by
  obtain ⟨pkg, part, w, pc, accs, acq, seq, -, -, -, hwidth, -, -, -, hl, hu, hdest⟩ := h
  have hunder : Group.Under { g with remote := [], l1Since := now } (Mask.bit l) false := ⟨hwidth, nofun⟩
  have hl64 : l < 64 := by have := Group.width_le hwidth; omega
  have hwrites : Sys2Proof.Machine.deliver i g.w [(l, BitVec.ofNat 128 v, 0)] = gotWrites i.hdr g.w vt 1 [(l, BitVec.ofNat 128 v, 0)] := by
    simp only [Sys2Proof.Machine.deliver, hdest]
  rw [Group.answered, hwrites]
  constructor
  · obtain ⟨honly, -⟩ := Group.sameBut_gotWrites hunder i.hdr (vt := vt) (n := 1) vt.isLt g.w [(l, BitVec.ofNat 128 v, 0)]
    exact congrArg Group.remote honly
  · have hactive : (Mask.bit l).getLsbD l = true := by simp [Mask.getLsbD_bit hl64]
    have hown : if i.hdr.u then ∃ y, [(l, BitVec.ofNat 128 v, (0 : Marks))] = [y] ∧ y.2 = (BitVec.ofNat 128 v, 0)
        else gotOf [(l, BitVec.ofNat 128 v, 0)] l = (BitVec.ofNat 128 v, 0) := by simp [hu, gotOf]
    exact (Group.rdp_gotWrites hunder (k := 0) Nat.one_pos hl hactive hown).trans (answerAt_low v)

/-- An answer that the lane waits for gives the register its low 32 bits, and the request is outstanding no longer. -/
theorem State.valuesCome_spec : ∃ g', (s.valuesCome tag [v]).group k = some g' ∧ g'.remote = [] ∧ g'.rdp vt.toNat l = (BitVec.ofNat 32 v, false) ∧
    (s.valuesCome tag [v]).remoteAt tag = none := by
  rw [State.valuesCome_of_awaits h]
  obtain ⟨hwaits, hread⟩ := Group.answered_spec h v s.ticks
  exact ⟨_, State.group_setGroup_same .., hwaits, hread, by simp [State.remoteAt, State.closeRemote]⟩

end

section
variable {s s1 : State} {port k l : Nat} {f : Flit} {g : Group} {i : Instr} {vt : BitVec 6} (hd : f.dst = s1.pkgId)
include hd

/-- A READ_RESP of one record gives the lane that waits for it the data. -/
theorem exec_readResp_of_awaits (h : s.accepts port 4 f = some s1) (hlen : f.payload.length = 16) (hwaits : s1.awaits k l f.id g i vt) :
    ∃ t g', exec (.readResp port f) s = .next t ∧ t.group k = some g' ∧ g'.remote = [] ∧ g'.rdp vt.toNat l = (BitVec.ofNat 32 (f.get 0 16), false) ∧
      t.remoteAt f.id = none := by
  obtain ⟨g', hspec⟩ := State.valuesCome_spec hwaits (f.get 0 16)
  refine ⟨_, g', (congrArg Host.Outcome.next (State.arrive_here h hd _)).trans ?_, hspec⟩
  rw [hlen]
  rfl

/-- An ATOMIC_RESP of one old value gives it to the lane that waits for it. -/
theorem exec_atomicResp_of_awaits (h : s.accepts port 5 f = some s1) (hlen : f.payload.length = 8) (hwaits : s1.awaits k l f.id g i vt) :
    ∃ t g', exec (.atomicResp port f) s = .next t ∧ t.group k = some g' ∧ g'.remote = [] ∧ g'.rdp vt.toNat l = (BitVec.ofNat 32 (f.get 0 8), false) ∧
      t.remoteAt f.id = none := by
  obtain ⟨g', hspec⟩ := State.valuesCome_spec hwaits (f.get 0 8)
  refine ⟨_, g', (congrArg Host.Outcome.next (State.arrive_here h hd _)).trans ?_, hspec⟩
  rw [hlen]
  rfl

end

/-! ### Chunks (R130) -/

/-- Where no drain waits none is answered. -/
theorem State.ackDrains_of_none {s : State} (h : s.drains = []) : s.ackDrains = s := by
  have hsame : { s with drains := [] } = s := by rw [← h]
  simp only [State.ackDrains, h, List.filter_nil, List.foldl_nil, hsame]

theorem State.mem_emit (s : State) {type : Nat} (h : type ≠ 7) (pa : Nat) (f : Flit) : (s.emit type pa f).mem = s.mem := by
  rw [s.emit_ports pa f h]

theorem mem_foldl_of_same {α : Type} {f : State → α → State} (h : ∀ s a, (f s a).mem = s.mem) (l : List α) (s : State) : (l.foldl f s).mem = s.mem := by
  induction l generalizing s with
  | nil => rfl
  | cons a l ih => exact (ih _).trans (h s a)

/-- Answering drains leaves memory. -/
theorem State.mem_ackDrains (s : State) : s.ackDrains.mem = s.mem := mem_foldl_of_same (fun s _ => s.mem_emit (by decide) 0 _) ..

/-- The local addresses of a range of this package follow one another. -/
theorem State.paLocal_add {s : State} {pa n : Nat} (h : ∀ k, k < n → s.mine (pa + k) = true) {k : Nat} (hk : k < n) :
    paLocal (pa + k) = paLocal pa + k := by
  have hpkg : ∀ j, j < n → (pa + j) / 2 ^ 45 % 512 = s.pkgId.toNat := fun j hj => by
    have hboth := h j hj
    simp only [State.mine, State.isLocal, paPkg, Bool.and_eq_true, beq_iff_eq] at hboth
    obtain ⟨hlocal, -⟩ := hboth
    exact hlocal
  induction k with
  | zero => rfl
  | succ k ih =>
    have hlast := ih (by omega)
    have hhere := hpkg k (by omega)
    have hnext := hpkg (k + 1) hk
    simp only [paLocal] at hlast ⊢
    omega

/-- The bytes of a chunk stored, each with the mark of clean data (R142). -/
def State.stored (s : State) (pa : Nat) (l : List Byte) : State :=
  { s with mem := Mem.writeBytes s.mem (paLocal pa) l, memPoison := poisonAfter s.memPoison (paLocal pa) l.length false }

/-- An uncompressed chunk whose first and last bytes lie here is stored and acknowledged. -/
theorem State.chunkStore_of_clear {s : State} {c : ChunkIn} (hw : c.w = false) (hfirst : s.mine c.pa = true)
    (hlast : s.mine (c.pa + c.got.length - 1) = true) (f : Flit) : s.chunkStore f c = (s.stored c.pa c.got).answer f 6 [] := by
  have hbytes : c.bytes = some c.got := by simp [ChunkIn.bytes, hw]
  simp only [State.chunkStore, hbytes, hfirst, hlast, Bool.and_self, if_true]
  rfl

theorem State.mine_setChunk (s : State) (c : ChunkIn) (done : Bool) (pa : Nat) : (s.setChunk c done).mine pa = s.mine pa := rfl

section
variable {s : State} {f : Flit} (hopen : s.openChunk f = none)
include hopen

theorem State.chunkWith_of_fresh (via : Option Nat) :
    s.chunkWith f via = ⟨f.from_, f.id, via, f.get 0 8, f.get 8 2, f.get 10 2, f.w, false, f.payload.drop 16⟩ := by
  simp only [State.chunkWith, hopen]

/-- A chunk that one flit holds whole, and that this package has not asked for, is stored. -/
theorem State.bulkCome_of_whole (hremote : s.remoteAt f.id = none) (hn : f.get 10 2 ≠ 0) (hwhole : f.get 10 2 ≤ (f.payload.drop 16).length) :
    s.bulkCome f = ((s.setChunk (s.chunkWith f none) true).chunkStore f (s.chunkWith f none)).ackDrains := by
  have hgot : ¬(s.chunkWith f none).got.length < (s.chunkWith f none).stream := by
    rw [State.chunkWith_of_fresh hopen]
    exact Nat.not_lt.mpr hwhole
  unfold State.bulkCome
  split
  · next hasked => exact absurd hasked hn
  · rw [if_neg hgot, hremote]
    rfl

variable (hremote : s.remoteAt f.id = none) (hw : f.w = false) (hn : f.get 10 2 ≠ 0) (hlen : f.payload.length = 16 + f.get 10 2)
  (hmine : ∀ k, k < f.get 10 2 → s.mine (f.get 0 8 + k) = true)
include hremote hw hn hlen hmine

/-- An uncompressed chunk of one flit is stored and acknowledged. -/
theorem State.bulkCome_of_single : s.bulkCome f =
    (((s.setChunk (s.chunkWith f none) true).stored (f.get 0 8) (f.payload.drop 16)).answer f 6 []).ackDrains := by
  have hpos := Nat.pos_of_ne_zero hn
  have hgot : (f.payload.drop 16).length = f.get 10 2 := by rw [List.length_drop, hlen, Nat.add_sub_cancel_left]
  have hfirst : s.mine (f.get 0 8) = true := hmine 0 hpos
  have hlast : s.mine (f.get 0 8 + (f.payload.drop 16).length - 1) = true := by
    rw [hgot, Nat.add_sub_assoc hpos]
    exact hmine _ (Nat.sub_lt hpos Nat.one_pos)
  rw [State.bulkCome_of_whole hopen hremote hn hgot.ge, State.chunkWith_of_fresh hopen]
  refine congrArg State.ackDrains (State.chunkStore_of_clear hw ?_ ?_ f)
  · rw [State.mine_setChunk]
    exact hfirst
  · rw [State.mine_setChunk]
    exact hlast

/-- Every byte of the chunk then stands at its address. -/
theorem State.bulkCome_bytes (hinv : s.Inv) {k : Nat} (hk : k < f.get 10 2) :
    (s.bulkCome f).mem.get (paLocal (f.get 0 8 + k)) = f.payload.getD (16 + k) 0 := by
  have hmem : (s.bulkCome f).mem = Mem.writeBytes s.mem (paLocal (f.get 0 8)) (f.payload.drop 16) := by
    rw [State.bulkCome_of_single hopen hremote hw hn hlen hmine, State.mem_ackDrains]
    exact State.mem_emit _ (by decide) 0 _
  have hin : paLocal (f.get 0 8) ≤ paLocal (f.get 0 8) + k ∧ paLocal (f.get 0 8) + k < paLocal (f.get 0 8) + (f.payload.drop 16).length := by
    rw [List.length_drop]
    omega
  rw [hmem, State.paLocal_add hmine hk, Mem.get_writeBytes hinv, if_pos hin, Nat.add_sub_cancel_left]
  simp [List.getD_eq_getElem?_getD]

/-- The acknowledgement goes to the port of the source's entry. -/
theorem State.bulkCome_sendq {q : Nat} (hdrains : s.drains = []) (hstands : s.routeStalled f.src.toNat = false) (hheld : s.held = [])
    (hroute : s.routePort f.src.toNat = some q) :
    ((s.bulkCome f).port q).sendq = (s.port q).sendq ++ [⟨6, mkFlit s 1 f.src.toNat f.tag.toNat false [], 0, false⟩] := by
  have hnone : (((s.setChunk (s.chunkWith f none) true).stored (f.get 0 8) (f.payload.drop 16)).answer f 6 []).drains = [] := by
    rw [State.answer_ports _ f [] (by decide)]
    exact hdrains
  have hto : (BitVec.ofNat 9 f.src.toNat).toNat = f.src.toNat := by rw [BitVec.ofNat_toNat, BitVec.setWidth_eq]
  rw [State.bulkCome_of_single hopen hremote hw hn hlen hmine, State.ackDrains_of_none hnone, State.answer, State.emit_of_route (q := q) (by decide)]
  · exact congrArg Port.sendq (State.port_setPort_same ..)
  · exact hto ▸ hstands
  · intro h hh
    exact absurd (hheld ▸ hh : h ∈ []) List.not_mem_nil
  · exact hto ▸ hroute

end

/-- Settles O53, by what a flit's arrival does in the case that each clause names. -/
theorem flitsTakeEffect : Obligations.FlitsTakeEffect := by
  unfold Obligations.FlitsTakeEffect
  refine ⟨fun s port f => ?ports, fun s s1 port f => ⟨?idle, ?nak, ?forwarded, ?sent, fun hd => ⟨?write, ?read, ?atomic, ?readResp, ?atomicResp, ?ack,
    ?drainAck, ?drain, ?bulk⟩⟩⟩
  case ports =>
    intro p hport hup htrained
    refine ⟨fun type hok hseq h0 h8 hfits => ?_, fun x hx hnone => ?_⟩
    · refine ⟨_, State.accepts_of_next hport hup htrained hok hseq h0 h8 hfits, ?_⟩
      rw [State.port_setPort_same]
      exact ⟨rfl, rfl, rfl, rfl⟩
    · obtain ⟨here, hexec⟩ := exec_eq_arrive s port f x hx
      rw [hexec, State.arrive_dropped hnone, State.drops_of_up hport hup htrained]
      rfl
  case idle => exact fun h => congrArg Host.Outcome.next (State.arrive_control h (.inl rfl) _)
  case nak => exact fun h => congrArg Host.Outcome.next (State.arrive_control h (.inr rfl) _)
  case forwarded =>
    exact fun h hd hhops hvalid => congrArg Host.Outcome.next
      ((State.arrive_forwarded h hd (by decide) (by decide) _).trans (State.forward_of_route hhops hvalid))
  case sent =>
    exact fun type pa h7 => ⟨fun hstalled => State.emit_of_stalled hstalled type pa,
      fun q hstands hheld hroute => State.emit_of_route h7 hstands hheld hroute pa⟩
  case write => exact fun h hlen hmine => exec_write_of_single hd h hlen hmine
  case read => exact fun h hlen hmine => exec_read_of_single hd h hlen hmine
  case atomic => exact fun op h hlen hmine hred hcas hop => exec_atomic_of_single hd h hlen hmine hred hcas hop
  case readResp => exact fun k l g i vt h hlen hwaits => exec_readResp_of_awaits hd h hlen hwaits
  case atomicResp => exact fun k l g i vt h hlen hwaits => exec_atomicResp_of_awaits hd h hlen hwaits
  case ack => exact fun pkg part x a m h hremote => exec_ack_of_signal hd h hremote
  case drainAck => exact fun pkg part d x h hremote => exec_drainAck_of_drain hd h hremote
  case drain => exact fun h hdrains hchunks => exec_drain_of_idle hd h hdrains hchunks
  case bulk =>
    exact fun h hopen hremote hw hn hlen hinv hmine => ⟨_, congrArg Host.Outcome.next (State.arrive_here h hd _), State.bulkCome_inv hinv,
      fun k hk => State.bulkCome_bytes hopen hremote hw hn hlen hmine hinv hk,
      fun q hdrains hstands hheld hroute => State.bulkCome_sendq hopen hremote hw hn hlen hmine hdrains hstands hheld hroute⟩

end Sys2Proof.Machine
end

section
/-! SUPPORT. Issue where no slice is recorded and no capsule runs, the lanes that a set of registers names, and materialization (R147, R157, R158). -/

namespace Sys2Proof.Machine

/-! ### Settled contexts -/

/-- A quiet context is settled. -/
theorem Ctx.settled_of_quiet {c : Ctx} {i : Instr} (hq : c.Quiet i) : c.settled := by
  obtain ⟨-, hplain, hroomy⟩ := hq
  simp only [Ctx.plain, Bool.and_eq_true, Option.isNone_iff_eq_none] at hplain
  obtain ⟨⟨⟨-, hslice⟩, hcapsule⟩, -⟩ := hplain
  exact ⟨hslice, hcapsule, hroomy⟩

/-- Where no slice is recorded and no capsule runs, an effect is followed only by the moving of rows and stack entries (R160, R278). -/
theorem issue_ok_of_settled {c : Ctx} {i : Instr} (h : c.Issues i) (hs : c.settled) {body : Ctx → Res} {t : State} (hbody : body c = .ok t) :
    issue i c.s body = .next (t.fitAreas c.n c.g.inRows) := by
  obtain ⟨hslice, hcapsule, -⟩ := hs
  rw [issue_body h, hbody]
  simp only [Ctx.huskStep, Ctx.sliceStep, hcapsule, hslice]

theorem Ctx.live_of_quiet {c : Ctx} {i : Instr} (hq : c.Quiet i) : c.Live := hq.1.1

theorem issue_ok_of_quiet {c : Ctx} {i : Instr} (hq : c.Quiet i) {body : Ctx → Res} {t : State} (hbody : body c = .ok t) :
    issue i c.s body = .next (t.fitAreas c.n c.g.inRows) := issue_ok_of_settled hq.1 (Ctx.settled_of_quiet hq) hbody

/-- An effect that leaves the group with its rows and entries, and other groups, teams and launches as they are, is the whole step. -/
theorem issue_setGroup_of_sameRun {c : Ctx} {i : Instr} (h : c.Issues i) (hs : c.settled) {body : Ctx → Res} {t : State} {g : Group}
    (hrun : c.s.SameRun t) (hkeep : (g.team, g.width, g.stack, g.spilt) = (c.g.team, c.g.width, c.g.stack, c.g.spilt))
    (hbody : body c = .ok (t.setGroup c.n g)) : issue i c.s body = .next (t.setGroup c.n g) := by
  obtain ⟨-, -, hroomy⟩ := id hs
  rw [issue_ok_of_settled h hs hbody, Ctx.fitAreas_setGroup h.1 hroomy hrun hkeep]

/-- An effect that changes the group's registers and counts and takes the path on is the whole step. -/
theorem issue_after_of_settled {c : Ctx} {i : Instr} (h : c.Issues i) (hs : c.settled) {body : Ctx → Res} {g : Group}
    (hkeep : (g.team, g.width, g.stack, g.spilt) = (c.g.team, c.g.width, c.g.stack, c.g.spilt))
    (hbody : body c = .ok (c.after i g)) : issue i c.s body = .next (c.after i g) := by
  unfold Ctx.after at hbody ⊢
  rw [Ctx.advance_setGroup] at hbody ⊢
  refine issue_setGroup_of_sameRun h hs (.refl c.s) ?_ hbody
  cases c.slot <;> exact hkeep

theorem Ctx.setG_live {c : Ctx} (hl : c.Live) (f : Group → Group) : c.setG c.s f = c.s.setGroup c.n (f c.g) := by
  obtain ⟨-, hgroup, -⟩ := hl
  simp only [Ctx.setG, hgroup]

/-- An effect that changes the group within its rows and entries and takes the path on is the whole step. -/
theorem issue_setG_of_settled {c : Ctx} {i : Instr} (h : c.Issues i) (hs : c.settled) {body : Ctx → Res} (f : Group → Group)
    (hkeep : ((f c.g).team, (f c.g).width, (f c.g).stack, (f c.g).spilt) = (c.g.team, c.g.width, c.g.stack, c.g.spilt))
    (hbody : body c = c.done i (c.setG c.s f)) : issue i c.s body = .next (c.after i (f c.g)) :=
  issue_after_of_settled h hs hkeep (by rw [hbody, Ctx.setG_live h.1]; rfl)

/-! ### Sets of registers -/

theorem mem_vList_iff {v : BitVec 64} {r : Nat} : r ∈ vList v ↔ v.getLsbD r = true := by
  simp only [vList, List.mem_filter, List.mem_range, and_iff_right_iff_imp]
  exact BitVec.lt_of_getLsbD

theorem vList_nodup (v : BitVec 64) : (vList v).Nodup := List.nodup_range.filter _

/-- A mask that is not empty has a lane. -/
theorem Mask.lanes_ne_nil {m : Mask} (h : m ≠ 0) : m.lanes ≠ [] := fun hnil => h <| BitVec.eq_of_getLsbD_eq fun l hl => by
  have hl' : l ∉ m.lanes := by simp [hnil]
  simpa [Mask.mem_lanes, hl] using hl'

/-- A lane of masks joined one after another is a lane of one of them. -/
theorem getLsbD_foldl_or {α : Type} (f : α → Mask) (l : List α) (m : Mask) (k : Nat) :
    (l.foldl (fun m x => m ||| f x) m).getLsbD k = (m.getLsbD k || l.any fun x => (f x).getLsbD k) := by
  induction l generalizing m with
  | nil => simp
  | cons x xs ih => rw [List.foldl_cons, ih, BitVec.getLsbD_or, List.any_cons, Bool.or_assoc]

/-! ### Registers that are not folded -/

/-- Materialization leaves a register that is not folded. -/
theorem State.materialize_of_ne_folded {s : State} {g : Group} {r : Nat} (h : (g.vreg r).hold ≠ .folded) : s.materialize g r = .ok s g := by
  unfold State.materialize
  rw [if_pos (bne_iff_ne.mpr h)]

theorem State.materializeAll_of_ne_folded {s : State} {g : Group} {l : List Nat} (h : ∀ r ∈ l, (g.vreg r).hold ≠ .folded) :
    s.materializeAll g l = .ok s g := by
  induction l with
  | nil => rfl
  | cons r rs ih =>
    unfold State.materializeAll
    rw [State.materialize_of_ne_folded (h r (by simp))]
    exact ih fun x hx => h x (by simp [hx])

/-- In a plain context no register is folded. -/
theorem Ctx.plain_hold {c : Ctx} (h : c.plain = true) {r : Nat} (hr : r < 64) : (c.g.vreg r).hold ≠ .folded := by
  simp only [Ctx.plain, Bool.and_eq_true] at h
  obtain ⟨⟨⟨⟨hregs, -⟩, -⟩, -⟩, -⟩ := h
  have := List.all_eq_true.mp hregs r (List.mem_range.mpr hr)
  simp only [Bool.and_eq_true, bne_iff_ne] at this
  exact this.2

/-! ### Fetches and checks -/

/-- A fetch that gives a word leaves groups, teams and launches: it translates, and fills the instruction cache. -/
theorem State.sameRun_fetchWord {s s1 : State} {g : Group} {va : Nat} {w : Word} (h : s.fetchWord g va = .ok w s1) : s.SameRun s1 := by
  have htranslate := s.sameRun_translate (s.coreOf g) (s.asidOf g) va false
  unfold State.fetchWord at h
  dsimp only at h
  split at h
  case h_1 pa pte big s2 hfetched =>
    rw [hfetched] at htranslate
    have hcached (w : Word) : s.SameRun (s2.cache (s.coreOf g) (s.asidOf g) va w) := htranslate.trans ⟨rfl, rfl, rfl⟩
    repeat' split at h
    all_goals cases h
    · exact htranslate
    · exact hcached _
    · exact htranslate
    · exact htranslate
    · exact hcached _
  all_goals cases h

theorem Chk.bind_eq_ok {α β : Type} {x : Chk α} {f : α → State → Chk β} {b : β} {s : State} :
    x.bind f = .ok b s ↔ ∃ a s1, x = .ok a s1 ∧ f a s1 = .ok b s := by
  cases x <;> simp [Chk.bind]

/-- A check made for each item leaves what each of them leaves. -/
theorem Chk.each_sameRun {α β : Type} {f : α → State → Chk β} (hf : ∀ (a : α) (s : State) (b : β) (s1 : State), f a s = .ok b s1 → s.SameRun s1)
    {l : List α} {s s1 : State} {bs : List β}
    (h : Chk.each f l s = .ok bs s1) : s.SameRun s1 := by
  induction l generalizing s bs with
  | nil => cases h; exact .refl _
  | cons a rest ih =>
    obtain ⟨b, s2, hb, h⟩ := Chk.bind_eq_ok.mp h
    obtain ⟨bs', s3, hrest, h⟩ := Chk.bind_eq_ok.mp h
    cases h
    exact (hf _ _ _ _ hb).trans (ih hrest)

end Sys2Proof.Machine
end

section
/-! Settles O27: MKRCP begins to record (R150, R183, R305). -/

namespace Sys2Proof.Machine

/-- The issuing path's group with another record of its loop: what filling the loop's buffer leaves of it (R305). -/
def Ctx.withLoop (c : Ctx) (l : Option LoopRec) : Group := c.g.setSlot c.slot (some { c.path with loop := l })

/-- Of groups, teams and launches nothing differs from the issuing state but the record of the path's loop, and a path in no loop stays in none. -/
def Ctx.Fetched (c : Ctx) (l : Option LoopRec) (s : State) : Prop :=
  (c.s.setGroup c.n (c.withLoop l)).SameRun s ∧ (c.path.loop = none → l = none)

theorem Group.setSlot_self {g : Group} {k : SlotId} {p : Path} (h : g.slot k = some p) : g.setSlot k (some p) = g := by
  cases k <;> exact h ▸ rfl

theorem Ctx.fetched_self {c : Ctx} (hl : c.Live) : c.Fetched c.path.loop c.s := by
  obtain ⟨-, hgroup, hpath⟩ := hl
  have hself : c.withLoop c.path.loop = c.g := Group.setSlot_self hpath
  rw [Ctx.Fetched, hself, State.setGroup_of_group hgroup]
  exact ⟨.refl c.s, id⟩

theorem Ctx.Fetched.group {c : Ctx} {l : Option LoopRec} {s : State} (h : c.Fetched l s) : s.group c.n = some (c.withLoop l) := by
  obtain ⟨hrun, -⟩ := h
  rw [hrun.group, State.group_setGroup_same]

/-- The buffer of a loop takes a word of its body, and nothing else changes (R305). -/
theorem Ctx.Fetched.buffer {c : Ctx} {l : Option LoopRec} {s : State} (h : c.Fetched l s) (va : Nat) (w : Word) : ∃ l', c.Fetched l' (c.buffer va w s) := by
  unfold Ctx.buffer
  split
  · exact ⟨l, h⟩
  split
  · have hgroup := h.group
    obtain ⟨hrun, hnone⟩ := h
    refine ⟨l.map fun (l : LoopRec) => { l with buf := l.buf ++ [(va, w)] }, ?_, fun hloop => by rw [hnone hloop]; rfl⟩
    have hfilled := hrun.setGroup c.n (c.withLoop (l.map fun (l : LoopRec) => { l with buf := l.buf ++ [(va, w)] }))
    rw [State.setGroup_setGroup] at hfilled
    simpa only [Ctx.setPath, hgroup, Ctx.withLoop, Group.slot_setSlot_same, Option.map_some, Group.setSlot_setSlot] using hfilled
  · exact ⟨l, h⟩

theorem Ctx.Fetched.fetchWord {c : Ctx} {l : Option LoopRec} {s s1 : State} (h : c.Fetched l s) {va : Nat} {w : Word}
    (hword : c.fetchWord s va = .ok w s1) : ∃ l', c.Fetched l' s1 := by
  unfold Ctx.fetchWord at hword
  split at hword
  · cases hword
    exact ⟨l, h⟩
  split at hword
  case h_1 w' s2 hfetched =>
    cases hword
    exact Ctx.Fetched.buffer ⟨h.1.trans (State.sameRun_fetchWord hfetched), h.2⟩ va w
  case h_2 hfails => exact absurd hword (hfails w s1)

theorem Ctx.Fetched.fetchWords {c : Ctx} {n va : Nat} {l : Option LoopRec} {s s1 : State} {ws : List Word} (h : c.Fetched l s)
    (hwords : c.fetchWords n va s = .ok ws s1) : ∃ l', c.Fetched l' s1 := by
  induction n generalizing va s l ws with
  | zero => cases hwords; exact ⟨l, h⟩
  | succ n ih =>
    unfold Ctx.fetchWords at hwords
    split at hwords
    case h_1 => cases hwords
    case h_2 => cases hwords
    case h_3 w s2 hword =>
      obtain ⟨l₂, h₂⟩ := h.fetchWord hword
      split at hwords
      case h_1 ws' s3 hrest =>
        cases hwords
        exact ih h₂ hrest
      case h_2 hfails => exact absurd hwords (hfails ws s1)

/-- What MKRCP does where its group is. -/
def Ctx.makeRecipe (h : Hdr) (vd : BitVec 6) (n : BitVec 3) (c : Ctx) : Res :=
  let bad : Trap := ⟨Cause.recipeBody, c.pc.toNat⟩
  if !sliceInSection (c.s.sectsOf c.g) (c.pc.toNat + 4) (n.toNat + 1) || slicePastLoop c.path.loop (c.pc.toNat + 4) (n.toNat + 1) then
    .trapAt bad (c.pc + 4) c.s
  else match c.fetchWords (n.toNat + 1) (c.pc.toNat + 4) c.s with
    | .noExec s1 => .trapAt bad (c.pc + 4) s1
    | .wait w s1 => c.pend (.mkrcp h vd n) s1 w .again
    | .ok ws s1 =>
      if !sliceEnds (c.s.sectsOf c.g) (c.pc.toNat + 4) ws vd then .trapAt bad (c.pc + 4) s1
      else .ok (c.setPath (c.advance (.mkrcp h vd n) s1) fun p => { p with slice := some ⟨c.pc, c.pc + 4, ws, vd, c.act, Pins.none, Pins.none, true⟩ })

theorem exec_mkrcp (h : Hdr) (vd : BitVec 6) (n : BitVec 3) (s : State) :
    exec (.mkrcp h vd n) s = issue (.mkrcp h vd n) s (Ctx.makeRecipe h vd n) := rfl

/-- Where the slice's checks pass, the path goes on and its slice is recorded. -/
theorem Ctx.makeRecipe_ok {c : Ctx} {h : Hdr} {vd : BitVec 6} {n : BitVec 3} {ws : List Word} {s1 : State}
    (hsection : sliceInSection (c.s.sectsOf c.g) (c.pc.toNat + 4) (n.toNat + 1) = true)
    (hpast : slicePastLoop c.path.loop (c.pc.toNat + 4) (n.toNat + 1) = false)
    (hwords : c.fetchWords (n.toNat + 1) (c.pc.toNat + 4) c.s = .ok ws s1)
    (hends : sliceEnds (c.s.sectsOf c.g) (c.pc.toNat + 4) ws vd = true) :
    c.makeRecipe h vd n = .ok (c.setPath (c.advance (.mkrcp h vd n) s1) fun p =>
      { p with slice := some ⟨c.pc, c.pc + 4, ws, vd, c.act, Pins.none, Pins.none, true⟩ }) := by
  simp only [Ctx.makeRecipe, hsection, hpast, hwords, hends, Bool.not_true, Bool.or_self, Bool.false_eq_true, if_false]

/-- The path goes on and records a slice. -/
theorem Ctx.Fetched.record {c : Ctx} {l : Option LoopRec} {s : State} (h : c.Fetched l s) (i : Instr) (r : SliceRun) :
    (c.setPath (c.advance i s) fun p => { p with slice := some r }) =
      s.setGroup c.n (c.g.setSlot c.slot (some { c.path with loop := l, pc := c.pc + BitVec.ofNat 64 (4 * i.words), slice := some r })) := by
  simp only [Ctx.advance, Ctx.setPath, h.group, Ctx.withLoop, State.group_setGroup_same, State.setGroup_setGroup, Group.slot_setSlot_same,
    Option.map_some, Group.setSlot_setSlot]

/-- Settles O27: the words are fetched, and the slice is recorded from the first of them on. -/
theorem recipeBegins : Obligations.RecipeBegins := by
  intro c h vd n ws s1 i first len hq hsection hpast hwords hends
  obtain ⟨l, hfetched⟩ := (Ctx.fetched_self (Ctx.live_of_quiet hq)).fetchWords hwords
  refine ⟨c.withLoop l, l, hfetched.group, rfl, hfetched.2, ?_⟩
  have hbody := Ctx.makeRecipe_ok (h := h) hsection hpast hwords hends
  rw [hfetched.record, ← State.setGroup_setGroup s1 c.n c.g] at hbody
  have hrun : c.s.SameRun (s1.setGroup c.n c.g) := by
    have hback := hfetched.1.setGroup c.n c.g
    rwa [State.setGroup_setGroup, State.setGroup_of_group (Ctx.group_of_quiet hq)] at hback
  rw [exec_mkrcp]
  rw [issue_setGroup_of_sameRun hq.1 (Ctx.settled_of_quiet hq) hrun (by cases c.slot <;> rfl) hbody, State.setGroup_setGroup, Ctx.withLoop,
    Group.setSlot_setSlot]
  rfl

end Sys2Proof.Machine
end

section
/-! Settles O28: materialization, RMAT, RSTAT and SCOPE (R147, R149, R157, R158, R184, R185, R187). -/

namespace Sys2Proof.Machine

/-! ### Materialization (R157, R158) -/

/-- Forming a register changes no other register and no other part of the group. -/
theorem State.formReg_keeps {s s1 : State} {g g1 : Group} {r : Nat} (h : s.formReg g r = .ok s1 g1) :
    g1 = { g with v := g1.v } ∧ ∀ k, k ≠ r → g1.vreg k = g.vreg k := by
  unfold State.formReg at h
  split at h
  case h_1 rc _ _ =>
    split at h
    case h_1 s2 view _ =>
      cases h
      exact ⟨rfl, fun k hk => by rw [Group.vreg_setVreg, if_neg hk]⟩
    case h_2 hfails => exact absurd h (hfails s1 g1)
  case h_2 =>
    cases h
    exact ⟨rfl, fun _ _ => rfl⟩

/-- A folded register that could be formed is materialized: its record is released and MATCNT rises. -/
theorem State.materialize_of_folded {s s1 : State} {g g1 : Group} {r : Nat} (h : (g.vreg r).hold = .folded) (hform : s.formReg g r = .ok s1 g1) :
    s.materialize g r = .ok s1 { g1.setVreg r { g1.vreg r with recipe := none } with matcnt := g1.matcnt + 1 } := by
  unfold State.materialize
  rw [h, hform]
  rfl

/-- How many registers of a list are folded. -/
def Group.foldedIn (g : Group) (l : List Nat) : Nat := l.countP fun r => (g.vreg r).hold == .folded

/-- What materialization keeps: everything but the registers and MATCNT, which counts the registers materialized, and every register that is not listed or not folded. -/
structure Group.Materialized (g g1 : Group) (l : List Nat) : Prop where
  only : g1 = { g with v := g1.v, matcnt := g.matcnt + BitVec.ofNat 32 (g.foldedIn l) }
  keeps : ∀ k, k ∉ l ∨ (g.vreg k).hold ≠ .folded → g1.vreg k = g.vreg k

theorem State.materialize_materialized {s s1 : State} {g g1 : Group} {r : Nat} (h : s.materialize g r = .ok s1 g1) : g.Materialized g1 [r] := by
  by_cases hfolded : (g.vreg r).hold = .folded
  · have hone : g.foldedIn [r] = 1 := by simp [Group.foldedIn, hfolded]
    cases hform : s.formReg g r with
    | ok s2 g2 =>
      rw [State.materialize_of_folded hfolded hform] at h
      cases h
      obtain ⟨honly, hothers⟩ := State.formReg_keeps hform
      refine ⟨?_, fun k hk => ?_⟩
      · rw [hone, honly]
        rfl
      · have hne : k ≠ r := fun e => hk.elim (· (e ▸ List.mem_singleton_self k)) (· (e ▸ hfolded))
        exact ((Group.vreg_setVreg ..).trans (if_neg hne)).trans (hothers k hne)
    | trap t s2 => simp [State.materialize, hfolded, hform] at h
    | wait s2 w k => simp [State.materialize, hfolded, hform] at h
  · rw [State.materialize_of_ne_folded hfolded] at h
    cases h
    have hnone : g.foldedIn [r] = 0 := by simp [Group.foldedIn, hfolded]
    exact ⟨by rw [hnone, BitVec.add_zero], fun _ _ => rfl⟩

theorem State.materializeAll_cons {s s1 : State} {g g1 : Group} {r : Nat} (h : s.materialize g r = .ok s1 g1) (rs : List Nat) :
    s.materializeAll g (r :: rs) = s1.materializeAll g1 rs := by
  rw [State.materializeAll, h]

/-- Registers materialized one after another (R158). -/
theorem State.materializeAll_materialized {s s1 : State} {g g1 : Group} {l : List Nat} (hl : l.Nodup) (h : s.materializeAll g l = .ok s1 g1) :
    g.Materialized g1 l := by
  induction l generalizing s g with
  | nil =>
    cases h
    exact ⟨by rw [Group.foldedIn, List.countP_nil, BitVec.add_zero], fun _ _ => rfl⟩
  | cons r rs ih =>
    obtain ⟨hr, hrs⟩ := List.nodup_cons.mp hl
    cases hfirst : s.materialize g r with
    | ok s2 g2 =>
      rw [State.materializeAll_cons hfirst] at h
      obtain ⟨honly, hkeeps⟩ := State.materialize_materialized hfirst
      obtain ⟨honly', hkeeps'⟩ := ih hrs h
      have hothers (k : Nat) (hk : k ≠ r) : g2.vreg k = g.vreg k := hkeeps k (.inl (by simpa using hk))
      have hcount : g2.foldedIn rs = g.foldedIn rs := List.countP_congr fun k hk => by rw [hothers k fun e => hr (e ▸ hk)]
      have hmatcnt : g2.matcnt = g.matcnt + BitVec.ofNat 32 (g.foldedIn [r]) := by rw [honly]
      have hsum : g2.matcnt + BitVec.ofNat 32 (g2.foldedIn rs) = g.matcnt + BitVec.ofNat 32 (g.foldedIn (r :: rs)) := by
        rw [hcount, hmatcnt, BitVec.add_assoc, ← BitVec.ofNat_add]
        congr 2
        simp only [Group.foldedIn, List.countP_cons, List.countP_nil]
        omega
      refine ⟨?_, fun k hk => ?_⟩
      · rw [hsum, honly] at honly'
        exact honly'
      · by_cases hkr : k = r
        · subst hkr
          rw [hkeeps' k (.inl hr), hkeeps k (.inr (hk.resolve_left (· List.mem_cons_self)))]
        · have hrest : k ∉ rs ∨ (g2.vreg k).hold ≠ .folded := by
            rw [hothers k hkr]
            exact hk.imp_left fun hmem hk => hmem (List.mem_cons_of_mem _ hk)
          rw [hkeeps' k hrest, hothers k hkr]
    | trap t s2 => simp [State.materializeAll, hfirst] at h
    | wait s2 w k => simp [State.materializeAll, hfirst] at h

/-- The row of a register formed under M: what each lane of M is given, and 0 in the others (R157). -/
def formedRow (w : Nat) (m : Mask) (given : Nat → Word × Bool) : Hold :=
  .rows ((List.range w).map fun i => (if m.getLsbD i then given i else (0, false)).1)
    (Mask.ofFn fun i => decide (i < w) && (if m.getLsbD i then given i else (0, false)).2)

theorem formedRow_read {w l : Nat} (hw : w ≤ 64) (hl : l < w) (m : Mask) (given : Nat → Word × Bool) :
    (formedRow w m given).read l = if m.getLsbD l then given l else (0, false) := by
  have hl64 : l < 64 := Nat.lt_of_lt_of_le hl hw
  simp only [formedRow, Hold.read, Tbl.get_map_range, Mask.getLsbD_ofFn, hl, hl64, decide_true, Bool.true_and, if_true]

/-- A folded register whose recipe's words run has their row. -/
theorem State.formReg_ok {s s1 : State} {g view : Group} {r : Nat} {rc : Recipe} (hfolded : (g.vreg r).hold = .folded)
    (hrecipe : (g.vreg r).recipe = some rc) (hrun : s.regenRun rc.m r 8 rc.words (g.setVreg r VReg.empty) = .ok s1 view) :
    s.formReg g r = .ok s1 (g.setVreg r { g.vreg r with hold := formedRow g.w rc.m (view.rdp r) }) := by
  simp only [State.formReg, hfolded, hrecipe, hrun]
  rfl

/-- A folded register formed gives the lanes of M what the words of its recipe give, and 0 in the others (R157). -/
theorem State.formReg_rows {s s1 : State} {g view : Group} {r : Nat} {rc : Recipe} (hw : g.widthOk = true) (hfolded : (g.vreg r).hold = .folded)
    (hrecipe : (g.vreg r).recipe = some rc) (hrun : s.regenRun rc.m r 8 rc.words (g.setVreg r VReg.empty) = .ok s1 view) :
    ∃ vals ps, s.formReg g r = .ok s1 (g.setVreg r { g.vreg r with hold := .rows vals ps }) ∧
      ∀ l, l < g.width → (g.setVreg r { g.vreg r with hold := .rows vals ps }).rdp r l = if rc.m.getLsbD l then view.rdp r l else (0, false) := by
  refine ⟨_, _, State.formReg_ok hfolded hrecipe hrun, fun l hl => ?_⟩
  obtain ⟨hwidth, hlanes⟩ := Group.width_le hw
  rw [Group.rdp, Group.vreg_setVreg, if_pos rfl]
  exact (if_pos hl).trans (formedRow_read hlanes (Nat.lt_of_lt_of_le hl hwidth) rc.m (view.rdp r))

/-! ### RMAT (R184) -/

theorem exec_rmat (h : Hdr) (vd : BitVec 6) (s : State) :
    exec (.rmat h vd) s = issue (.rmat h vd) s fun c => c.rmat (.rmat h vd) [vd.toNat] ((c.g.vreg vd.toNat).hold != .folded) := rfl
theorem exec_rmatAll (h : Hdr) (s : State) : exec (.rmatAll h) s = issue (.rmatAll h) s fun c => c.rmat (.rmatAll h) (List.range 64) false := rfl

/-- RMAT of a folded register materializes it. -/
theorem exec_rmat_folded {c : Ctx} {h : Hdr} {vd : BitVec 6} {s1 : State} {g1 : Group} (hi : c.Issues (.rmat h vd)) (hs : c.settled)
    (hfolded : (c.g.vreg vd.toNat).hold = .folded) (hform : c.s.formReg c.g vd.toNat = .ok s1 g1) :
    exec (.rmat h vd) c.s = .next ((c.advance (.rmat h vd) (s1.setGroup c.n
      { g1.setVreg vd.toNat { g1.vreg vd.toNat with recipe := none } with matcnt := g1.matcnt + 1 })).fitAreas c.n c.g.inRows) := by
  rw [exec_rmat]
  refine issue_ok_of_settled hi hs ?_
  rw [Ctx.rmat, State.materializeAll_cons (State.materialize_of_folded hfolded hform), hfolded]
  rfl

/-- RMAT of any other register takes its recipe away. -/
theorem exec_rmat_other {c : Ctx} {h : Hdr} {vd : BitVec 6} (hi : c.Issues (.rmat h vd)) (hs : c.settled) (hother : (c.g.vreg vd.toNat).hold ≠ .folded) :
    exec (.rmat h vd) c.s = .next (c.after (.rmat h vd) (c.g.setVreg vd.toNat { c.g.vreg vd.toNat with recipe := none })) := by
  have hlose : c.g.loseRecipe vd.toNat = c.g.setVreg vd.toNat { c.g.vreg vd.toNat with recipe := none } := by
    rw [Group.loseRecipe, if_neg (by simpa using hother)]
  rw [exec_rmat]
  refine issue_after_of_settled hi hs rfl ?_
  rw [Ctx.rmat, State.materializeAll_cons (State.materialize_of_ne_folded hother), State.materializeAll, ← hlose]
  dsimp only
  rw [if_pos (bne_iff_ne.mpr hother)]
  rfl

theorem exec_rmatAll_ok {c : Ctx} {h : Hdr} {s1 : State} {g1 : Group} (hi : c.Issues (.rmatAll h)) (hs : c.settled)
    (hall : c.s.materializeAll c.g (List.range 64) = .ok s1 g1) :
    exec (.rmatAll h) c.s = .next ((c.advance (.rmatAll h) (s1.setGroup c.n g1)).fitAreas c.n c.g.inRows) := by
  rw [exec_rmatAll]
  refine issue_ok_of_settled hi hs ?_
  rw [Ctx.rmat, hall]
  rfl

/-! ### Writes that no recipe pins -/

/-- No recipe of the group pins a register of the set (R158). -/
def Group.Unpinned (g : Group) (f : Foot) : Prop := ∀ r rc, r < 64 → (g.vreg r).recipe = some rc → rc.pinsAny f = false

theorem Group.dropRecipes_unpinned {g : Group} {f : Foot} (h : g.Unpinned f) : g.dropRecipes f = g := by
  refine List.foldlRecOn (motive := fun x : Group => x = g) _ _ rfl fun x hx r hr => ?_
  subst hx
  split
  · rfl
  · next rc hrc _ => rw [h r rc (List.mem_range.mp hr) hrc, if_neg Bool.false_ne_true]
  · rfl

/-- A write of registers that no recipe pins needs no materialization, where it compresses or no register of the set has a recipe of its own. -/
theorem State.prepareWrite_unpinned {s : State} {g : Group} {f : Foot} {b : Bool} (h : g.Unpinned f)
    (hown : b = true ∨ ∀ r, r < 64 → f.v.getLsbD r = true → (g.vreg r).recipe = none) (act : Mask) : s.prepareWrite g f act b = .ok s g := by
  have hmust : ((List.range 64).filter fun r => g.mustMaterialize f act b r) = [] := List.filter_eq_nil_iff.mpr fun r hr => by
    have hlt := List.mem_range.mp hr
    unfold Group.mustMaterialize
    split
    case h_1 rc _ hrc =>
      rw [h r rc hlt hrc]
      rcases hown with rfl | hown
      · simp
      · have hbit : f.v.getLsbD r = false := Bool.eq_false_iff.mpr fun hbit => by simp [hown r hlt hbit] at hrc
        simp [hbit]
    case h_2 => simp
  unfold State.prepareWrite
  rw [hmust, State.materializeAll]
  dsimp only
  rw [Group.dropRecipes_unpinned h]

/-! ### The registers that a set names -/

theorem Foot.vs_getLsbD_eq (r : BitVec 6) (n : Nat) {k : Nat} (hk : k < 64) :
    (Foot.vs r n).v.getLsbD k = (decide (r.toNat ≤ k) && decide (k - r.toNat < n)) := by
  simp only [Foot.vs, sum_two_pow_from, BitVec.getLsbD_ofNat, Nat.testBit_two_pow_mul, Nat.testBit_two_pow_sub_one, decide_eq_true hk, Bool.true_and,
    ge_iff_le]

theorem rangeFoot_getLsbD {lo hi : BitVec 6} {r : Nat} (hr : r < 64) : (rangeFoot lo hi).v.getLsbD r = true ↔ lo.toNat ≤ r ∧ r ≤ hi.toNat := by
  rw [rangeFoot, Foot.vs_getLsbD_eq lo _ hr, Bool.and_eq_true, decide_eq_true_eq, decide_eq_true_eq]
  omega

theorem Foot.v1_getLsbD {vd : BitVec 6} {r : Nat} (hr : r < 64) : (Foot.v1 vd).v.getLsbD r = true ↔ r = vd.toNat := by
  rw [Foot.v1, Foot.vs_getLsbD_eq vd 1 hr, Bool.and_eq_true, decide_eq_true_eq, decide_eq_true_eq]
  omega

theorem Foot.none_union (f : Foot) : Foot.none.union f = f := by simp [Foot.union, Foot.none]

theorem Foot.none_isUnpinned (g : Group) : g.Unpinned Foot.none := fun _ _ _ _ => by
  simp [Recipe.pinsAny, Foot.isEmpty, Foot.inter, Foot.none]

/-! ### RSTAT (R185) -/

theorem exec_rstat (h : Hdr) (vd va : BitVec 6) (s : State) : exec (.rstat h vd va) s = issue (.rstat h vd va) s fun c =>
    c.commit (.rstat h vd va) c.s (lanesEff h c.g c.act vd fun _ => (rstatWord (c.g.vreg va.toNat), false)) := rfl

/-- The number by which RSTAT names a hold (R185). -/
def Hold.code : Hold → Nat
  | .empty => 0
  | .rows _ _ => 1
  | .uniform _ _ => 2
  | .folded => 3
  | .spilled _ _ => 4

theorem Hold.code_le (h : Hold) : h.code ≤ 4 := by cases h <;> simp [Hold.code]

theorem rstatWord_toNat (r : VReg) : (rstatWord r).toNat = r.hold.code + (if r.recipe = none then 0 else 8) + if r.locks = 0 then 0 else 16 := by
  have hcode : rstatWord r = BitVec.ofNat 32 (r.hold.code + (if r.recipe.isSome then 8 else 0) + (if r.locks != 0 then 16 else 0)) := rfl
  have hrecipe : (if r.recipe.isSome then 8 else 0) = if r.recipe = none then 0 else 8 := by cases r.recipe <;> rfl
  have hlocks : (if r.locks != 0 then 16 else 0) = if r.locks = 0 then 0 else 16 := by by_cases hl : r.locks = 0 <;> simp [hl]
  have hbound := r.hold.code_le
  rw [hcode, hrecipe, hlocks, BitVec.toNat_ofNat, Nat.mod_eq_of_lt]
  split <;> split <;> omega

/-- A write of one register names that register, or nothing where no lane takes part (R20). -/
theorem lanesEff_foot (h : Hdr) (g : Group) (act : Mask) (vd : BitVec 6) (f : Nat → Word × Bool) :
    writesFoot (lanesEff h g act vd f).writes = Foot.none ∨ writesFoot (lanesEff h g act vd f).writes = Foot.v1 vd := by
  have hone (w : Write) (hw : w.vreg? = some vd.toNat) : writesFoot [w] = Foot.v1 vd := by
    have hself : BitVec.ofNat 6 vd.toNat = vd := by rw [BitVec.ofNat_toNat, BitVec.setWidth_eq]
    cases w <;> cases hw <;> exact (Foot.none_union _).trans (congrArg Foot.v1 hself)
  unfold lanesEff
  split
  · split
    · exact .inl rfl
    · exact .inr (hone _ rfl)
  · exact .inr (hone _ rfl)

/-- Every write of a single register's effect names it. -/
theorem lanesEff_vreg {h : Hdr} {g : Group} {act : Mask} {vd : BitVec 6} {f : Nat → Word × Bool} :
    ∀ w ∈ (lanesEff h g act vd f).writes, w.vreg? = some vd.toNat := by
  intro w hw
  unfold lanesEff at hw
  split at hw
  · split at hw
    · cases hw
    · rw [List.mem_singleton.mp hw]; rfl
  · rw [List.mem_singleton.mp hw]; rfl

/-- A write of one register that carries no recipe and that none pins is made as it is. -/
theorem Ctx.commit_lanesEff {c : Ctx} (hl : c.Live) (i : Instr) (h : Hdr) (vd : BitVec 6) (f : Nat → Word × Bool)
    (hown : (c.g.vreg vd.toNat).recipe = none) (hpins : c.g.Unpinned (Foot.v1 vd)) :
    c.commit i c.s (lanesEff h c.g c.act vd f) = .ok (c.after i (c.g.applyAll c.act c.full (lanesEff h c.g c.act vd f).writes)) := by
  have hready (act : Mask) (b : Bool) : c.s.prepareWrite c.g (writesFoot (lanesEff h c.g c.act vd f).writes) act b = .ok c.s c.g := by
    rcases lanesEff_foot h c.g c.act vd f with hnone | hone
    · rw [hnone]
      exact State.prepareWrite_unpinned (Foot.none_isUnpinned c.g) (.inr fun r _ hbit => by simp [Foot.none] at hbit) act
    · rw [hone]
      exact State.prepareWrite_unpinned hpins (.inr fun r hr hbit => by rw [(Foot.v1_getLsbD hr).mp hbit, hown]) act
  have hcounts : (lanesEff h c.g c.act vd f).counts = [] := by
    unfold lanesEff
    split
    · split <;> rfl
    · rfl
  obtain ⟨-, hgroup, -⟩ := hl
  unfold Ctx.commit State.writeRegs
  simp only [hgroup, hready, hcounts]
  rfl

theorem exec_rstat_unpinned {c : Ctx} {h : Hdr} {vd va : BitVec 6} (hi : c.Issues (.rstat h vd va)) (hs : c.settled) (hw : c.g.widthOk = true)
    (hown : (c.g.vreg vd.toNat).recipe = none) (hpins : c.g.Unpinned (Foot.v1 vd)) :
    ∃ g', exec (.rstat h vd va) c.s = .next (c.after (.rstat h vd va) g') ∧ c.g.SameBut g' c.act (writes (.rstat h vd va)) ∧
      ∀ l, l < c.g.width → c.act.getLsbD l = true → g'.rd vd l = rstatWord (c.g.vreg va.toNat) := by
  have hunder : c.g.Under c.act c.full := ⟨hw, Ctx.full_all⟩
  have hcommit := Ctx.commit_lanesEff hi.1 (.rstat h vd va) h vd (fun _ => (rstatWord (c.g.vreg va.toNat), false)) hown hpins
  refine ⟨_, (exec_rstat ..).trans (issue_after_of_settled hi hs (Group.applyAll_same ..) hcommit), ?_, fun l hl hact => ?_⟩
  · exact Group.sameBut_applyAll hunder fun w hmem => ⟨_, lanesEff_vreg w hmem, (Foot.v1_getLsbD vd.isLt).mpr rfl⟩
  · obtain ⟨w, hwrites, hreg, hval⟩ := lanesEff_of_active (h := h) hw vd (fun _ => (rstatWord (c.g.vreg va.toNat), false)) hact
    rw [Group.rd, hwrites, Group.rdp_applyAll hunder (by simp [hreg]) (List.pairwise_singleton ..) (List.mem_singleton_self w) hreg hl hact, hval l hl]

/-! ### SCOPE (R149, R187) -/

theorem exec_scopeOpen (h : Hdr) (lo hi : BitVec 6) (s : State) : exec (.scopeOpen h lo hi) s = issue (.scopeOpen h lo hi) s fun c =>
    if scopeDepth ≤ c.g.scopes.length then .trap ⟨Cause.badForm, c.g.scopes.length⟩ c.s
    else c.done (.scopeOpen h lo hi) (c.setG c.s fun g => { g with scopes := (lo, hi) :: g.scopes }) := rfl

/-- The group with every register of a list EMPTY. -/
def Group.emptied (g : Group) (l : List Nat) : Group := l.foldl (fun g r => g.setVreg r VReg.empty) g

theorem Group.emptied_onlyV (g : Group) (l : List Nat) : g.emptied l = { g with v := (g.emptied l).v } :=
  List.foldlRecOn (motive := fun x : Group => x = { g with v := x.v }) l _ rfl fun x hx r _ => by rw [hx]; rfl

theorem Group.vreg_emptied (g : Group) (l : List Nat) (r : Nat) : (g.emptied l).vreg r = if r ∈ l then VReg.empty else g.vreg r := by
  induction l generalizing g with
  | nil => rfl
  | cons k ks ih =>
    change ((g.setVreg k VReg.empty).emptied ks).vreg r = _
    rw [ih, Group.vreg_setVreg]
    by_cases hk : r = k <;> simp [hk]

/-- The group whose innermost scope, over a range, has been closed. -/
def Group.scopeClosed (g : Group) (lo hi : BitVec 6) (rest : List (BitVec 6 × BitVec 6)) : Group :=
  Group.emptied { g with scopes := rest } (vList (rangeFoot lo hi).v)

/-- What SCOPE.CLOSE does where its group is. -/
def Ctx.closeScope (h : Hdr) (c : Ctx) : Res :=
  match c.g.scopes with
  | [] => .trap ⟨Cause.badForm, 0⟩ c.s
  | (lo, hi) :: rest =>
    if ((rangeFoot lo hi).v &&& c.g.busyV) != 0 then .hold c.s
    else match c.s.prepareWrite c.g (rangeFoot lo hi) c.g.all true with
    | .trap t s1 => .trap t s1
    | .wait s1 w r => c.waitRegen (.scopeClose h) s1 w r
    | .ok s1 g1 => c.done (.scopeClose h) (s1.setGroup c.n (g1.scopeClosed lo hi rest))

theorem exec_scopeClose (h : Hdr) (s : State) : exec (.scopeClose h) s = issue (.scopeClose h) s (Ctx.closeScope h) := rfl

theorem Group.vreg_scopeClosed (g : Group) (lo hi : BitVec 6) (rest : List (BitVec 6 × BitVec 6)) {r : Nat} (hr : r < 64) :
    (g.scopeClosed lo hi rest).vreg r = if lo.toNat ≤ r ∧ r ≤ hi.toNat then VReg.empty else g.vreg r := by
  rw [Group.scopeClosed, Group.vreg_emptied]
  simp only [mem_vList_iff, rangeFoot_getLsbD hr]
  rfl

section
variable {c : Ctx} {h : Hdr} {lo hi : BitVec 6} {rest : List (BitVec 6 × BitVec 6)}

theorem exec_scopeOpen_pushes (hissues : c.Issues (.scopeOpen h lo hi)) (hs : c.settled) (hroom : c.g.scopes.length < 8) :
    exec (.scopeOpen h lo hi) c.s = .next (c.after (.scopeOpen h lo hi) { c.g with scopes := (lo, hi) :: c.g.scopes }) := by
  rw [exec_scopeOpen]
  exact issue_setG_of_settled hissues hs (fun g => { g with scopes := (lo, hi) :: g.scopes }) rfl (if_neg (Nat.not_le.mpr hroom))

theorem exec_scopeOpen_full (hissues : c.Issues (.scopeOpen h lo hi)) (hfull : c.g.scopes.length = 8) :
    exec (.scopeOpen h lo hi) c.s = .next (c.s.takeTrap c.n c.slot ⟨0x02, 8, c.pc, false⟩) := by
  rw [exec_scopeOpen, issue_trap hissues (t := ⟨Cause.badForm, 8⟩) (s1 := c.s)]
  · rfl
  · rw [hfull]
    rfl

/-- Where nothing of the range is owed or locked, the scope closes. -/
theorem Ctx.closeScope_ok {s1 : State} {g1 : Group} (hscopes : c.g.scopes = (lo, hi) :: rest) (hidle : ((rangeFoot lo hi).v &&& c.g.busyV) = 0)
    (hready : c.s.prepareWrite c.g (rangeFoot lo hi) c.g.all true = .ok s1 g1) :
    c.closeScope h = .ok (c.advance (.scopeClose h) (s1.setGroup c.n (g1.scopeClosed lo hi rest))) := by
  simp only [Ctx.closeScope, hscopes, hidle, hready, bne_self_eq_false, Bool.false_eq_true, if_false]
  rfl

theorem Group.scopeClosed_only (g : Group) : g.scopeClosed lo hi rest = { g with v := (g.scopeClosed lo hi rest).v, scopes := rest } :=
  Group.emptied_onlyV _ _

end

/-- Settles O28: RMAT and RMAT.ALL, what a recipe's words give, RSTAT, and SCOPE. -/
theorem registerStates : Obligations.RegisterStates := by
  refine ⟨fun c h vd => ⟨fun s1 g1 => exec_rmat_folded, exec_rmat_other, fun s1 g1 hi hs hall => ?_⟩,
    fun s g r rs => ⟨fun hother => ?_, fun s1 g1 hfolded hform => ?_, ?_⟩,
    fun c h => ⟨fun vd va hi hs hw hown hpins => ?_, fun lo hi => exec_scopeOpen_pushes, fun lo hi => exec_scopeOpen_full, fun hi hnone => ?_,
      fun lo hi rest hissues hs hscopes hidle => ⟨fun s1 g1 hready => ?_, fun hpins => ?_⟩⟩⟩
  · obtain ⟨honly, hkeeps⟩ := State.materializeAll_materialized List.nodup_range hall
    exact ⟨exec_rmatAll_ok hi hs hall, honly, fun r _ hother => hkeeps r (.inr hother)⟩
  · exact State.materializeAll_cons (State.materialize_of_ne_folded hother) rs
  · exact State.materializeAll_cons (State.materialize_of_folded hfolded hform) rs
  · exact fun rc s1 view _ hw hfolded hrecipe hrun => State.formReg_rows hw hfolded hrecipe hrun
  · obtain ⟨g', hexec, hsame, hval⟩ := exec_rstat_unpinned hi hs hw hown hpins
    exact ⟨g', hexec, hsame, fun l hl hact => (congrArg BitVec.toNat (hval l hl hact)).trans (rstatWord_toNat _)⟩
  · exact issue_trap hi (body := Ctx.closeScope h) (t := ⟨Cause.badForm, 0⟩) (s1 := c.s) (by rw [Ctx.closeScope, hnone])
  · refine ⟨g1.scopeClosed lo hi rest, ?_, Group.scopeClosed_only g1, fun r hr => Group.vreg_scopeClosed g1 lo hi rest hr⟩
    exact issue_ok_of_settled hissues hs (body := Ctx.closeScope h) (Ctx.closeScope_ok hscopes hidle hready)
  · have hready := State.prepareWrite_unpinned (s := c.s) (b := true) hpins (.inl rfl) c.g.all
    refine ⟨hready, c.g.scopeClosed lo hi rest, issue_after_of_settled hissues hs (body := Ctx.closeScope h) ?_ (Ctx.closeScope_ok hscopes hidle hready)⟩
    rw [Group.scopeClosed_only]

end Sys2Proof.Machine
end

section
/-! Settles O31: a matrix instruction enters its group's queue and locks its sources (R148, R234). -/

namespace Sys2Proof.Machine

/-- The group with one more lock on each register of a list. -/
def Group.lockAll (g : Group) (l : List Nat) : Group := l.foldl (fun g r => g.setVreg r { g.vreg r with locks := (g.vreg r).locks + 1 }) g

theorem Group.lock_eq (g : Group) (i : Instr) : g.lock i = g.lockAll (vList (reads i).v) := rfl

/-- Locks are kept with the vector registers alone. -/
theorem Group.lockAll_onlyV (g : Group) (l : List Nat) : g.lockAll l = { g with v := (g.lockAll l).v } :=
  List.foldlRecOn (motive := fun x : Group => x = { g with v := x.v }) l _ rfl fun x hx r _ => by rw [hx]; rfl

/-- Each register of a list without repeats has one lock more. -/
theorem Group.vreg_lockAll (g : Group) {l : List Nat} (hl : l.Nodup) (r : Nat) :
    (g.lockAll l).vreg r = { g.vreg r with locks := (g.vreg r).locks + if r ∈ l then 1 else 0 } := by
  induction l generalizing g with
  | nil => simp [Group.lockAll]
  | cons k ks ih =>
    obtain ⟨hk, hks⟩ := List.nodup_cons.mp hl
    change ((g.setVreg k { g.vreg k with locks := (g.vreg k).locks + 1 }).lockAll ks).vreg r = _
    rw [ih _ hks, Group.vreg_setVreg]
    by_cases hr : r = k
    · subst hr
      simp [hk]
    · simp [hr]

/-- A matrix instruction in a group without recipes, with a place in the queue and no fault to deliver, enters the queue. -/
theorem Ctx.queueMx_plain {c : Ctx} {i : Instr} (hp : c.plain = true) (htrap : c.g.mxTrap = none) (hgroup : c.g.mx.length < 8)
    (hcore : c.s.mxOnCore (c.s.coreOf c.g) < 16) : ∃ w : MxWork, w.instr = i ∧ w.pc = c.pc ∧ w.mask = c.act ∧ w.ops = none ∧ w.it = 0 ∧ w.k = 0 ∧
      c.queueMx i = .ok (c.after i { c.g.lock i with mx := (c.g.lock i).mx ++ [w] }) := by
  have hroom : (decide (Config.mxPerGroup ≤ c.g.mx.length) || decide (Config.mxPerCore ≤ c.s.mxOnCore (c.s.coreOf c.g))) = false :=
    Bool.or_eq_false_iff.mpr ⟨decide_eq_false (Nat.not_le.mpr hgroup), decide_eq_false (Nat.not_le.mpr hcore)⟩
  have hform : c.s.materializeAll c.g (vList (reads i).v) = .ok c.s c.g :=
    State.materializeAll_of_ne_folded fun r hr => Ctx.plain_hold hp (mem_vList hr)
  refine ⟨⟨i, c.pc, c.act, none, ((drainReg i).map c.g.areg).getD Desc.null, 0, 0, c.g.frozen && runsAhead i, none, none, c.g.trap.level⟩,
    rfl, rfl, rfl, rfl, rfl, rfl, ?_⟩
  unfold Ctx.queueMx Ctx.mxFirst
  simp only [htrap, hroom, hform, State.prepareWrite_plain (fun r hr => Ctx.plain_recipe hp hr), Bool.false_eq_true, if_false]
  rfl

/-- Every instruction that enters the queue has that as its whole meaning. -/
theorem exec_mxQueued {i : Instr} (h : mxQueued i = true) (s : State) : exec i s = issue i s fun c => c.queueMx i := by
  unfold mxQueued at h
  split at h
  case h_12 => cases h
  all_goals rfl

/-- Settles O31: the sources are locked, the work is appended, and nothing else of the group changes. -/
theorem matrixInstructionsQueue : Obligations.MatrixInstructionsQueue := by
  intro c i hi hq htrap hgroup hcore
  obtain ⟨w, hinstr, hpc, hmask, hops, hit, hk, hbody⟩ := Ctx.queueMx_plain (i := i) (Ctx.plain_of_quiet hq) htrap hgroup hcore
  have honly := Group.lockAll_onlyV c.g (vList (reads i).v)
  rw [← Group.lock_eq] at honly
  refine ⟨{ c.g.lock i with mx := (c.g.lock i).mx ++ [w] }, w, ?_, ?_, hinstr, hpc, hmask, hops, hit, hk, fun r hr => ?_⟩
  · rw [exec_mxQueued hi]
    refine issue_after_of_settled hq.1 (Ctx.settled_of_quiet hq) ?_ hbody
    rw [honly]
  · rw [honly]
  · have hlock := Group.vreg_lockAll c.g (vList_nodup (reads i).v) r
    simp only [mem_vList_iff] at hlock
    exact hlock

end Sys2Proof.Machine
end

section
/-! Settles O34: BRA and JMPI, and how lanes are grouped by their targets (R275, R278, R288 to R290, R295, R296). -/

namespace Sys2Proof.Machine

/-! ### Checks of targets (R288) -/

/-- The checks of targets, where they let the targets through, leave groups, teams and launches. -/
theorem State.sameRun_checkTargets {s s1 : State} {g : Group} {ts : List (Nat × DWord)} {pad : Option (BitVec 8)}
    (h : s.checkTargets g ts pad = .ok () s1) : s.SameRun s1 := by
  have hpad (tag : BitVec 8) (t : Nat × DWord) (s : State) (u : Unit) (s1 : State) (h : s.padCheck g tag t = .ok u s1) : s.SameRun s1 := by
    unfold State.padCheck at h
    split at h
    case h_1 w s2 hfetched =>
      unfold Chk.test at h
      split at h <;> cases h
      exact State.sameRun_fetchWord hfetched
    all_goals cases h
  unfold State.checkTargets at h
  dsimp only at h
  split at h
  · cases h
  split at h
  · cases h
  split at h
  · cases h
    exact .refl s
  · obtain ⟨_, s2, heach, h⟩ := Chk.bind_eq_ok.mp h
    cases h
    exact Chk.each_sameRun (hpad _) heach

/-- One target that needs no PAD passes its checks where it is the start of a packet below 2^51. -/
theorem Ctx.checkTargets_single {c : Ctx} {t : DWord} (h : c.targetOk t) (l : Nat) : c.s.checkTargets c.g [(l, t)] none = .ok () c.s := by
  obtain ⟨hbound, hpacket⟩ := h
  unfold isPacket at hpacket
  split at hpacket
  case h_2 => cases hpacket
  case h_1 sect hsect =>
    have hbelow : decide (2 ^ 51 ≤ t.toNat) = false := decide_eq_false (Nat.not_le.mpr hbound)
    simp only [State.checkTargets, targetAligned, List.find?_cons, List.find?_nil, hsect, hpacket, hbelow, Bool.not_true, Bool.or_false, Option.isNone_some]

/-! ### Lanes by target (R289) -/

/-- A set of lanes has a target of the lanes grouped. -/
theorem target_of_mem_groupTargets {k : Nat} {ts : List (Nat × DWord)} {x : DWord × Mask} (h : x ∈ groupTargets k ts) : x.1 ∈ ts.map Prod.snd := by
  induction k generalizing ts with
  | zero => cases h
  | succ k ih =>
    cases ts with
    | nil => cases h
    | cons y rest =>
      rcases List.mem_cons.mp h with rfl | h
      · exact List.mem_cons_self
      · exact List.mem_cons_of_mem _ (((List.filter_sublist).map Prod.snd).subset (ih h))

/-- The set of a target holds the lanes that go there. -/
theorem getLsbD_of_mem_groupTargets {k : Nat} {ts : List (Nat × DWord)} {x : DWord × Mask} (h : x ∈ groupTargets k ts) {l : Nat} (hl : l < 64) :
    x.2.getLsbD l = true ↔ (l, x.1) ∈ ts := by
  induction k generalizing ts with
  | zero => cases h
  | succ k ih =>
    cases ts with
    | nil => cases h
    | cons y rest =>
      obtain ⟨i, t⟩ := y
      rcases List.mem_cons.mp h with rfl | h
      · simp only [getLsbD_foldl_or, Mask.getLsbD_bit hl, BitVec.ofNat_eq_ofNat, BitVec.getLsbD_zero, Bool.false_or, List.any_cons, Bool.or_eq_true,
          decide_eq_true_eq, List.any_eq_true, List.mem_filter, beq_iff_eq, List.mem_cons, Prod.mk.injEq, and_true, Prod.exists]
        constructor
        · rintro (rfl | ⟨a, b, ⟨hmem, rfl⟩, rfl⟩)
          · exact .inl rfl
          · exact .inr hmem
        · rintro (rfl | hmem)
          · exact .inl rfl
          · exact .inr ⟨l, t, ⟨hmem, rfl⟩, rfl⟩
      · have hne : x.1 ≠ t := by
          obtain ⟨y, hy, hyx⟩ := List.mem_map.mp (target_of_mem_groupTargets h)
          rw [← hyx]
          simpa using (List.mem_filter.mp hy).2
        rw [ih h]
        simp [hne]

/-- Every target has its set, where the bound reaches every lane. -/
theorem mem_groupTargets_of_mem {k : Nat} {ts : List (Nat × DWord)} (hk : ts.length ≤ k) {l : Nat} {t : DWord} (h : (l, t) ∈ ts) :
    ∃ m, (t, m) ∈ groupTargets k ts := by
  induction k generalizing ts with
  | zero =>
    rw [List.length_eq_zero_iff.mp (Nat.le_zero.mp hk)] at h
    cases h
  | succ k ih =>
    cases ts with
    | nil => cases h
    | cons y rest =>
      obtain ⟨i, u⟩ := y
      by_cases htu : t = u
      · subst htu
        exact ⟨_, List.mem_cons_self⟩
      · have hrest : (l, t) ∈ rest.filter fun x => x.2 != u := by
          refine List.mem_filter.mpr ⟨(List.mem_cons.mp h).resolve_left fun e => htu (congrArg Prod.snd e), bne_iff_ne.mpr htu⟩
        have hlength : (rest.filter fun x => x.2 != u).length ≤ k := (List.length_filter_le ..).trans (Nat.le_of_succ_le_succ hk)
        obtain ⟨m, hm⟩ := ih hlength hrest
        exact ⟨m, List.mem_cons_of_mem _ hm⟩

/-- Lanes that all go to one target make one set. -/
theorem groupTargets_of_single {k : Nat} {ts : List (Nat × DWord)} {t : DWord} (hne : ts ≠ []) (h : ∀ x ∈ ts, x.2 = t) :
    ∃ m, groupTargets (k + 1) ts = [(t, m)] := by
  cases ts with
  | nil => exact absurd rfl hne
  | cons y rest =>
    obtain ⟨i, u⟩ := y
    obtain rfl : u = t := h (i, u) List.mem_cons_self
    have hrest : (rest.filter fun x => x.2 != u) = [] :=
      List.filter_eq_nil_iff.mpr fun x hx => by simp [h x (List.mem_cons_of_mem _ hx)]
    have hnil : groupTargets k ([] : List (Nat × DWord)) = [] := by cases k <;> rfl
    simp only [groupTargets, hrest, hnil, List.cons.injEq, Prod.mk.injEq, and_true, true_and]
    exact ⟨_, rfl⟩

/-- The lanes of a target form one set, and no other set has one of them. -/
theorem groupTargets_partition {ts : List (Nat × DWord)} {l : Nat} {t : DWord} (hlength : ts.length ≤ 64) (hlanes : ∀ x ∈ ts, x.1 < 64)
    (hnodup : (ts.map Prod.fst).Nodup) (h : (l, t) ∈ ts) :
    ∃ m, (t, m) ∈ groupTargets 64 ts ∧ m.getLsbD l = true ∧ ∀ x ∈ groupTargets 64 ts, x.1 ≠ t → x.2.getLsbD l = false := by
  obtain ⟨m, hm⟩ := mem_groupTargets_of_mem hlength h
  have hl : l < 64 := hlanes _ h
  refine ⟨m, hm, (getLsbD_of_mem_groupTargets hm hl).mpr h, fun x hx hne => ?_⟩
  refine Bool.eq_false_iff.mpr fun hbit => hne ?_
  have hother := (getLsbD_of_mem_groupTargets hx hl).mp hbit
  exact congrArg Prod.snd (List.inj_on_of_nodup_map hnodup hother h rfl)

/-- With several sets the first stays in the slot, and the others are PARKED, the next one uppermost. -/
theorem Group.spread_several (g : Group) (k : SlotId) (p : Path) (t : DWord) (m : Mask) {rest : List (DWord × Mask)} (h : rest ≠ []) :
    g.spread k p ((t, m) :: rest) none = (g.setStack (g.curStack ++ rest.reverse.map fun x => (⟨.parked, x.1, x.2, p.rpc⟩ : DivEntry))).setSlot k
      (some ⟨t, m, p.rpc, none, none, none, false⟩) := by
  cases rest with
  | nil => exact absurd rfl h
  | cons y ys => rfl

/-! ### BRA (R275, R290) -/

/-- The lanes that take a branch. -/
def Ctx.taking (c : Ctx) (p : BitVec 3) (inv : Bool) : Mask := (if inv then ~~~(c.g.pred p) else c.g.pred p) &&& c.act

/-- The reconvergence PC of a branch. -/
def Ctx.branchRpc (c : Ctx) (rpo : BitVec 24) : DWord := if rpo = 0 then c.path.rpc else c.packetAt rpo.toInt

/-- The entries that a divergent branch pushes. -/
def Ctx.branchPushes (c : Ctx) (rpo : BitVec 24) : List DivEntry :=
  (match c.g.slot c.slot.other with | some y => [⟨.parked, y.pc, y.mask, y.rpc⟩] | none => []) ++ [⟨.join, c.branchRpc rpo, c.path.mask, c.path.rpc⟩]

/-- The group of a divergent branch whose entries have been pushed. -/
def Ctx.diverged (c : Ctx) (p : BitVec 3) (inv : Bool) (off : BitVec 18) (rpo : BitVec 24) (g : Group) : Group :=
  ((g.setStack (g.curStack ++ c.branchPushes rpo)).setSlot c.slot (some (Path.mk' (c.packetAt 1) (c.act &&& ~~~c.taking p inv) (c.branchRpc rpo)))).setSlot
    c.slot.other (some (Path.mk' (c.packetAt off.toInt) (c.taking p inv) (c.branchRpc rpo)))

/-- No lane is the lowest of an empty mask. -/
theorem Mask.lowest_zero : Mask.lowest 0 = none := rfl

/-- What BRA does where its group is. -/
def Ctx.branch (p : BitVec 3) (inv : Bool) (off : BitVec 18) (rpo : BitVec 24) (c : Ctx) : Res :=
  match (c.g.predBad p &&& c.act).lowest with
  | some l => .trap ⟨Cause.poison, l⟩ c.s
  | none =>
    if c.taking p inv == 0 then .ok (c.goto c.s (c.packetAt 1))
    else
      match c.s.checkTargets c.g [((c.taking p inv).lowest.getD 0, c.packetAt off.toInt)] none with
      | .trap t s1 => .trap t s1
      | .wait _ s1 => .hold s1
      | .ok _ s1 =>
        if c.taking p inv == c.act then .ok (c.goto s1 (c.packetAt off.toInt))
        else if !s1.stackRoom c.g (c.branchPushes rpo).length then .trap c.g.stackTrap s1
        else if (((c.g.slot c.slot.other).map fun y => y.loop.isSome).getD false) then .hold s1
        else .ok (c.setG s1 (c.diverged p inv off rpo))

theorem exec_bra (h : Hdr) (p : BitVec 3) (inv : Bool) (off : BitVec 18) (rpo : BitVec 24) (s : State) :
    exec (.bra h p inv off rpo) s = issue (.bra h p inv off rpo) s (Ctx.branch p inv off rpo) := rfl

/-- A path that records no slice goes to a PC and changes nothing else. -/
theorem Ctx.goto_eq {c : Ctx} (hl : c.Live) (hslice : c.path.slice = none) (pc : DWord) :
    c.goto c.s pc = c.s.setGroup c.n (c.g.setSlot c.slot (some (c.at_ pc))) := by
  obtain ⟨-, hgroup, hpath⟩ := hl
  simp only [Ctx.goto, Ctx.setPath, hgroup, hpath, Option.map_some, Ctx.at_, hslice]

/-- An instruction that only sends its path to a PC does that and no more. -/
theorem issue_goto {c : Ctx} {i : Instr} (hq : c.Quiet i) {body : Ctx → Res} {pc : DWord} (hbody : body c = .ok (c.goto c.s pc)) :
    issue i c.s body = .next (c.s.setGroup c.n (c.g.setSlot c.slot (some (c.at_ pc)))) := by
  obtain ⟨hslice, -⟩ := Ctx.settled_of_quiet hq
  rw [Ctx.goto_eq (Ctx.live_of_quiet hq) hslice] at hbody
  refine issue_setGroup_of_settled hq.1 (Ctx.settled_of_quiet hq) hbody ?_
  cases c.slot <;> rfl

section
variable {c : Ctx} {p : BitVec 3} {inv : Bool} {off : BitVec 18} {rpo : BitVec 24}

theorem Ctx.branch_untaken (hclean : c.g.predBad p &&& c.act = 0) (hnone : c.taking p inv = 0) :
    c.branch p inv off rpo = .ok (c.goto c.s (c.packetAt 1)) := by
  simp only [Ctx.branch, hclean, Mask.lowest_zero, hnone, beq_self_eq_true, if_true]

theorem Ctx.branch_all (hclean : c.g.predBad p &&& c.act = 0) (hact : c.act ≠ 0) (htarget : c.targetOk (c.packetAt off.toInt))
    (hall : c.taking p inv = c.act) : c.branch p inv off rpo = .ok (c.goto c.s (c.packetAt off.toInt)) := by
  have hsome : (c.act == 0) = false := beq_eq_false_iff_ne.mpr hact
  simp only [Ctx.branch, hclean, Mask.lowest_zero, hall, hsome, Ctx.checkTargets_single htarget, beq_self_eq_true, Bool.false_eq_true, if_true, if_false]

/-- Where some lanes take the branch and others do not, the entries need their room. -/
theorem Ctx.branch_some (hclean : c.g.predBad p &&& c.act = 0) (htarget : c.targetOk (c.packetAt off.toInt)) (hsome : c.taking p inv ≠ 0)
    (hothers : c.taking p inv ≠ c.act) : c.branch p inv off rpo =
      if !c.s.stackRoom c.g (c.branchPushes rpo).length then .trap c.g.stackTrap c.s
      else if (((c.g.slot c.slot.other).map fun y => y.loop.isSome).getD false) then .hold c.s
      else .ok (c.setG c.s (c.diverged p inv off rpo)) := by
  have hbranches : (c.taking p inv == 0) = false := beq_eq_false_iff_ne.mpr hsome
  have hsplits : (c.taking p inv == c.act) = false := beq_eq_false_iff_ne.mpr hothers
  simp only [Ctx.branch, hclean, Mask.lowest_zero, hbranches, hsplits, Ctx.checkTargets_single htarget, Bool.false_eq_true, if_false]

/-- A branch pushes at least the JOIN entry, so its room is a matter of the stack's depth (R278). -/
theorem Ctx.stackRoom_branch : c.s.stackRoom c.g (c.branchPushes rpo).length =
    decide (c.g.curStack.length + (c.branchPushes rpo).length ≤ c.g.stackCap (((c.s.launchOf c.g).map fun l => l.hdr.d).getD 0)) := by
  have hpushes : ((c.branchPushes rpo).length == 0) = false := by simp [Ctx.branchPushes]
  rw [State.stackRoom, hpushes, Bool.false_or]

end

/-! ### JMPI (R296) -/

/-- The address checks of a JMPI through a descriptor (R288 check 3). -/
def Group.jumpRefused (g : Group) (ts : List (Nat × DWord)) (an : BitVec 4) : Option Trap :=
  let d := g.areg an
  if !d.perm.getLsbD 2 || d.perm.getLsbD 5 then some ⟨Cause.addrPerm, ((ts.head?).map fun t => t.2.toNat).getD 0⟩
  else (ts.find? fun t => t.2.toNat < d.base.toNat || d.base.toNat + d.length.toNat ≤ t.2.toNat).map fun t => ⟨Cause.addrLimit, t.2.toNat⟩

theorem exec_jmpi (h : Hdr) (vp : BitVec 6) (tag : BitVec 8) (s : State) :
    exec (.jmpi h vp tag) s = issue (.jmpi h vp tag) s fun c => c.jmpi (.jmpi h vp tag) vp tag none := rfl
theorem exec_jmpiDesc (h : Hdr) (vp : BitVec 6) (tag : BitVec 8) (an : BitVec 4) (s : State) :
    exec (.jmpiDesc h vp tag an) s = issue (.jmpiDesc h vp tag an) s fun c => c.jmpi (.jmpiDesc h vp tag an) vp tag (some an) := rfl

theorem Group.jumpRefused_none {g : Group} {ts : List (Nat × DWord)} {an : BitVec 4} (hx : (g.areg an).perm.getLsbD 2 = true)
    (hs : (g.areg an).perm.getLsbD 5 = false)
    (hrange : ∀ x ∈ ts, (g.areg an).base.toNat ≤ x.2.toNat ∧ x.2.toNat < (g.areg an).base.toNat + (g.areg an).length.toNat) :
    g.jumpRefused ts an = none := by
  have hfind : (ts.find? fun t => t.2.toNat < (g.areg an).base.toNat || (g.areg an).base.toNat + (g.areg an).length.toNat ≤ t.2.toNat) = none := by
    refine List.find?_eq_none.mpr fun x hmem => ?_
    obtain ⟨hlow, hhigh⟩ := hrange x hmem
    simp only [Bool.or_eq_true, decide_eq_true_eq]
    omega
  simp only [Group.jumpRefused, hx, hs, hfind, Bool.not_true, Bool.or_self, Bool.false_eq_true, if_false, Option.map_none]

/-- A JMPI whose targets pass their checks and whose entries have room spreads its lanes. -/
theorem Ctx.jmpi_ok {c : Ctx} {s1 : State} {vp : BitVec 6} {tag : BitVec 8} {an : Option (BitVec 4)} (hl : c.Live) (hp : c.plain = true)
    (hclean : ∀ l, l < 64 → c.act.getLsbD l = true → c.g.badN vp 2 l = false)
    (hcheck : c.s.checkTargets c.g (c.g.pairTargets c.act vp) (some tag) = .ok () s1)
    (hroom : s1.stackRoom c.g (pushCount (groupTargets 64 (c.g.pairTargets c.act vp)) false) = true)
    (hdesc : (an.bind fun an => c.g.jumpRefused (c.g.pairTargets c.act vp) an) = none) (i : Instr) :
    c.jmpi i vp tag an = .ok (s1.setGroup c.n (c.g.spread c.slot c.path (groupTargets 64 (c.g.pairTargets c.act vp)) none)) := by
  have hpoison : c.g.poisonLane c.act vp 2 = none := List.find?_eq_none.mpr fun l hmem => by
    obtain ⟨hlane, hactive⟩ := (Mask.mem_lanes ..).mp hmem
    simp [hclean l hlane hactive]
  have hg : s1.group c.n = some c.g := ((State.sameRun_checkTargets hcheck).group c.n).trans hl.2.1
  have hchk : ((c.s.checkTargets c.g (c.g.pairTargets c.act vp) (some tag)).bind fun _ s1 =>
      Chk.test (s1.stackRoom c.g (pushCount (groupTargets 64 (c.g.pairTargets c.act vp)) false)) c.g.stackTrap s1) = .ok () s1 := by
    simp [hcheck, Chk.bind, Chk.test, hroom]
  unfold Ctx.jmpi
  rw [Ctx.withForm_plain hp]
  dsimp only
  rw [hpoison, hchk]
  cases an with
  | none => simp only [Chk.res, Ctx.unheard_plain hp hg, Ctx.setG, State.group_setGroup_same, State.setGroup_setGroup]
  | some an =>
    simp only [Option.bind_some, Group.jumpRefused] at hdesc
    simp only [hdesc, Chk.res, Ctx.unheard_plain hp hg, Ctx.setG, State.group_setGroup_same, State.setGroup_setGroup]

/-- With one target for all lanes the group's path goes there, and its rows and entries stay. -/
theorem Ctx.spread_one {c : Ctx} {i : Instr} {s1 : State} {vp : BitVec 6} {t : DWord} (hq : c.Quiet i) (hrun : c.s.SameRun s1) (hact : c.act ≠ 0)
    (h : ∀ l, l < 64 → c.act.getLsbD l = true → c.g.rd2 vp l = t) :
    (s1.setGroup c.n (c.g.spread c.slot c.path (groupTargets 64 (c.g.pairTargets c.act vp)) none)).fitAreas c.n c.g.inRows =
      s1.setGroup c.n (c.g.setSlot c.slot (some (c.at_ t))) := by
  obtain ⟨hslice, -, hroomy⟩ := Ctx.settled_of_quiet hq
  have hne : c.g.pairTargets c.act vp ≠ [] := fun e => Mask.lanes_ne_nil hact (List.map_eq_nil_iff.mp e)
  have hone : ∀ x ∈ c.g.pairTargets c.act vp, x.2 = t := fun x hx => by
    obtain ⟨l, hl, rfl⟩ := List.mem_map.mp hx
    obtain ⟨hlane, hactive⟩ := (Mask.mem_lanes ..).mp hl
    exact h l hlane hactive
  obtain ⟨m, hm⟩ := groupTargets_of_single (k := 63) hne hone
  have hspread : c.g.spread c.slot c.path [(t, m)] none = c.g.setSlot c.slot (some (c.at_ t)) := by
    simp only [Group.spread, Ctx.at_, hslice]
  rw [hm, hspread]
  refine Ctx.fitAreas_setGroup (Ctx.live_of_quiet hq) hroomy hrun ?_ _
  cases c.slot <;> rfl

/-- Settles O34: BRA in its four cases, JMPI with and without a descriptor, and the sets of lanes that R289 forms. -/
theorem jumpsThroughRegistersAndBranches : Obligations.JumpsThroughRegistersAndBranches := by
  refine ⟨fun c h p inv off rpo => ⟨fun hq hclean hnone => ?_, fun hq hclean hact htarget hall => ?_,
      fun hq hclean htarget hsome hothers hroom hloop => ?_, fun hi hclean htarget hsome hothers hfull => ?_⟩,
    fun c h vp tag an s1 => ?_, fun ts l t hlength hlanes hnodup h => groupTargets_partition hlength hlanes hnodup h,
    fun g k p t m rest h => Group.spread_several g k p t m h⟩
  · exact issue_goto hq (body := Ctx.branch p inv off rpo) (Ctx.branch_untaken hclean hnone)
  · exact issue_goto hq (body := Ctx.branch p inv off rpo) (Ctx.branch_all hclean hact htarget hall)
  · rw [exec_bra]
    refine issue_ok_of_quiet hq ?_
    have hstays : (((c.g.slot c.slot.other).map fun y => y.loop.isSome).getD false) = false := by
      cases hother : c.g.slot c.slot.other with
      | none => rfl
      | some y => simp [hloop y hother]
    have hfits : c.s.stackRoom c.g (c.branchPushes rpo).length = true := Ctx.stackRoom_branch.trans (decide_eq_true hroom)
    rw [Ctx.branch_some hclean htarget hsome hothers, hfits, hstays, Ctx.setG_live (Ctx.live_of_quiet hq)]
    rfl
  · refine issue_trap hi (body := Ctx.branch p inv off rpo) (t := c.g.stackTrap) (s1 := c.s) ?_
    have hlacks : c.s.stackRoom c.g (c.branchPushes rpo).length = false := Ctx.stackRoom_branch.trans (decide_eq_false (Nat.not_le.mpr hfull))
    rw [Ctx.branch_some hclean htarget hsome hothers, hlacks]
    rfl
  · intro ts sets d done hact hclean hcheck hroom
    refine ⟨fun hq => ?_, fun hq hx hs hrange => ?_, fun t htarget i _ hq => ?_⟩
    · rw [exec_jmpi]
      exact issue_ok_of_quiet hq (Ctx.jmpi_ok (Ctx.live_of_quiet hq) (Ctx.plain_of_quiet hq) hclean hcheck hroom rfl _)
    · rw [exec_jmpiDesc]
      exact issue_ok_of_quiet hq
        (Ctx.jmpi_ok (an := some an) (Ctx.live_of_quiet hq) (Ctx.plain_of_quiet hq) hclean hcheck hroom (Group.jumpRefused_none hx hs hrange) _)
    · exact congrArg Host.Outcome.next (Ctx.spread_one hq (State.sameRun_checkTargets hcheck) hact htarget)

end Sys2Proof.Machine
end

section
/-! Settles O36: reconvergence registers, the wait at them, and barriers (R297 to R299). -/

namespace Sys2Proof.Machine

theorem exec_rjoinSet (h : Hdr) (j : BitVec 3) (s : State) : exec (.rjoinSet h j) s = issue (.rjoinSet h j) s fun c =>
    c.done (.rjoinSet h j) (c.setG c.s fun g => { g with j := Tbl.set 0 g.j j.toNat c.act }) := rfl

theorem exec_rjoinAdd (h : Hdr) (j : BitVec 3) (s : State) : exec (.rjoinAdd h j) s = issue (.rjoinAdd h j) s fun c =>
    c.done (.rjoinAdd h j) (c.setG c.s fun g => { g with j := Tbl.set 0 g.j j.toNat (g.jreg j.toNat ||| c.act) }) := rfl

/-- What RJOIN.WAIT does where its group is: it traps, joins, or is held. -/
def Ctx.joinWait (h : Hdr) (j : BitVec 3) (c : Ctx) : Res :=
  if c.g.trap.level then .trap ⟨Cause.badForm, wordInfo (.rjoinWait h j)⟩ c.s
  else if c.g.joinComplete j.toNat c.act then .ok (c.setG c.s fun g => g.joinPath c.slot j.toNat c.path (c.pc + 4))
  else c.held (.rjoinWait h j) j.toNat

theorem exec_rjoinWait (h : Hdr) (j : BitVec 3) (s : State) : exec (.rjoinWait h j) s = issue (.rjoinWait h j) s (Ctx.joinWait h j) := rfl

/-- What BAR does where its group is: it traps, or is held and the barrier is tested. -/
def Ctx.barrierWait (h : Hdr) (lvl : Level) (c : Ctx) : Res :=
  if c.g.trap.level then .trap ⟨Cause.badForm, wordInfo (.bar h lvl)⟩ c.s
  else if !c.s.barAllowed c.g (levelNum lvl) then .trap ⟨Cause.launchFault, levelNum lvl⟩ c.s
  else match c.held (.bar h lvl) (8 + levelNum lvl) with
    | .ok s1 => .ok (s1.barrierTest c.g.team (8 + levelNum lvl))
    | r => r

theorem exec_bar (h : Hdr) (lvl : Level) (s : State) : exec (.bar h lvl) s = issue (.bar h lvl) s (Ctx.barrierWait h lvl) := rfl

/-- At program level, with room for one entry more, the path becomes the top entry of the group's stack (R298, R299). -/
theorem Ctx.held_ok {c : Ctx} (hl : c.Live) (hlevel : c.g.trap.level = false) (hroom : c.s.stackRoom c.g 1 = true) (i : Instr) (bar : Nat) :
    c.held i bar = .ok (c.s.setGroup c.n (Group.setSlot { c.g with stack :=
      c.g.stack ++ [⟨.held bar false, c.pc + BitVec.ofNat 64 (4 * i.words), c.path.mask, c.path.rpc⟩] } c.slot none)) := by
  simp only [Ctx.held, hroom, Bool.not_true, Bool.false_eq_true, if_false, Ctx.setG_live hl, Group.setStack, Group.curStack, hlevel]

/-- What an arriving path that completes jN leaves of the stack at program level: the entries that do not join it, those held at jN released (R298). -/
def Group.stackAfterJoin (g : Group) (n : Nat) (next rpc : DWord) : List DivEntry :=
  (g.stack.filter fun e => !joinsPath n next rpc e).map fun e => if e.kind = .held n false then { e with kind := .held n true } else e

/-- The lanes of a path and of the entries that join it. -/
def Group.joinedMask (g : Group) (n : Nat) (p : Path) (next : DWord) : Mask :=
  (g.stack.filter (joinsPath n next p.rpc)).foldl (fun m e => m ||| e.mask) p.mask

theorem Group.joinedMask_getLsbD (g : Group) (n : Nat) (p : Path) (next : DWord) (l : Nat) :
    (g.joinedMask n p next).getLsbD l = true ↔
      p.mask.getLsbD l = true ∨ ∃ e ∈ g.stack, joinsPath n next p.rpc e = true ∧ e.mask.getLsbD l = true := by
  simp only [Group.joinedMask, getLsbD_foldl_or, Bool.or_eq_true, List.any_eq_true, List.mem_filter, and_assoc]

/-- A release marks the entries held at a barrier and leaves every other. -/
theorem Group.release_eq (g : Group) (n : Nat) :
    g.release n = { g with stack := g.stack.map fun e => if e.kind = .held n false then { e with kind := .held n true } else e } := by
  unfold Group.release
  congr 1
  refine List.map_congr_left fun e _ => ?_
  obtain ⟨kind, pc, mask, rpc⟩ := e
  cases kind with
  | join => rfl
  | parked => rfl
  | held b rel => cases rel <;> simp +contextual [beq_iff_eq]

theorem Group.joinPath_program {g : Group} (hlevel : g.trap.level = false) (slot : SlotId) (n : Nat) (p : Path) (next : DWord) :
    g.joinPath slot n p next = Group.setSlot { g with stack := g.stackAfterJoin n next p.rpc, j := Tbl.set 0 g.j n 0 } slot
      (some { p with pc := next, mask := g.joinedMask n p next }) := by
  simp only [Group.joinPath, Group.curStack, Group.setStack, hlevel, Bool.false_eq_true, if_false, Group.release_eq]
  rfl

/-- An entry joins the path where it is held at jN, released or not, and resumes where the path does with its reconvergence PC. -/
theorem joinsPath_iff (n : Nat) (next rpc : DWord) (e : DivEntry) :
    joinsPath n next rpc e = true ↔ (e.kind = .held n true ∨ e.kind = .held n false) ∧ e.pc = next ∧ e.rpc = rpc := by
  obtain ⟨kind, pc, mask, r⟩ := e
  cases kind with
  | join => simp [joinsPath]
  | parked => simp [joinsPath]
  | held b rel => cases rel <;> simp [joinsPath, and_assoc]

theorem Group.joinComplete_iff (g : Group) (n : Nat) (arr : Mask) :
    g.joinComplete n arr = true ↔ g.jreg n &&& ~~~(arr ||| g.heldAt n ||| g.exited) = 0 := beq_iff_eq

/-- RJOIN.WAIT with lanes of jN's mask missing is held (R298). -/
theorem rjoinWait_held {c : Ctx} {h : Hdr} {j : BitVec 3} (hq : c.Quiet (.rjoinWait h j)) (hlevel : c.g.trap.level = false)
    (hmissing : c.g.joinComplete j.toNat c.act = false) (hroom : c.s.stackRoom c.g 1 = true) :
    exec (.rjoinWait h j) c.s = .next ((c.s.setGroup c.n (Group.setSlot { c.g with stack :=
      c.g.stack ++ [⟨.held j.toNat false, c.pc + 4, c.path.mask, c.path.rpc⟩] } c.slot none)).fitAreas c.n c.g.inRows) := by
  rw [exec_rjoinWait]
  refine issue_ok_of_quiet hq ?_
  simp only [Ctx.joinWait, hlevel, hmissing, Bool.false_eq_true, if_false]
  exact Ctx.held_ok (Ctx.live_of_quiet hq) hlevel hroom _ _

/-- RJOIN.WAIT with every lane of jN's mask there joins (R298). -/
theorem rjoinWait_joins {c : Ctx} {h : Hdr} {j : BitVec 3} (hq : c.Quiet (.rjoinWait h j)) (hlevel : c.g.trap.level = false)
    (hcomplete : c.g.joinComplete j.toNat c.act = true) :
    exec (.rjoinWait h j) c.s = .next ((c.s.setGroup c.n (Group.setSlot
      { c.g with stack := c.g.stackAfterJoin j.toNat (c.pc + 4) c.path.rpc, j := Tbl.set 0 c.g.j j.toNat 0 } c.slot
      (some { c.path with pc := c.pc + 4, mask := c.g.joinedMask j.toNat c.path (c.pc + 4) }))).fitAreas c.n c.g.inRows) := by
  rw [exec_rjoinWait]
  refine issue_ok_of_quiet hq ?_
  simp only [Ctx.joinWait, hlevel, hcomplete, Bool.false_eq_true, if_false, if_true, Ctx.setG_live (Ctx.live_of_quiet hq), Group.joinPath_program hlevel]

/-- Settles O36: SET and ADD, the two outcomes of RJOIN.WAIT and of BAR at program level, and BAD_FORM at trap level. -/
theorem joinsAndBarriers : Obligations.JoinsAndBarriers := by
  refine ⟨fun c h j => ⟨fun hq => ?_, fun hq => ?_, fun hq hlevel hmissing hroom => ?_, fun hq hlevel hnone => ?_⟩,
    fun c h lvl hq hlevel => ⟨fun hallowed hroom => ?_, fun hrefused => ?_⟩, fun c h j lvl i hi hissues hlevel => ?_⟩
  · rw [exec_rjoinSet]
    exact issue_setG_of_settled hq.1 (Ctx.settled_of_quiet hq) (fun g => { g with j := Tbl.set 0 g.j j.toNat c.act }) rfl rfl
  · rw [exec_rjoinAdd]
    exact issue_setG_of_settled hq.1 (Ctx.settled_of_quiet hq) (fun g => { g with j := Tbl.set 0 g.j j.toNat (g.jreg j.toNat ||| c.act) }) rfl rfl
  · exact rjoinWait_held hq hlevel (by rwa [← Bool.not_eq_true, Group.joinComplete_iff]) hroom
  · refine ⟨_, _, rjoinWait_joins hq hlevel ((Group.joinComplete_iff ..).mpr hnone), fun l _ => ?_, rfl, fun e => joinsPath_iff ..⟩
    simp only [Group.joinedMask_getLsbD, joinsPath_iff]
  · rw [exec_bar]
    refine issue_ok_of_quiet hq ?_
    simp only [Ctx.barrierWait, hlevel, hallowed, Bool.not_true, Bool.false_eq_true, if_false, Ctx.held_ok (Ctx.live_of_quiet hq) hlevel hroom]
    rfl
  · rw [exec_bar]
    refine issue_trap hq.1 (t := ⟨Cause.launchFault, levelNum lvl⟩) (s1 := c.s) ?_
    simp only [Ctx.barrierWait, hlevel, hrefused, Bool.not_false, Bool.false_eq_true, if_false, if_true]
  · rcases List.mem_cons.mp hi with rfl | hi
    · exact issue_trap hissues (body := Ctx.joinWait h j) (if_pos hlevel)
    · obtain rfl := List.mem_singleton.mp hi
      exact issue_trap hissues (body := Ctx.barrierWait h lvl) (if_pos hlevel)

end Sys2Proof.Machine
end

section
/-! Settles O42: ICINV and what it makes old, and LAUNCH up to the hub's acceptance (R165, R268, R305, R323, R339). -/

namespace Sys2Proof.Machine

/-! ### Room for rows where every group keeps its registers -/

/-- The rows of the other groups, by number. -/
theorem State.rowsOthers_eq (s : State) (n : Nat) (g : Group) :
    s.rowsOthers n g = ((List.range s.groups.length).filterMap fun k => (s.group k).bind fun h =>
      if (k != n && s.coreOf h == s.coreOf g) = true then some (Nat.max (s.floorOf h) h.rowsHeld) else none).foldl (· + ·) 0 := by
  unfold State.rowsOthers State.resident
  rw [List.filter_filterMap, List.map_filterMap]
  congr 1
  refine List.filterMap_congr fun k _ => ?_
  cases s.group k with
  | none => rfl
  | some h =>
    simp only [Option.map_some, Option.bind_some, Option.filter_some]
    split <;> rfl

/-- The rows that a group may have stay where every group keeps its team, its width and its registers (R160). -/
theorem State.rowLimit_of_map {s t : State} {f : Group → Group} (hlength : t.groups.length = s.groups.length) (hteams : t.teams = s.teams)
    (hgroup : ∀ k, t.group k = (s.group k).map f) (hkeep : ∀ g, ((f g).team, (f g).width, (f g).v) = (g.team, g.width, g.v)) (n : Nat) (g : Group) :
    t.rowLimit n (f g) = s.rowLimit n g := by
  simp only [Prod.mk.injEq] at hkeep
  have hcore (g : Group) : t.coreOf (f g) = s.coreOf g := by
    obtain ⟨hteam, -, -⟩ := hkeep g
    simp only [State.coreOf, State.teamOf, State.team, hteams, hteam]
  have hfloor (g : Group) : t.floorOf (f g) = s.floorOf g := by
    obtain ⟨hteam, hwidth, -⟩ := hkeep g
    simp only [State.floorOf, State.teamOf, State.team, hteams, hteam, hwidth]
  have hheld (g : Group) : (f g).rowsHeld = g.rowsHeld := by
    obtain ⟨-, hwidth, hregs⟩ := hkeep g
    simp only [Group.rowsHeld, Group.vreg, hwidth, hregs]
  simp only [State.rowLimit, State.rowsOthers_eq, hlength, hgroup, Option.bind_map, Function.comp_def, hcore, hfloor, hheld]

/-! ### What paths have taken of a range of code -/

/-- A group of the address space on one of the cores, with what its paths have taken of the range made old. -/
def State.staled (s : State) (on : Nat → Bool) (asid lo hi : Nat) (g : Group) : Group :=
  if s.asidOf g == asid && on (s.coreOf g) then
    { g with slotA := g.slotA.map (Path.staleCode lo hi), slotB := g.slotB.map (Path.staleCode lo hi) }
  else g

/-- One group's step of `staleCode`. -/
def State.staleOne (on : Nat → Bool) (asid lo hi : Nat) (s : State) (e : Nat × Group) : State :=
  if s.asidOf e.2 == asid && on (s.coreOf e.2) then
    s.setGroup e.1 { e.2 with slotA := e.2.slotA.map (Path.staleCode lo hi), slotB := e.2.slotB.map (Path.staleCode lo hi) }
  else s

section
variable (s : State) (on : Nat → Bool) (asid lo hi : Nat)

theorem State.staleCode_eq : s.staleCode on asid lo hi = s.resident.foldl (State.staleOne on asid lo hi) s := rfl

theorem State.staled_keep (g : Group) : let g' := s.staled on asid lo hi g
    (g'.team, g'.width, g'.v, g'.stack, g'.spilt) = (g.team, g.width, g.v, g.stack, g.spilt) := by
  dsimp only
  unfold State.staled
  split <;> rfl

theorem State.staleOne_staled (e : Nat × Group) : (s.staleOne on asid lo hi e).staled on asid lo hi = s.staled on asid lo hi := by
  unfold State.staleOne
  split <;> rfl

theorem State.staleOne_same {k : Nat} {g : Group} (h : s.group k = some g) :
    (s.staleOne on asid lo hi (k, g)).group k = some (s.staled on asid lo hi g) := by
  unfold State.staleOne State.staled
  split
  · exact State.group_setGroup_same ..
  · exact h

theorem State.staleOne_ne {k : Nat} {e : Nat × Group} (h : k ≠ e.1) : (s.staleOne on asid lo hi e).group k = s.group k := by
  unfold State.staleOne
  split
  · exact State.group_setGroup_ne s _ h
  · rfl

/-- A group that is not listed stays as it is. -/
theorem State.staleAll_unlisted {l : List (Nat × Group)} {k : Nat} (h : k ∉ l.map Prod.fst) :
    (l.foldl (State.staleOne on asid lo hi) s).group k = s.group k := by
  refine List.foldlRecOn (motive := fun t : State => t.group k = s.group k) l _ rfl fun t ht e he => ?_
  have hne : k ≠ e.1 := fun hk => h (hk ▸ List.mem_map_of_mem he)
  rw [State.staleOne_ne t on asid lo hi hne, ht]

variable {s}

/-- A group listed once is made old once. -/
theorem State.staleAll_listed {l : List (Nat × Group)} {k : Nat} {g : Group} (hnodup : (l.map Prod.fst).Nodup) (hmem : (k, g) ∈ l)
    (hg : s.group k = some g) : (l.foldl (State.staleOne on asid lo hi) s).group k = some (s.staled on asid lo hi g) := by
  induction l generalizing s with
  | nil => cases hmem
  | cons e rest ih =>
    obtain ⟨hfirst, hrest⟩ := List.nodup_cons.mp hnodup
    rw [List.foldl_cons]
    rcases List.mem_cons.mp hmem with rfl | hmem
    · rw [State.staleAll_unlisted _ on asid lo hi hfirst, State.staleOne_same s on asid lo hi hg]
    · have hne : k ≠ e.1 := fun hk => hfirst (hk ▸ List.mem_map_of_mem hmem)
      rw [ih hrest hmem ((State.staleOne_ne s on asid lo hi hne).trans hg), State.staleOne_staled]

variable (s)

/-- Group by group, `staleCode` makes old what the paths have taken of the range. -/
theorem State.group_staleCode (k : Nat) : (s.staleCode on asid lo hi).group k = (s.group k).map (s.staled on asid lo hi) := by
  rw [State.staleCode_eq]
  cases hg : s.group k with
  | some g => exact State.staleAll_listed on asid lo hi s.resident_nodup (State.mem_resident.mpr hg) hg
  | none =>
    rw [State.staleAll_unlisted, hg]
    · rfl
    · intro hk
      obtain ⟨⟨j, g⟩, he, rfl⟩ := List.mem_map.mp hk
      rw [State.mem_resident.mp he] at hg
      cases hg

theorem State.length_groups_staleCode : (s.staleCode on asid lo hi).groups.length = s.groups.length := by
  refine List.foldlRecOn (motive := fun t : State => t.groups.length = s.groups.length) _ _ rfl fun t ht e he => ?_
  have hlt : e.1 < t.groups.length := ht ▸ Tbl.lt_of_get _ (State.mem_resident.mp he)
  split
  · exact (Tbl.set_length _ _ _ hlt).trans ht
  · exact ht

theorem State.teams_staleCode : (s.staleCode on asid lo hi).teams = s.teams :=
  List.foldlRecOn (motive := fun t : State => t.teams = s.teams) _ _ rfl fun t ht e _ => by split <;> exact ht

end

/-- Making code old moves no rows and no entries of the issuing group. -/
theorem Ctx.fitAreas_staleCode {c : Ctx} (hl : c.Live) (hr : c.roomy = true) {s : State} (hrun : c.s.SameRun s) (i : Instr) (on : Nat → Bool)
    (asid lo hi : Nat) (had : BitVec 64) :
    (c.advance i (s.staleCode on asid lo hi)).fitAreas c.n had = c.advance i (s.staleCode on asid lo hi) := by
  obtain ⟨-, hgroup, -⟩ := hl
  simp only [Ctx.roomy, Bool.and_eq_true, decide_eq_true_eq, beq_iff_eq] at hr
  obtain ⟨hrows, hplaces⟩ := hr
  have hkeep := s.staled_keep on asid lo hi
  simp only [Prod.mk.injEq] at hkeep
  have hg : (s.staleCode on asid lo hi).group c.n = some (s.staled on asid lo hi c.g) := by
    rw [State.group_staleCode, hrun.group, hgroup]
    rfl
  have hlimit : 128 ≤ (s.staleCode on asid lo hi).rowLimit c.n (s.staled on asid lo hi c.g) := by
    rw [State.rowLimit_of_map (s.length_groups_staleCode on asid lo hi) (s.teams_staleCode on asid lo hi) (s.group_staleCode on asid lo hi)
      fun g => by
        obtain ⟨hteam, hwidth, hv, -⟩ := hkeep g
        rw [hteam, hwidth, hv], hrun.rowLimit]
    exact hrows
  have hspilt : (s.staled on asid lo hi c.g).spiltNow = (s.staled on asid lo hi c.g).spilt := by
    obtain ⟨-, hwidth, -, hstack, hspilt⟩ := hkeep c.g
    rw [Group.spiltNow_congr (g := c.g) (by rw [hwidth, hstack, hspilt]), hspilt, hplaces]
  have hadvance : c.advance i (s.staleCode on asid lo hi) = (s.staleCode on asid lo hi).setGroup c.n ((s.staled on asid lo hi c.g).setSlot c.slot
      (((s.staled on asid lo hi c.g).slot c.slot).map fun p => { p with pc := c.pc + BitVec.ofNat 64 (4 * i.words) })) := by
    simp only [Ctx.advance, Ctx.setPath, hg]
  rw [hadvance]
  refine State.fitAreas_setGroup hg hlimit hspilt ?_ had
  cases c.slot <;> rfl

/-- A loop's buffer over the range is old, and a slice over it yields no recipe (R165, R268, R305). -/
theorem Path.staleCode_eq (p : Path) (lo hi : Nat) : Path.staleCode lo hi p = { p with
    loop := p.loop.map fun (l : LoopRec) => { l with old := l.old || decide (lo < l.stop.toNat ∧ l.start.toNat < hi) }
    slice := p.slice.map fun (r : SliceRun) =>
      { r with ok := r.ok && !decide (lo < r.first.toNat + 4 * r.words.length ∧ r.first.toNat < hi) } } := by
  simp only [Path.staleCode, rangesMeet, Bool.decide_and]

/-! ### ICINV (R339) -/

/-- Where no group of the address space holds a recipe over the range, none is taken away. -/
theorem State.dropCode_of_none {s : State} {asid lo hi : Nat} (h : ∀ e ∈ s.resident, s.asidOf e.2 = asid → e.2.recipesIn lo hi = []) (l : List Nat) :
    s.dropCode asid lo hi l = (0, .ok s State.writeRegs.default0) := by
  induction l with
  | nil => rfl
  | cons n rest ih =>
    unfold State.dropCode
    cases hg : s.group n with
    | none => exact ih
    | some g =>
      have hnone : (s.asidOf g != asid || (g.recipesIn lo hi).isEmpty) = true := by
        by_cases hasid : s.asidOf g = asid
        · simp [h (n, g) (State.mem_resident.mpr hg) hasid]
        · simp [hasid]
      simp only [hnone, if_true, ih]

/-- Once the group's stores have performed and the recipes are gone, ICINV drops the words of the range and makes old what was taken of them. -/
theorem Ctx.icinv_ok {c : Ctx} (i : Instr) {lo hi m : Nat} {s1 : State} {g1 : Group} (hstores : c.g.storesDone = true)
    (hdrop : c.s.dropCode (c.s.asidOf c.g) lo hi (List.range c.s.groups.length) = (m, .ok s1 g1)) :
    c.icinv i lo hi = .ok (c.advance i ((s1.dropCached (c.s.asidOf c.g) lo hi).staleCode (fun _ => true) (c.s.asidOf c.g) lo hi)) := by
  simp only [Ctx.icinv, hstores, hdrop, Bool.not_true, Bool.false_eq_true, if_false]
  rfl

/-- What ICINV answers over a range, by whether a group of the address space holds a recipe there. -/
theorem exec_icinv_range {c : Ctx} {i : Instr} {lo hi : Nat} {body : Ctx → Res} (hexec : exec i c.s = issue i c.s body) (hbody : body c = c.icinv i lo hi)
    (hstores : c.g.storesDone = true) (hissues : c.Issues i) (hs : c.settled) :
    let asid := c.s.asidOf c.g
    let dropped := fun (s : State) => c.advance i ((s.dropCached asid lo hi).staleCode (fun _ => true) asid lo hi)
    (∀ m s1 g1, c.s.dropCode asid lo hi (List.range c.s.groups.length) = (m, .ok s1 g1) → exec i c.s = .next ((dropped s1).fitAreas c.n c.g.inRows)) ∧
      ((∀ e ∈ c.s.resident, c.s.asidOf e.2 = asid → e.2.recipesIn lo hi = []) → exec i c.s = .next (dropped c.s)) := by
  intro asid dropped
  have hissue (m : Nat) (s1 : State) (g1 : Group) (hdrop : c.s.dropCode asid lo hi (List.range c.s.groups.length) = (m, .ok s1 g1)) :
      exec i c.s = .next ((dropped s1).fitAreas c.n c.g.inRows) :=
    hexec.trans (issue_ok_of_settled hissues hs (hbody.trans (Ctx.icinv_ok i hstores hdrop)))
  obtain ⟨-, -, hroomy⟩ := id hs
  have hrun : c.s.SameRun (c.s.dropCached asid lo hi) := ⟨rfl, rfl, rfl⟩
  have hfit : (dropped c.s).fitAreas c.n c.g.inRows = dropped c.s :=
    Ctx.fitAreas_staleCode hissues.1 hroomy hrun i (fun _ => true) asid lo hi c.g.inRows
  exact ⟨hissue, fun hnone => (hissue 0 c.s State.writeRegs.default0 (State.dropCode_of_none hnone _)).trans (congrArg Host.Outcome.next hfit)⟩

theorem exec_icinv (h : Hdr) (an : BitVec 4) (s : State) : exec (.icinv h an) s = issue (.icinv h an) s fun c =>
    c.icinv (.icinv h an) (c.g.areg an).base.toNat ((c.g.areg an).base.toNat + (c.g.areg an).length.toNat) := rfl
theorem exec_icinvAll (h : Hdr) (s : State) : exec (.icinvAll h) s = issue (.icinvAll h) s fun c => c.icinv (.icinvAll h) 0 (2 ^ 64) := rfl

/-! ### LAUNCH (R323) -/

/-- The end of restart-safety is a matter of the group's team alone (R349). -/
theorem State.endSafe_eq (s : State) (g : Group) : s.endSafe g = { s with teams := (s.endSafe g).teams } := by
  unfold State.endSafe
  split
  · split <;> rfl
  · rfl

theorem State.teamOf_endSafe {s : State} {g : Group} {t : Team} (h : s.teamOf g = some t) : (s.endSafe g).teamOf g = some { t with safe := false } := by
  have hteam : s.team g.team = some t := h
  rw [State.endSafe, hteam]
  dsimp only
  split
  · exact Tbl.get_set_same ..
  · next hunsafe => rw [h, ← Bool.eq_false_iff.mpr hunsafe]

/-- What LAUNCH does once its operands are formed. -/
def Ctx.submit (c : Ctx) (h : Hdr) (vp : BitVec 6) (prio : BitVec 8) (s : State) (view : Group) : Res :=
  if c.act == 0 then c.done (.launch h vp prio) s
  else if view.badN vp 2 c.low then .trap ⟨Cause.poison, c.low⟩ s
  else
    let img := view.rd2 vp c.low
    let base := match c.team, c.s.launchOf c.g with
      | some t, some l => ((l.runs[t.node]?).map NodeRun.prio).getD 0
      | _, _ => 0
    if img.toNat % 256 != 0 then .trap ⟨Cause.misalign, img.toNat⟩ s
    else c.sleep (s.endSafe c.g) (.launch c.slot img (Nat.min prio.toNat base))

theorem exec_launch (h : Hdr) (vp : BitVec 6) (prio : BitVec 8) (s : State) :
    exec (.launch h vp prio) s = issue (.launch h vp prio) s fun c => c.withForm (.launch h vp prio) (c.submit h vp prio) := rfl

/-- The state in which the group sleeps in its LAUNCH (R323). -/
def Ctx.submitted (c : Ctx) (img : DWord) (q : Nat) : State :=
  { ((c.s.endSafe c.g).setGroup c.n { c.g with asleep := some (.launch c.slot img q) }) with chain := 0 }

section
variable {c : Ctx} {h : Hdr} {vp : BitVec 6} {prio : BitVec 8} {t : Team} {l : Launch} {r : NodeRun}

/-- An aligned image leaves the group asleep with the smaller priority. -/
theorem exec_launch_aligned (hq : c.Quiet (.launch h vp prio)) (hteam : c.team = some t) (hlaunch : c.s.launchOf c.g = some l)
    (hnode : l.runs[t.node]? = some r) (hact : c.act ≠ 0) (hclean : c.g.badN vp 2 c.low = false) (haligned : (c.g.rd2 vp c.low).toNat % 256 = 0) :
    exec (.launch h vp prio) c.s = .next (c.submitted (c.g.rd2 vp c.low) (min prio.toNat r.prio)) := by
  have hsome : (c.act == 0) = false := beq_eq_false_iff_ne.mpr hact
  have hg : (c.s.endSafe c.g).group c.n = some c.g := by
    rw [State.endSafe_eq]
    exact Ctx.group_of_quiet hq
  rw [exec_launch, issue_body hq.1, Ctx.withForm_plain (Ctx.plain_of_quiet hq)]
  simp only [Ctx.submit, hsome, hclean, hteam, hlaunch, hnode, haligned, Bool.false_eq_true, if_false, bne_self_eq_false, Option.map_some, Option.getD_some,
    Ctx.sleep, Ctx.setG, hg]
  rfl

theorem exec_launch_misaligned (hq : c.Quiet (.launch h vp prio)) (hact : c.act ≠ 0) (hclean : c.g.badN vp 2 c.low = false)
    (hmisaligned : (c.g.rd2 vp c.low).toNat % 256 ≠ 0) :
    exec (.launch h vp prio) c.s = .next (c.s.takeTrap c.n c.slot ⟨0x06, c.g.rd2 vp c.low, c.pc, false⟩) := by
  have hsome : (c.act == 0) = false := beq_eq_false_iff_ne.mpr hact
  have hbad : ((c.g.rd2 vp c.low).toNat % 256 != 0) = true := bne_iff_ne.mpr hmisaligned
  rw [exec_launch, issue_trap hq.1 (t := ⟨Cause.misalign, (c.g.rd2 vp c.low).toNat⟩) (s1 := c.s)]
  · simp only [BitVec.ofNat_toNat, BitVec.setWidth_eq]
    rfl
  · rw [Ctx.withForm_plain (Ctx.plain_of_quiet hq)]
    simp only [Ctx.submit, hsome, hclean, hbad, Bool.false_eq_true, if_false, if_true]

/-- The hub takes an image that it can read for a launch that runs, and the group goes on (R323). -/
theorem exec_launchAccept_submitted {x : ImageRead} {s1 : State} {img : DWord} {q : Nat} (hteam : c.team = some t) (hlaunch : c.s.launchOf c.g = some l)
    (hruns : c.s.launchRuns l = true) (hread : (c.submitted img q).readImage l.asid c.s.launches.length img.toNat (some t.launch) = .ok x s1) :
    exec (.launchAccept c.n) (c.submitted img q) =
      .next ((s1.hubDone.accept x l.asid l.part l.queue img.toNat (some t.launch) q none).wake c.n c.slot 1) := by
  have hg : (c.submitted img q).group c.n = some { c.g with asleep := some (.launch c.slot img q) } := State.group_setGroup_same ..
  have hteam' : (c.submitted img q).teamOf { c.g with asleep := some (.launch c.slot img q) } = some { t with safe := false } := State.teamOf_endSafe hteam
  have hlaunches : (c.submitted img q).launches = c.s.launches := by rw [Ctx.submitted, State.endSafe_eq]; rfl
  have hlaunch' : (c.submitted img q).launchOf { c.g with asleep := some (.launch c.slot img q) } = some l := by
    have hof : c.s.launch t.launch = some l := by
      rw [State.launchOf, show c.s.teamOf c.g = some t from hteam] at hlaunch
      exact hlaunch
    rw [State.launchOf, hteam', Option.bind_some, State.launch, hlaunches]
    exact hof
  have hruns' : (c.submitted img q).launchRuns l = true := by rw [Ctx.submitted, State.endSafe_eq]; exact hruns
  change Host.Outcome.next _ = _
  simp only [hg, State.answerLaunch, hteam', hlaunch', hruns', hlaunches, hread, Bool.not_true, Bool.false_eq_true, if_false]

theorem exec_launch_idle (hq : c.Quiet (.launch h vp prio)) (hact : c.act = 0) :
    exec (.launch h vp prio) c.s = .next (c.advance (.launch h vp prio) c.s) := by
  rw [exec_launch]
  refine issue_done hq ?_
  rw [Ctx.withForm_plain (Ctx.plain_of_quiet hq)]
  exact if_pos (beq_iff_eq.mpr hact)

end

/-- Settles O42: both forms of ICINV, the group that they make old, and LAUNCH submitted, accepted, misaligned and idle. -/
theorem cacheInvalidationAndLaunch : Obligations.CacheInvalidationAndLaunch := by
  refine ⟨fun c h an => ?_, fun s asid lo hi n g hg _ => ?_, fun p lo hi => Path.staleCode_eq p lo hi, fun c h vp prio t l r => ?_⟩
  · intro asid base dropped hstores x hx
    rcases List.mem_cons.mp hx with rfl | hx
    · exact ⟨fun m s1 g1 hi hs => (exec_icinv_range (exec_icinv ..) rfl hstores hi hs).1 m s1 g1,
        fun hi hs => (exec_icinv_range (exec_icinv ..) rfl hstores hi hs).2⟩
    · obtain rfl := List.mem_singleton.mp hx
      exact ⟨fun m s1 g1 hi hs => (exec_icinv_range (exec_icinvAll ..) rfl hstores hi hs).1 m s1 g1,
        fun hi hs => (exec_icinv_range (exec_icinvAll ..) rfl hstores hi hs).2⟩
  · simp only [State.group_staleCode, hg, Option.map_some, State.staled, Bool.and_true, beq_iff_eq]
  · intro i img q asleep hq hteam hlaunch hnode
    exact ⟨fun hact hclean haligned => ⟨exec_launch_aligned hq hteam hlaunch hnode hact hclean haligned,
        fun x s1 hruns hread => exec_launchAccept_submitted hteam hlaunch hruns hread⟩,
      exec_launch_misaligned hq, exec_launch_idle hq⟩

end Sys2Proof.Machine
end

section
/-! Settles O3: VOTE, SHFL and REDUX (R180 to R182). -/

namespace Sys2Proof.Machine

/-! ### Lanes of masks -/

/-- The lanes of a mask that also stand in another. -/
theorem Mask.lanes_and (m act : Mask) : (m &&& act).lanes = act.lanes.filter fun l => m.getLsbD l := by
  simp only [Mask.lanes, List.filter_filter, BitVec.getLsbD_and]

theorem Mask.filter_range_and (m act : Mask) : ((List.range 64).filter fun l => act.getLsbD l && m.getLsbD l) = (m &&& act).lanes := by
  simp only [Mask.lanes, BitVec.getLsbD_and, Bool.and_comm]

theorem Mask.length_lanes_eq_zero (m : Mask) : m.lanes.length = 0 ↔ m = 0 := by
  refine ⟨fun h => ?_, fun h => h ▸ rfl⟩
  by_contra hne
  exact Mask.lanes_ne_nil hne (List.length_eq_zero_iff.mp h)

/-- A mask keeps as many lanes within another as that one has exactly where it covers it. -/
theorem Mask.length_lanes_and_eq (m act : Mask) : (m &&& act).lanes.length = act.lanes.length ↔ m &&& act = act := by
  refine ⟨fun h => BitVec.eq_of_getLsbD_eq fun l hl => ?_, fun h => by rw [h]⟩
  rw [Mask.lanes_and, List.length_filter_eq_length_iff] at h
  have hcover : act.getLsbD l = true → m.getLsbD l = true := fun hact => h l ((Mask.mem_lanes ..).mpr ⟨hl, hact⟩)
  rw [BitVec.getLsbD_and]
  cases hact : act.getLsbD l with
  | false => exact Bool.and_false _
  | true => rw [hcover hact, Bool.and_true]

/-- Some active lane stands in a mask exactly where the two masks meet. -/
theorem Mask.any_and (m act : Mask) : ((List.range 64).any fun l => act.getLsbD l && m.getLsbD l) = ((m &&& act) != 0) := by
  rw [Bool.eq_iff_iff, bne_iff_ne, ne_eq, ← Mask.length_lanes_eq_zero, ← Mask.filter_range_and, List.length_eq_zero_iff, List.filter_eq_nil_iff]
  simp

theorem getLsbD_wordOfBits (f : Nat → Bool) {k : Nat} (hk : k < 32) : (wordOfBits f).getLsbD k = f k := by
  have hk64 : k < 64 := by omega
  rw [wordOfBits, BitVec.getLsbD_setWidth, Mask.getLsbD_ofFn]
  simp [hk, hk64]

/-! ### VOTE (R180) -/

theorem boolWord_eq {b : Bool} {p : Prop} [Decidable p] (h : b = true ↔ p) : boolWord b = if p then 1 else 0 := by
  unfold boolWord
  simp only [h]

/-- The half of a mask that BALLOT gives a lane, bit by bit. -/
theorem wordOfBits_ballot (m : Mask) (l : Nat) :
    wordOfBits (fun j => m.lanes.contains (if l < 32 then j else 32 + j)) = if l < 32 then m.setWidth 32 else m.extractLsb' 32 32 := by
  refine BitVec.eq_of_getLsbD_eq fun k hk => ?_
  have hbit (i : Nat) (hi : i < 64) : m.lanes.contains i = m.getLsbD i := by
    rw [Bool.eq_iff_iff, List.contains_iff_mem, Mask.mem_lanes, and_iff_right hi]
  rw [getLsbD_wordOfBits _ hk]
  split
  · rw [hbit k (by omega), BitVec.getLsbD_setWidth, decide_eq_true hk, Bool.true_and]
  · rw [hbit (32 + k) (by omega), BitVec.getLsbD_extractLsb', decide_eq_true hk, Bool.true_and]

/-- VOTE writes the rule's value in every lane. -/
theorem effVote_rule (g : Group) (act : Mask) (h : Hdr) (vd : BitVec 6) (p : BitVec 3) (kind : VoteKind) : ∃ f : Nat → Word × Bool,
    effVote g act vd p kind = .ok ⟨[.lanes vd.toNat ((List.range g.w).map f)], []⟩ ∧
      ∀ l, ruleAcross g act l (.vote h vd p kind) = some (vd.toNat, f l) := by
  have hcount : ((List.range 64).filter fun l => act.getLsbD l).length = act.lanes.length := rfl
  simp only [ruleAcross, Mask.filter_range_and, Mask.any_and, hcount]
  cases kind with
  | all => exact ⟨_, rfl, fun l => by rw [boolWord_eq (beq_iff_eq.trans (Mask.length_lanes_and_eq ..).symm)]⟩
  | any => exact ⟨_, rfl, fun l => by rw [boolWord_eq (bne_iff_ne.trans (not_congr (Mask.length_lanes_eq_zero _)).symm)]⟩
  | ballot => exact ⟨_, rfl, fun l => by rw [wordOfBits_ballot]⟩
  | count => exact ⟨_, rfl, fun l => rfl⟩
  | eq =>
    refine ⟨_, rfl, fun l => ?_⟩
    rw [boolWord_eq (p := (g.pred p &&& act).lanes.length = 0 ∨ (g.pred p &&& act).lanes.length = act.lanes.length)]
    simp only [Bool.or_eq_true, beq_iff_eq, Mask.length_lanes_eq_zero, Mask.length_lanes_and_eq]

/-! ### SHFL (R181) -/

/-- SHFL, with no reserved pattern, writes the rule's value in every lane. -/
theorem effShfl_rule {g : Group} {sel : BitVec 2} (hpattern : (patternLane (g.pattern sel) g.w 0).isSome = true) (act : Mask) (h : Hdr)
    (vd va vb : BitVec 6) : ∃ f : Nat → Word × Bool, effShfl g act vd va vb sel = .ok ⟨[.lanes vd.toNat ((List.range g.w).map f)], []⟩ ∧
      ∀ l, ruleAcross g act l (.shfl h vd va vb sel) = some (vd.toNat, f l) := by
  have hclean : g.patternTrap act [sel] = none := by
    rw [Group.patternTrap, Option.isNone_eq_false_iff.mpr hpattern]
    simp [Group.patternTrap]
  exact ⟨_, by rw [effShfl, hclean], fun l => rfl⟩

/-! ### REDUX (R182) -/

theorem reduxOp_radd_ofInt (x : Int) (w : Word) : reduxOp .radd (BitVec.ofInt 32 x) w = BitVec.ofInt 32 (x + w.toInt) := by
  rw [BitVec.ofInt_add, BitVec.ofInt_toInt]
  rfl

theorem toInt_reduxOp_rmin (a b : Word) : (reduxOp .rmin a b).toInt = min a.toInt b.toInt := by
  simp only [reduxOp, minMax, min_def]
  split <;> rfl

theorem toInt_reduxOp_rmax (a b : Word) : (reduxOp .rmax a b).toInt = max a.toInt b.toInt := by
  simp only [reduxOp, minMax, max_def]
  split <;> rfl

section
variable (ws : List Word)

/-- A reduction that follows an operation on signed values gives the word of that operation's result. -/
theorem foldl_of_toInt {op : ReduxOp} {f : Int → Int → Int} (hop : ∀ a b, (reduxOp op a b).toInt = f a.toInt b.toInt) (a : Word) :
    ws.foldl (reduxOp op) a = BitVec.ofInt 32 ((ws.map BitVec.toInt).foldl f a.toInt) := by
  rw [List.foldl_map, List.foldl_hom BitVec.toInt (g₁ := reduxOp op) fun x w => (hop x w).symm, BitVec.ofInt_toInt]

/-- The sum of words is that of their signed values, modulo 2^32. -/
theorem foldl_radd : ws.foldl (reduxOp .radd) (reduxNeutral .radd) = BitVec.ofInt 32 ((ws.map BitVec.toInt).foldl (· + ·) 0) := by
  rw [List.foldl_map]
  exact List.foldl_hom (init := 0) (BitVec.ofInt 32) reduxOp_radd_ofInt

theorem foldl_rmin : ws.foldl (reduxOp .rmin) (reduxNeutral .rmin) = BitVec.ofInt 32 ((ws.map BitVec.toInt).foldl min 2147483647) :=
  foldl_of_toInt ws toInt_reduxOp_rmin _

theorem foldl_rmax : ws.foldl (reduxOp .rmax) (reduxNeutral .rmax) = BitVec.ofInt 32 ((ws.map BitVec.toInt).foldl max (-2147483648)) :=
  foldl_of_toInt ws toInt_reduxOp_rmax _

section
variable (a : Word) (k : Nat)

theorem getLsbD_foldl_rand : (ws.foldl (reduxOp .rand) a).getLsbD k = (a.getLsbD k && ws.all fun w => w.getLsbD k) := by
  induction ws generalizing a with
  | nil => simp
  | cons w ws ih => rw [List.foldl_cons, ih, reduxOp, BitVec.getLsbD_and, List.all_cons, Bool.and_assoc]

theorem getLsbD_foldl_ror : (ws.foldl (reduxOp .ror) a).getLsbD k = (a.getLsbD k || ws.any fun w => w.getLsbD k) := by
  induction ws generalizing a with
  | nil => simp
  | cons w ws ih => rw [List.foldl_cons, ih, reduxOp, BitVec.getLsbD_or, List.any_cons, Bool.or_assoc]

theorem getLsbD_foldl_rxor : (ws.foldl (reduxOp .rxor) a).getLsbD k = (a.getLsbD k ^^ (ws.countP fun w => w.getLsbD k) % 2 == 1) := by
  induction ws generalizing a with
  | nil => simp
  | cons w ws ih =>
    rw [List.foldl_cons, ih, List.countP_cons, reduxOp, BitVec.getLsbD_xor, Bool.xor_assoc]
    congr 1
    cases w.getLsbD k <;> rcases Nat.mod_two_eq_zero_or_one (ws.countP fun w => w.getLsbD k) with h | h <;> simp [h, Nat.add_mod]

end

/-- Bit k of the conjunction is set where every word has it. -/
theorem foldl_rand : ws.foldl (reduxOp .rand) (reduxNeutral .rand) = wordOfBits fun k => ws.all fun w => w.getLsbD k := by
  have hones : reduxNeutral .rand = BitVec.allOnes 32 := rfl
  refine BitVec.eq_of_getLsbD_eq fun k hk => ?_
  rw [getLsbD_wordOfBits _ hk, getLsbD_foldl_rand, hones, BitVec.getLsbD_allOnes, decide_eq_true hk, Bool.true_and]

/-- Bit k of the disjunction is set where some word has it. -/
theorem foldl_ror : ws.foldl (reduxOp .ror) (reduxNeutral .ror) = wordOfBits fun k => ws.any fun w => w.getLsbD k := by
  refine BitVec.eq_of_getLsbD_eq fun k hk => ?_
  have hzero : (reduxNeutral .ror).getLsbD k = false := BitVec.getLsbD_zero
  rw [getLsbD_wordOfBits _ hk, getLsbD_foldl_ror, hzero, Bool.false_or]

/-- Bit k of the exclusive disjunction is the parity of the words that have it. -/
theorem foldl_rxor : ws.foldl (reduxOp .rxor) (reduxNeutral .rxor) = wordOfBits fun k => (ws.countP fun w => w.getLsbD k) % 2 == 1 := by
  refine BitVec.eq_of_getLsbD_eq fun k hk => ?_
  have hzero : (reduxNeutral .rxor).getLsbD k = false := BitVec.getLsbD_zero
  rw [getLsbD_wordOfBits _ hk, getLsbD_foldl_rxor, hzero, Bool.false_xor]

end

/-- REDUX writes the combined word in every lane. -/
theorem effRedux_rule (g : Group) (act : Mask) (h : Hdr) (vd va : BitVec 6) (op : ReduxOp) : ∃ f : Nat → Word × Bool,
    effRedux g act vd va op = .ok ⟨[.lanes vd.toNat ((List.range g.w).map f)], []⟩ ∧
      ∀ l, ruleAcross g act l (.redux h vd va op) = some (vd.toNat, f l) := by
  have hlanes : (List.range 64).filter (fun l => act.getLsbD l) = act.lanes := rfl
  refine ⟨_, rfl, fun l => ?_⟩
  cases op <;> simp only [ruleAcross, hlanes, foldl_radd, foldl_rmin, foldl_rmax, foldl_rand, foldl_ror, foldl_rxor, List.map_map, List.all_map,
    List.any_map, List.countP_map, Function.comp_def]

/-! ### Any of the three -/

/-- Each of them makes one write of vd, whose value in a lane is the rule's. -/
theorem exec_across_write {c : Ctx} {i : Instr} (hpat : c.patternsOk i = true) (hrule : (ruleAcross c.g c.act 0 i).isSome = true) :
    ∃ (eff : Group → Mask → Except Trap Eff) (vd : BitVec 6) (f : Nat → Word × Bool),
      exec i c.s = issue i c.s (fun c => c.runEff i eff) ∧ eff c.g c.act = .ok ⟨[.lanes vd.toNat ((List.range c.g.w).map f)], []⟩ ∧
      writes i = Foot.v1 vd ∧ ∀ l, ruleAcross c.g c.act l i = some (vd.toNat, f l) := by
  cases i with
  | vote h vd p kind =>
    obtain ⟨f, heff, hf⟩ := effVote_rule c.g c.act h vd p kind
    exact ⟨_, vd, f, rfl, heff, rfl, hf⟩
  | shfl h vd va vb sel =>
    obtain ⟨f, heff, hf⟩ := effShfl_rule (List.all_eq_true.mp hpat sel (List.mem_singleton_self _)) c.act h vd va vb
    exact ⟨_, vd, f, rfl, heff, rfl, hf⟩
  | redux h vd va op =>
    obtain ⟨f, heff, hf⟩ := effRedux_rule c.g c.act h vd va op
    exact ⟨_, vd, f, rfl, heff, rfl, hf⟩
  | _ => cases hrule

/-- Settles O3: the effect of each is one write of the rule's values, made in the active lanes alone. -/
theorem acrossLaneResults : Obligations.AcrossLaneResults := by
  intro c i hq hpat hrule
  obtain ⟨eff, vd, f, hexec, heff, hwrites, hf⟩ := exec_across_write hpat hrule
  have hunder := Ctx.under_plain (Ctx.plain_of_quiet hq)
  have hwidth := Group.width_le hunder.width
  refine ⟨_, hexec.trans (issue_write hq heff rfl), ?_, fun l x hl hact hx => ?_⟩
  · exact Group.sameBut_apply hunder rfl (hwrites ▸ (Foot.v1_getLsbD vd.isLt).mpr rfl)
  · obtain rfl := Option.some.inj ((hf l).symm.trans hx)
    rw [Group.rdp_apply hunder rfl, if_pos ⟨rfl, hl, hact⟩]
    exact (Tbl.get_map_range (0, false) f c.g.w l).trans (if_pos (by omega))

end Sys2Proof.Machine
end

section
/-! Settles O26: MFS and MTS (R188 to R190, R370). -/

namespace Sys2Proof.Machine

/-! ### The value that MFS reads (R189, R370) -/

/-- But for HUSKSTAT a special register's value is the rule's number, in 64 bits. -/
theorem State.special_eq (s : State) (g : Group) (l : Nat) {sr : SReg} (h : sr ≠ .huskstat) :
    s.special g sr l = BitVec.ofNat 64 (ruleSpecial s g l sr) := by
  have hteam : s.teamOf g = s.team g.team := rfl
  have htrap (b : Bool) {n : Nat} (x : BitVec n) : (if b then x.setWidth 64 else (0 : DWord)) = BitVec.ofNat 64 (if b then x.toNat else 0) := by
    cases b
    · rfl
    · exact (BitVec.ofNat_toNat ..).symm
  cases sr with
  | huskstat => exact absurd rfl h
  | teamid =>
    simp only [State.special, ruleSpecial, hteam]
    cases s.team g.team with
    | none => rfl
    | some t => exact (BitVec.ofNat_toNat ..).symm
  | trapcause => exact htrap g.trap.level g.trap.cause
  | trappc => exact (BitVec.setWidth_eq g.trap.pc ▸ htrap g.trap.level g.trap.pc :)
  | trapinfo => exact (BitVec.setWidth_eq g.trap.info ▸ htrap g.trap.level g.trap.info :)
  | pkg | foldpol | matcnt | rngs | x0 | x1 | x2 => exact (BitVec.ofNat_toNat ..).symm
  | laneid | groupid | nodeid | core | quad | die | nlanes | cycle | heartbeat => rfl

/-- The husk status word is the rule's sum of its fields, whatever their sizes. -/
theorem Group.huskStat_eq (s : State) (g : Group) (l : Nat) : g.huskStat = BitVec.ofNat 32 (ruleSpecial s g l .huskstat) := by
  simp only [Group.huskStat, ruleSpecial]
  congr 1
  cases g.husk with
  | none =>
    dsimp only
    omega
  | some x =>
    dsimp only
    split <;> omega

/-- A register of 64 bits is read whole. -/
theorem State.special_of_wide (s : State) (g : Group) (l : Nat) {sr : SReg} (hwide : sr.wide = true) :
    s.special g sr l = BitVec.ofNat 64 (ruleSpecial s g l sr) :=
  State.special_eq s g l fun h => by rw [h] at hwide; cases hwide

/-- Of every register the low 32 bits are the rule's. -/
theorem State.setWidth_special (s : State) (g : Group) (l : Nat) (sr : SReg) :
    (s.special g sr l).setWidth 32 = BitVec.ofNat 32 (ruleSpecial s g l sr) := by
  by_cases hhusk : sr = .huskstat
  · subst hhusk
    rw [← Group.huskStat_eq, State.special, BitVec.setWidth_setWidth_of_le _ (by decide), BitVec.setWidth_eq]
  · rw [State.special_eq s g l hhusk, BitVec.setWidth_ofNat_of_le (by decide)]

/-! ### MFS (R188) -/

/-- What MFS writes in each active lane. -/
def mfsEff (s : State) (g : Group) (act : Mask) (h : Hdr) (vd : BitVec 6) (sr : SReg) : Eff :=
  if sr.wide then pairEff h g act vd fun l => (s.special g sr l, false) else lanesEff h g act vd fun l => ((s.special g sr l).setWidth 32, false)

theorem exec_mfs (h : Hdr) (vd : BitVec 6) (sr : SReg) (s : State) :
    exec (.mfs h vd sr) s = issue (.mfs h vd sr) s fun c => c.commit (.mfs h vd sr) c.s (mfsEff c.s c.g c.act h vd sr) := rfl

theorem lanesEff_counts (h : Hdr) (g : Group) (act : Mask) (vd : BitVec 6) (f : Nat → Word × Bool) : (lanesEff h g act vd f).counts = [] := by
  unfold lanesEff
  split
  · split <;> rfl
  · rfl

theorem mfsEff_counts (s : State) (g : Group) (act : Mask) (h : Hdr) (vd : BitVec 6) (sr : SReg) : (mfsEff s g act h vd sr).counts = [] := by
  unfold mfsEff
  split
  · rfl
  · exact lanesEff_counts ..

/-- MFS makes its writes and takes the path on. -/
theorem exec_mfs_writes {c : Ctx} {h : Hdr} {vd : BitVec 6} {sr : SReg} (hq : c.Quiet (.mfs h vd sr)) : exec (.mfs h vd sr) c.s =
    .next (c.after (.mfs h vd sr) (c.g.applyAll c.act c.full (mfsEff c.s c.g c.act h vd sr).writes)) := by
  have heff : mfsEff c.s c.g c.act h vd sr = ⟨(mfsEff c.s c.g c.act h vd sr).writes, []⟩ := by
    rw [← mfsEff_counts c.s c.g c.act h vd sr]
  rw [exec_mfs]
  refine issue_after_of_settled hq.1 (Ctx.settled_of_quiet hq) (Group.applyAll_same ..) ?_
  rw [heff]
  exact Ctx.commit_plain (Ctx.plain_of_quiet hq) _ (Ctx.group_of_quiet hq) _

section
variable {g : Group} {act : Mask} {full : Bool} (hu : g.Under act full) (h : Hdr) (vd : BitVec 6) (f : Nat → Word × Bool)
include hu

/-- A single register's effect stays within that register. -/
theorem Group.sameBut_lanesEff : g.SameBut (g.applyAll act full (lanesEff h g act vd f).writes) act (Foot.v1 vd) :=
  Group.sameBut_applyAll hu fun w hw => ⟨_, lanesEff_vreg w hw, (Foot.v1_getLsbD vd.isLt).mpr rfl⟩

/-- A single register's effect gives every active lane its value (R40). -/
theorem Group.rdp_lanesEff {l : Nat} (hl : l < g.width) (hact : act.getLsbD l = true) :
    (g.applyAll act full (lanesEff h g act vd f).writes).rdp vd.toNat l = f (if h.u then act.lowest.getD 0 else l) := by
  obtain ⟨w, hwrites, hreg, hval⟩ := lanesEff_of_active (h := h) hu.width vd f hact
  rw [hwrites, Group.rdp_applyAll hu (by simp [hreg]) (List.pairwise_singleton ..) (List.mem_singleton_self w) hreg hl hact, hval l hl]

end

/-- MFS gives its destination the rule's value, a pair for a register of 64 bits (R188, R189). -/
theorem exec_mfs_special {c : Ctx} {h : Hdr} {vd : BitVec 6} {sr : SReg} (hq : c.Quiet (.mfs h vd sr)) (hwf : (Instr.mfs h vd sr).wellFormed = true) :
    ∃ g', exec (.mfs h vd sr) c.s = .next (c.after (.mfs h vd sr) g') ∧ c.g.SameBut g' c.act (writes (.mfs h vd sr)) ∧
      ∀ l, l < c.g.width → c.act.getLsbD l = true →
        let v := ruleSpecial c.s c.g (c.laneOf (.mfs h vd sr) l) sr
        if sr.wide then g'.rd2 vd l = BitVec.ofNat 64 v else g'.rd vd l = BitVec.ofNat 32 v := by
  have hunder := Ctx.under_plain (Ctx.plain_of_quiet hq)
  refine ⟨_, exec_mfs_writes hq, ?_⟩
  simp only [mfsEff, writes]
  cases hwide : sr.wide with
  | true =>
    have heven : evenReg vd = true := by simpa [Instr.wellFormed, hwide] using hwf
    exact ⟨Group.sameBut_applyAll hunder (pairEff_vreg heven), fun l hl hact =>
      (rd2_pairEff hunder heven _ hl hact).trans (State.special_of_wide c.s c.g _ hwide)⟩
  | false =>
    exact ⟨Group.sameBut_lanesEff hunder h vd _, fun l hl hact =>
      (congrArg Prod.fst (Group.rdp_lanesEff hunder h vd _ hl hact)).trans (State.setWidth_special c.s c.g _ sr)⟩

/-! ### MTS (R188 to R190) -/

theorem exec_mts (h : Hdr) (vd : BitVec 6) (sr : SReg) (s : State) :
    exec (.mts h vd sr) s = issue (.mts h vd sr) s fun c => c.runEff (.mts h vd sr) fun g act => effMts g act h vd sr := rfl

/-- A register among more of them is clean where they all are. -/
theorem Group.badN_mono {g : Group} {r : BitVec 6} {m n l : Nat} (hmn : m ≤ n) (h : g.badN r n l = false) : g.badN r m l = false := by
  simp only [Group.badN, List.any_eq_false, List.mem_range] at h ⊢
  exact fun k hk => h k (by omega)

theorem Mask.lowest_of_ne_zero {m : Mask} (h : m ≠ 0) : m.lowest = some (m.lowest.getD 0) := by
  obtain ⟨l, hl⟩ := List.exists_mem_of_ne_nil _ (Mask.lanes_ne_nil h)
  exact lowest_of_active ((Mask.mem_lanes m l).mp hl).2

/-- The value that MTS gives a register of the group: the lowest active lane's. -/
def Ctx.mtsValue (c : Ctx) (vd : BitVec 6) (sr : SReg) : DWord := if sr.wide then c.g.rd2 vd c.low else (c.g.rd vd c.low).setWidth 64

section
variable {c : Ctx} {h : Hdr} {vd : BitVec 6} {sr : SReg}

/-- The value of a source without poison is written. -/
theorem effMts_of_clean (hact : c.act ≠ 0) (hclean : ∀ l, l < 64 → c.act.getLsbD l = true → c.g.badN vd 2 l = false) :
    effMts c.g c.act h vd sr =
      if sr = .rngs then .ok ⟨[.rngs (c.act.lanes.map fun l => (l, c.g.rd vd (if h.u then c.low else l)))], []⟩
      else (mtsWrite c.g.trap.level sr (c.mtsValue vd sr)).map fun ws => ⟨ws, []⟩ := by
  have hlow : c.act.lowest = some c.low := Mask.lowest_of_ne_zero hact
  have hwidth : (if sr.wide then 2 else 1) ≤ 2 := by split <;> decide
  have hnone : (if sr = .rngs then partLanes h c.act else [c.low]).find? (fun l => c.g.badN vd (if sr.wide then 2 else 1) l) = none := by
    refine List.find?_eq_none.mpr fun l hl => ?_
    have hactive : c.act.getLsbD l = true := by
      split at hl
      · exact active_of_mem_partLanes hl
      · exact List.mem_singleton.mp hl ▸ (Mask.lowest_active hlow).1
    exact Bool.not_eq_true _ ▸ Group.badN_mono hwidth (hclean l (BitVec.lt_of_getLsbD hactive) hactive)
  simp only [effMts, hlow, hnone, beq_iff_eq]
  rfl

end

/-- A value that a register of the group takes leaves the group with it; the trap's registers take one at trap level alone (R189). -/
theorem mtsWrite_of_taken {g g' : Group} {x : DWord} {sr : SReg} (hset : ruleSetSpecial g x sr = some g') (act : Mask) (full : Bool) :
    ∃ ws, mtsWrite g.trap.level sr x = .ok ws ∧ g.applyAll act full ws = g' := by
  cases sr with
  | foldpol =>
    simp only [ruleSetSpecial, Option.ite_none_right_eq_some, Option.some.injEq] at hset
    obtain ⟨hsmall, rfl⟩ := hset
    exact ⟨_, if_neg (Nat.not_le.mpr hsmall), rfl⟩
  | matcnt | x0 | x1 | x2 =>
    obtain rfl := Option.some.inj hset
    exact ⟨_, rfl, rfl⟩
  | trappc | trapinfo =>
    obtain rfl := Option.some.inj hset
    refine ⟨_, rfl, ?_⟩
    cases g.trap.level <;> rfl
  | _ => cases hset

/-- Of the registers that MTS writes for the whole group only FOLDPOL refuses a value (R189). -/
theorem mtsWrite_of_refused {g : Group} {x : DWord} {sr : SReg} (hwritable : sr.writable = true) (hsr : sr ≠ .rngs)
    (hset : ruleSetSpecial g x sr = none) : mtsWrite g.trap.level sr x = .error ⟨Cause.badForm, x.toNat⟩ := by
  cases sr with
  | foldpol =>
    simp only [ruleSetSpecial, ite_eq_right_iff, reduceCtorEq, imp_false] at hset
    exact if_pos (Nat.not_lt.mp hset)
  | rngs => exact absurd rfl hsr
  | matcnt | x0 | x1 | x2 | trappc | trapinfo => cases hset
  | _ => cases hwritable

/-- A table after writes of one function's values holds them at the places written. -/
theorem Tbl.get_foldl_set {α : Type} (d : α) (f : Nat → α) (ks : List Nat) (t : List α) (l : Nat) :
    Tbl.get d ((ks.map fun k => (k, f k)).foldl (fun r e => Tbl.set d r e.1 e.2) t) l = if l ∈ ks then f l else Tbl.get d t l := by
  induction ks generalizing t with
  | nil => rfl
  | cons k ks ih =>
    rw [List.map_cons, List.foldl_cons, ih, Tbl.get_set]
    by_cases hk : l = k <;> simp [hk]

section
variable {c : Ctx} {h : Hdr} {vd : BitVec 6} {sr : SReg}

/-- MTS of a register of the group gives it the lowest active lane's value (R189). -/
theorem exec_mts_taken {g' : Group} (hq : c.Quiet (.mts h vd sr)) (hact : c.act ≠ 0)
    (hclean : ∀ l, l < 64 → c.act.getLsbD l = true → c.g.badN vd 2 l = false) (hsr : sr ≠ .rngs)
    (hset : ruleSetSpecial c.g (c.mtsValue vd sr) sr = some g') : exec (.mts h vd sr) c.s = .next (c.after (.mts h vd sr) g') := by
  have heff := (effMts_of_clean (h := h) hact hclean).trans (if_neg hsr)
  obtain ⟨ws, hwrite, rfl⟩ := mtsWrite_of_taken hset c.act c.full
  rw [hwrite] at heff
  exact (exec_mts ..).trans (runReg_ok hq (eff := fun g act => effMts g act h vd sr) heff)

/-- A value that the register refuses traps BAD_FORM with it (R189). -/
theorem exec_mts_refused (hq : c.Quiet (.mts h vd sr)) (hwritable : sr.writable = true) (hact : c.act ≠ 0)
    (hclean : ∀ l, l < 64 → c.act.getLsbD l = true → c.g.badN vd 2 l = false) (hsr : sr ≠ .rngs)
    (hset : ruleSetSpecial c.g (c.mtsValue vd sr) sr = none) :
    exec (.mts h vd sr) c.s = .next (c.s.takeTrap c.n c.slot ⟨0x02, c.mtsValue vd sr, c.pc, false⟩) := by
  have heff := (effMts_of_clean (h := h) hact hclean).trans (if_neg hsr)
  have hinfo : BitVec.ofNat 64 (c.mtsValue vd sr).toNat = c.mtsValue vd sr := by rw [BitVec.ofNat_toNat, BitVec.setWidth_eq]
  rw [mtsWrite_of_refused hwritable hsr hset] at heff
  rw [exec_mts, issue_trapOf hq.1 (Ctx.plain_of_quiet hq) (eff := fun g act => effMts g act h vd sr) heff, hinfo]
  rfl

/-- MTS of RNGS gives every active lane's generator the lane's own value, the lowest's under U. -/
theorem exec_mts_rngs (hq : c.Quiet (.mts h vd .rngs)) (hact : c.act ≠ 0)
    (hclean : ∀ l, l < 64 → c.act.getLsbD l = true → c.g.badN vd 2 l = false) :
    ∃ g', exec (.mts h vd .rngs) c.s = .next (c.after (.mts h vd .rngs) g') ∧ g' = { c.g with rngs := g'.rngs } ∧
      ∀ l, l < 64 → g'.rng l = if c.act.getLsbD l then c.g.rd vd (c.laneOf (.mts h vd .rngs) l) else c.g.rng l := by
  refine ⟨_, (exec_mts ..).trans (issue_write hq (effMts_of_clean hact hclean) rfl), rfl, fun l hl => ?_⟩
  refine (Tbl.get_foldl_set 0 (fun l => c.g.rd vd (if h.u then c.low else l)) c.act.lanes c.g.rngs l).trans ?_
  simp only [Mask.mem_lanes, hl, true_and]
  rfl

end

/-- Settles O26: MFS by the width of its register, MTS by whether the register is the generators. -/
theorem specialRegisters : Obligations.SpecialRegisters := by
  refine ⟨fun c h vd sr => exec_mfs_special, ?_⟩
  intro c h vd sr i x hq hwf hact hclean
  have hwritable : sr.writable = true := by
    simp only [i, Instr.wellFormed, Bool.and_eq_true] at hwf
    exact hwf.1
  refine ⟨fun hsr => ?_, fun hsr => ?_⟩
  · split
    · next g' hset => exact exec_mts_taken hq hact hclean hsr hset
    · next hset => exact exec_mts_refused hq hwritable hact hclean hsr hset
  · subst hsr
    exact exec_mts_rngs hq hact hclean

end Sys2Proof.Machine
end

section
/-! Settles O8: rounding to nearest gives the nearest multiple, ties going to even (R195), and keeps the values of its own format (R191). -/

namespace Sys2Proof.Machine

/-! ### The nearest multiple -/

/-- Rounding to nearest goes up above half of a unit, and at half of one from an odd multiple. -/
theorem roundAt_rne_eq (x : Word) (m : Nat) {d : Nat} (hd : 0 < d) : roundAt .rne x m 0 false (d : Int) =
    if 2 ^ d < 2 * (m % 2 ^ d) ∨ 2 * (m % 2 ^ d) = 2 ^ d ∧ m / 2 ^ d % 2 = 1 then m / 2 ^ d + 1 else m / 2 ^ d := by
  have hunit : pow2 ((d : Int) - 0) = 2 ^ d := by rw [pow2, sub_zero, Int.toNat_natCast]
  have hfine : ¬(d : Int) ≤ 0 := by omega
  unfold roundAt
  rw [if_neg hfine, hunit]
  by_cases hrem : m % 2 ^ d = 0
  · simp [hrem, (Nat.two_pow_pos d).ne]
  · simp [hrem]

/-- It errs by half of a unit at most, and by half of one only at an even multiple. -/
theorem roundAt_rne_error (x : Word) (m : Nat) {d : Nat} (hd : 0 < d) :
    let n := roundAt .rne x m 0 false (d : Int)
    let err := Int.natAbs ((n : Int) * 2 ^ d - m)
    2 * err ≤ 2 ^ d ∧ (2 * err = 2 ^ d → n % 2 = 0) := by
  have hsplit : ((2 ^ d : Nat) : Int) * ((m / 2 ^ d : Nat) : Int) + ((m % 2 ^ d : Nat) : Int) = m := mod_cast Nat.div_add_mod m (2 ^ d)
  have hrem : m % 2 ^ d < 2 ^ d := Nat.mod_lt m (Nat.two_pow_pos d)
  have hunit : (2 : Int) ^ d = ((2 ^ d : Nat) : Int) := by push_cast; rfl
  dsimp only
  rw [roundAt_rne_eq x m hd, hunit, Int.mul_comm]
  split
  · rw [Nat.cast_add, Int.mul_add]
    omega
  · omega

/-- Two different multiples of a unit lie at least a unit apart. -/
theorem le_natAbs_sub_of_ne {k n : Nat} (h : k ≠ n) (u : Nat) : u ≤ Int.natAbs ((k : Int) * u - (n : Int) * u) := by
  rw [← Int.sub_mul, Int.natAbs_mul, Int.natAbs_natCast]
  exact Nat.le_mul_of_pos_left u (by omega)

/-- Every other multiple is at least as far, and as far only where the chosen one is even. -/
theorem roundAt_rne_nearest (x : Word) (m k : Nat) {d : Nat} (hd : 0 < d) :
    let n := roundAt .rne x m 0 false (d : Int)
    Int.natAbs ((n : Int) * 2 ^ d - m) ≤ Int.natAbs ((k : Int) * 2 ^ d - m) ∧
      (k ≠ n → Int.natAbs ((n : Int) * 2 ^ d - m) = Int.natAbs ((k : Int) * 2 ^ d - m) → n % 2 = 0) := by
  obtain ⟨herror, heven⟩ := roundAt_rne_error x m hd
  dsimp only at herror heven ⊢
  generalize roundAt .rne x m 0 false (d : Int) = n at herror heven ⊢
  by_cases hk : k = n
  · subst hk
    exact ⟨le_rfl, fun hne => absurd rfl hne⟩
  · have hapart := le_natAbs_sub_of_ne hk (2 ^ d)
    push_cast at hapart
    omega

/-! ### Values of a format -/

/-- The sign, exponent and fraction fields of an encoding make it up (R191). -/
theorem BinFmt.fields_eq (f : BinFmt) {bits : Nat} (h : bits < 2 ^ (f.mbits + f.ebits + 1)) :
    f.zero (bits / 2 ^ (f.mbits + f.ebits) % 2 == 1) + (bits / 2 ^ f.mbits % 2 ^ f.ebits * 2 ^ f.mbits + bits % 2 ^ f.mbits) = bits := by
  have hlow : bits % 2 ^ (f.mbits + f.ebits) = bits / 2 ^ f.mbits % 2 ^ f.ebits * 2 ^ f.mbits + bits % 2 ^ f.mbits := by
    rw [Nat.pow_add, Nat.mod_mul, Nat.mul_comm, Nat.add_comm]
  have hall := Nat.div_add_mod bits (2 ^ (f.mbits + f.ebits))
  have htop : bits / 2 ^ (f.mbits + f.ebits) < 2 := Nat.div_lt_of_lt_mul (by rwa [← Nat.pow_succ])
  rw [← hlow, BinFmt.zero]
  rcases Nat.le_one_iff_eq_zero_or_eq_one.mp (Nat.le_of_lt_succ htop) with hsign | hsign <;>
    rw [hsign] at hall ⊢ <;> simpa using hall

/-- A magnitude is not above one with as large a number of units, each as large. -/
theorem magGt_of_le {n n' : Nat} {q q' : Int} (hn : n ≤ n') (hq : q ≤ q') : magGt n q n' q' = false := by
  have hunit : pow2 (q - q) = 1 := by simp [pow2]
  have hpos : 0 < pow2 (q' - q) := Nat.two_pow_pos _
  rw [magGt, min_eq_left hq, hunit, Nat.mul_one, decide_eq_false_iff_not, Nat.not_lt]
  exact hn.trans (Nat.le_mul_of_pos_right n' hpos)

/-- A magnitude in units of its own spacing is not rounded. -/
theorem roundAt_self (mode : Rnd) (x : Word) (m : Nat) (q : Int) (sticky : Bool) : roundAt mode x m q sticky q = m := by
  simp [roundAt, pow2]

/-- A magnitude in units of its own spacing and in the format's range is encoded as it is (R195). -/
theorem BinFmt.round_of_spacing (f : BinFmt) (mode : Rnd) (x : Word) (neg : Bool) {m : Nat} {q : Int} (hm : m ≠ 0) (hfit : m < 2 ^ (f.mbits + 1))
    (hq : spacing f.mbits (1 - f.bias - f.mbits) m q = q) (hmax : q ≤ (2 ^ f.ebits - 2 : Nat) - f.bias - f.mbits) :
    (f.round mode x false (.fin neg m q)).1 = f.pack neg m q := by
  have hrange := magGt_of_le (Nat.le_pred_of_lt hfit) hmax
  simp only [BinFmt.round, beq_iff_eq, hm, if_false, hq, roundAt_self]
  rw [if_neg (by simpa using hrange)]

/-- The spacing of a subnormal number is the format's least (R192). -/
theorem spacing_of_lt {mbits m : Nat} (qmin : Int) (hm : m < 2 ^ mbits) : spacing mbits qmin m qmin = qmin := by
  have hlog : m.log2 ≤ mbits := by
    by_cases h0 : m = 0
    · simp [h0]
    · exact (Nat.log2_lt h0).mpr hm |>.le
  rw [spacing, magLog]
  omega

/-- The spacing of a normal number is that of its exponent. -/
theorem spacing_of_normal {mbits m : Nat} {qmin q : Int} (hlo : 2 ^ mbits ≤ m) (hhi : m < 2 ^ (mbits + 1)) (hq : qmin ≤ q) :
    spacing mbits qmin m q = q := by
  have hlog : m.log2 = mbits := (Nat.log2_eq_iff (by have := Nat.two_pow_pos mbits; omega)).mpr ⟨hlo, hhi⟩
  rw [spacing, magLog, hlog]
  omega

theorem BinFmt.pack_of_subnormal (f : BinFmt) (neg : Bool) {n : Nat} (q : Int) (h : n < 2 ^ f.mbits) : f.pack neg n q = f.zero neg + n := by
  rw [BinFmt.pack, if_pos h]

theorem BinFmt.pack_of_normal (f : BinFmt) (neg : Bool) {m : Nat} (e : Nat) (h : m < 2 ^ f.mbits) :
    f.pack neg (2 ^ f.mbits + m) (e - f.bias - f.mbits) = f.zero neg + (e * 2 ^ f.mbits + m) := by
  have hcarry : ¬2 ^ f.mbits + m = 2 ^ (f.mbits + 1) := by omega
  have hexp : (e - f.bias - f.mbits + f.mbits + f.bias : Int).toNat = e := by omega
  rw [BinFmt.pack, if_neg (by omega)]
  simp only [beq_iff_eq, hcarry, if_false, hexp, Nat.add_sub_cancel_left]

/-- Rounding the value of an encoding that is no NaN gives the encoding back, in every mode (R191, R195). -/
theorem BinFmt.round_decode (f : BinFmt) (hebits : 2 ≤ f.ebits) (mode : Rnd) (x : Word) {bits : Nat} (hbits : bits < 2 ^ (f.mbits + f.ebits + 1))
    (hnan : (f.decode bits).isNan = false) : (f.round mode x false (f.decode bits)).1 = bits := by
  have hfields := f.fields_eq hbits
  have hfrac : bits % 2 ^ f.mbits < 2 ^ f.mbits := Nat.mod_lt _ (Nat.two_pow_pos _)
  have hexp : bits / 2 ^ f.mbits % 2 ^ f.ebits < 2 ^ f.ebits := Nat.mod_lt _ (Nat.two_pow_pos _)
  have hmany : 4 ≤ 2 ^ f.ebits := Nat.pow_le_pow_right Nat.two_pos hebits
  unfold BinFmt.decode at hnan ⊢
  dsimp only at hnan ⊢
  generalize bits % 2 ^ f.mbits = m at *
  generalize bits / 2 ^ f.mbits % 2 ^ f.ebits = e at *
  generalize (bits / 2 ^ (f.mbits + f.ebits) % 2 == 1) = neg at *
  simp only [beq_iff_eq] at hnan ⊢
  split
  · next htop =>
    rw [if_pos htop] at hnan
    have hzero : m = 0 := by
      by_contra hm
      rw [if_neg hm] at hnan
      cases hnan
    rw [if_pos hzero, ← hfields, hzero, htop]
    rfl
  · next htop =>
    split
    · next hsub =>
      by_cases hm : m = 0
      · rw [← hfields, hm, hsub, Nat.zero_mul]
        rfl
      · rw [f.round_of_spacing mode x neg hm (by omega) (spacing_of_lt _ hfrac) (by omega), f.pack_of_subnormal neg _ hfrac, ← hfields, hsub,
          Nat.zero_mul, Nat.zero_add]
    · next hnormal =>
      rw [f.round_of_spacing mode x neg (by omega) (by omega) (spacing_of_normal (by omega) (by omega) (by omega)) (by omega),
        f.pack_of_normal neg e hfrac, hfields]

theorem toF32_f32 {w : Word} (h : isNan32 w = false) : toF32 (f32 w) = w := by
  rw [toF32, f32, BinFmt.rne, fp32.round_decode (by decide) .rne 0 w.isLt h, BitVec.ofNat_toNat, BitVec.setWidth_eq]

/-- Settles O8, by the error that rounding to nearest makes, and by the fields of an FP32 word, which its value keeps. -/
theorem singleRounding : Obligations.SingleRounding :=
  ⟨fun x m _ k hd => roundAt_rne_nearest x m k hd, fun _ => toF32_f32⟩

end Sys2Proof.Machine
end

section
/-! Settles O6: CVT, CVTN and CVTW (R196, R223 to R227). -/

namespace Sys2Proof.Machine

/-! ### What a conversion does -/

/-- A conversion's effect in its parts: the register that it writes, the word and poison mark that a lane's operands give, whether a lane converts, the rounding
mode, and the exception counts. -/
structure Conversion where
  vd : BitVec 6
  value : Nat → Word × Bool
  converts : Nat → Bool
  mode : Rnd
  counts : List Nat

/-- The writes of a conversion: its register, and the generators of the lanes that convert (R196). -/
def Conversion.writes (k : Conversion) (h : Hdr) (g : Group) (act : Mask) : List Write :=
  (lanesEff h g act k.vd k.value).writes ++ rngWrites g k.mode ((partLanes h act).filter k.converts)

/-- The conversion is the rule's in every lane. -/
def Conversion.Rule (k : Conversion) (g : Group) (i : Instr) : Prop :=
  Machine.writes i = Foot.all [Foot.v1 k.vd, Foot.sr k.mode] ∧
    ∀ l, ruleConvert g l (rngNext (g.rng l)) i = some (k.vd.toNat, k.value l, k.converts l, k.mode)

theorem formatTrap_of_valid {w : Word} (hw : fmtValid w = true) (h : Hdr) (act : Mask) : formatTrap h act w = false := by
  rw [formatTrap, hw]
  rfl

section
variable (g : Group) (act : Mask) (h : Hdr) (vd va vb : BitVec 6) (fmt : BitVec 2) (mode : Rnd)

/-- CVT converts in every lane that takes part. -/
theorem effCvt_rule (src dst : CvtTy) : ∃ k : Conversion, effCvt g act h vd va src dst mode = .ok ⟨k.writes h g act, k.counts⟩ ∧
    k.Rule g (.cvt h vd va src dst mode) :=
  ⟨⟨vd, fun l => lift1 (cvtOp src dst mode (rngNext (g.rng l))) (g.src0 va l), fun _ => true, mode, []⟩,
    by rw [Conversion.writes, List.filter_true]; rfl, rfl, fun _ => rfl⟩

/-- CVTN, through a valid format word, converts in the lanes whose slot fits. -/
theorem effCvtn_rule (hvalid : fmtValid (g.freg fmt) = true) : ∃ k : Conversion,
    effCvtn g act h vd va fmt mode vb = .ok ⟨k.writes h g act, k.counts⟩ ∧ k.Rule g (.cvtn h vd va fmt mode vb) := by
  unfold effCvtn
  dsimp only
  rw [formatTrap_of_valid hvalid]
  exact ⟨⟨vd, _, _, mode, _⟩, rfl, rfl, fun _ => rfl⟩

/-- So does CVTW. -/
theorem effCvtw_rule (hvalid : fmtValid (g.freg fmt) = true) : ∃ k : Conversion,
    effCvtw g act h vd va fmt mode vb = .ok ⟨k.writes h g act, k.counts⟩ ∧ k.Rule g (.cvtw h vd va fmt mode vb) := by
  unfold effCvtw
  dsimp only
  rw [formatTrap_of_valid hvalid]
  exact ⟨⟨vd, _, _, mode, _⟩, rfl, rfl, fun _ => rfl⟩

end

/-- Each of the three makes the writes of a conversion by the rule. -/
theorem effect_of_ruleConvert {c : Ctx} {i : Instr} (hfmt : ∀ f, convertFormat i = some f → fmtValid (c.g.freg f) = true)
    (hrule : (ruleConvert c.g 0 0 i).isSome = true) : ∃ (eff : Group → Mask → Except Trap Eff) (k : Conversion),
      exec i c.s = issue i c.s (fun c => c.runEff i eff) ∧ eff c.g c.act = .ok ⟨k.writes i.hdr c.g c.act, k.counts⟩ ∧ k.Rule c.g i := by
  cases i with
  | cvt h vd va src dst rnd =>
    obtain ⟨k, heff, hk⟩ := effCvt_rule c.g c.act h vd va rnd src dst
    exact ⟨_, k, rfl, heff, hk⟩
  | cvtn h vd va fmt rnd vb =>
    obtain ⟨k, heff, hk⟩ := effCvtn_rule c.g c.act h vd va vb fmt rnd (hfmt fmt rfl)
    exact ⟨_, k, rfl, heff, hk⟩
  | cvtw h vd va fmt rnd vb =>
    obtain ⟨k, heff, hk⟩ := effCvtw_rule c.g c.act h vd va vb fmt rnd (hfmt fmt rfl)
    exact ⟨_, k, rfl, heff, hk⟩
  | _ => cases hrule

/-! ### Exception counts (R210) -/

theorem State.count_setGroup (s : State) (n : Nat) (g g' : Group) (cs : List Nat) :
    (s.setGroup n g).count g' cs = (s.count g' cs).setGroup n g := by
  unfold State.count
  rw [State.team_setGroup]
  split
  · rfl
  · split <;> rfl

/-- Counting changes exception counts of teams alone. -/
theorem State.sameButCounts_count (s : State) (g : Group) (cs : List Nat) : s.sameButCounts (s.count g cs) := by
  unfold State.count
  split
  · exact ⟨rfl, fun _ => rfl⟩
  · split
    · next t hteam =>
      refine ⟨rfl, fun n => ?_⟩
      have hset : (s.setTeam g.team (t.count cs)).team n = if n = g.team then some (t.count cs) else s.team n := Tbl.get_set ..
      rw [hset]
      split
      · next hn =>
        rw [hn, hteam]
        rfl
      · rfl
    · exact ⟨rfl, fun _ => rfl⟩

/-! ### Generators (R196, R197) -/

/-- The generators of the lanes named step under SR, and no others. -/
theorem Group.rng_applyAll_rngWrites (g₀ g : Group) (act : Mask) (full : Bool) (mode : Rnd) (lanes : List Nat) (l : Nat) :
    (g₀.applyAll act full (rngWrites g mode lanes)).rng l = if mode = .sr ∧ l ∈ lanes then rngNext (g.rng l) else g₀.rng l := by
  unfold rngWrites
  by_cases hmode : mode = .sr
  · rw [if_pos hmode]
    exact (Tbl.get_foldl_set 0 (fun l => rngNext (g.rng l)) lanes g₀.rngs l).trans (by simp [hmode, Group.rng])
  · rw [if_neg hmode, if_neg fun h => hmode h.1]
    rfl

/-- Steps of generators change nothing else. -/
theorem Group.applyAll_rngWrites_same (g₀ g : Group) (act : Mask) (full : Bool) (mode : Rnd) (lanes : List Nat) (rngs : List Word) :
    { g₀.applyAll act full (rngWrites g mode lanes) with rngs := rngs } = { g₀ with rngs := rngs } := by
  unfold rngWrites
  split <;> rfl

theorem Group.rdp_applyAll_rngWrites (g₀ g : Group) (act : Mask) (full : Bool) (mode : Rnd) (lanes : List Nat) (r l : Nat) :
    (g₀.applyAll act full (rngWrites g mode lanes)).rdp r l = g₀.rdp r l := by
  unfold rngWrites
  split <;> rfl

/-- The lanes that an instruction computes for are those that take part (R20). -/
theorem Ctx.mem_partLanes {c : Ctx} (hact : c.act ≠ 0) (i : Instr) {l : Nat} (hl : l < 64) :
    l ∈ partLanes i.hdr c.act ↔ c.computes i l = true := by
  unfold partLanes Ctx.computes
  split
  · have hlow : c.act.lowest = some c.low := Mask.lowest_of_ne_zero hact
    rw [hlow, Option.toList_some, List.mem_singleton, beq_iff_eq]
  · rw [Mask.mem_lanes, and_iff_right hl]

/-! ### The group that a conversion leaves -/

section
variable {g : Group} {act : Mask} {full : Bool} (hu : g.Under act full) (k : Conversion) (h : Hdr)

theorem Group.applyAll_conversion : g.applyAll act full (k.writes h g act) =
    (g.applyAll act full (lanesEff h g act k.vd k.value).writes).applyAll act full (rngWrites g k.mode ((partLanes h act).filter k.converts)) :=
  List.foldl_append

/-- A conversion's registers are those that its register's write leaves. -/
theorem Group.rdp_conversion (r l : Nat) : (g.applyAll act full (k.writes h g act)).rdp r l =
    (g.applyAll act full (lanesEff h g act k.vd k.value).writes).rdp r l := by
  rw [Group.applyAll_conversion, Group.rdp_applyAll_rngWrites]

include hu

/-- Its register's write leaves the generators. -/
theorem Group.rngs_lanesEff : (g.applyAll act full (lanesEff h g act k.vd k.value).writes).rngs = g.rngs := by
  obtain ⟨honly, -⟩ := Group.sameBut_lanesEff hu h k.vd k.value
  unfold Group.onlyRegs at honly
  rw [honly]

/-- But for the generators only the register of a conversion changes. -/
theorem Group.sameBut_conversion : g.SameBut { g.applyAll act full (k.writes h g act) with rngs := g.rngs } act (Foot.v1 k.vd) := by
  rw [Group.applyAll_conversion, Group.applyAll_rngWrites_same, ← Group.rngs_lanesEff hu k h]
  exact Group.sameBut_lanesEff hu h k.vd k.value

/-- Under SR the generator of each lane that converts makes a step. -/
theorem Group.rng_conversion (l : Nat) : (g.applyAll act full (k.writes h g act)).rng l =
    if k.mode = .sr ∧ k.converts l = true ∧ l ∈ partLanes h act then rngNext (g.rng l) else g.rng l := by
  have hrng : (g.applyAll act full (lanesEff h g act k.vd k.value).writes).rng l = g.rng l := congrArg (Tbl.get 0 · l) (Group.rngs_lanesEff hu k h)
  rw [Group.applyAll_conversion, Group.rng_applyAll_rngWrites, hrng]
  exact if_congr (and_congr_right fun _ => List.mem_filter.trans and_comm) rfl rfl

end

/-- A frame that names the generators beside a register says the same of the registers. -/
theorem Group.SameBut.of_sr {g g' : Group} {act : Mask} {vd : BitVec 6} (h : g.SameBut g' act (Foot.v1 vd)) (mode : Rnd) :
    g.SameBut g' act (Foot.all [Foot.v1 vd, Foot.sr mode]) := by
  cases mode <;> simpa [Group.SameBut, Foot.all, Foot.sr, Foot.union, Foot.none] using h

/-- A conversion makes its writes, adds its counts and takes the path on. -/
theorem exec_conversion {c : Ctx} {i : Instr} (hq : c.Quiet i) (hfmt : ∀ f, convertFormat i = some f → fmtValid (c.g.freg f) = true)
    (hrule : (ruleConvert c.g 0 0 i).isSome = true) : ∃ k : Conversion, k.Rule c.g i ∧
      let g' := c.g.applyAll c.act c.full (k.writes i.hdr c.g c.act)
      exec i c.s = .next (c.advance i ((c.s.count g' k.counts).setGroup c.n g')) := by
  obtain ⟨eff, k, hexec, heff, hk⟩ := effect_of_ruleConvert hfmt hrule
  refine ⟨k, hk, ?_⟩
  dsimp only
  rw [hexec, runReg_ok hq heff, State.count_setGroup]

/-- Settles O6: each is one write of the rule's words, steps of the generators of the lanes that convert, and counts. -/
theorem conversionResults : Obligations.ConversionResults := by
  intro c i hq hact hfmt hrule
  obtain ⟨k, ⟨hwrites, hk⟩, hexec⟩ := exec_conversion hq hfmt hrule
  have hunder := Ctx.under_plain (Ctx.plain_of_quiet hq)
  refine ⟨_, _, hexec, State.sameButCounts_count .., ?_, fun l x hl hlact hx => ?_, fun l x hl hx => ?_⟩
  · rw [hwrites]
    exact (Group.sameBut_conversion hunder k i.hdr).of_sr k.mode
  · obtain rfl := Option.some.inj ((hk _).symm.trans hx)
    rw [Group.rdp_conversion]
    exact Group.rdp_lanesEff hunder i.hdr k.vd k.value hl hlact
  · obtain rfl := Option.some.inj ((hk l).symm.trans hx)
    rw [Group.rng_conversion hunder]
    simp only [Ctx.mem_partLanes hact i hl]

end Sys2Proof.Machine
end

section
/-! Settles O7: FREDUX reduces over the pairwise tree (R206, R228). -/

namespace Sys2Proof.Machine

/-! ### The pairwise tree (R206) -/

/-- The tree over combined neighbours is the tree without its lowest level. -/
theorem treeAt_pairs (f : Word → Word → Word) (x : Nat → Word) (n k : Nat) :
    treeAt f (fun j => f (x (2 * j)) (x (2 * j + 1))) n k = treeAt f x (n + 1) k := by
  induction n generalizing k with
  | zero => rfl
  | succ n ih => exact congrArg₂ f (ih _) (ih _)

theorem pairUp_map_range (f : Word → Word → Word) (x : Nat → Word) (k : Nat) :
    pairUp f ((List.range (2 * k)).map x) = (List.range k).map fun j => f (x (2 * j)) (x (2 * j + 1)) := by
  induction k generalizing x with
  | zero => rfl
  | succ k ih =>
    rw [Nat.mul_succ, List.range_succ_eq_map, List.range_succ_eq_map, List.range_succ_eq_map]
    simp only [List.map_cons, List.map_map, pairUp]
    exact congrArg _ (ih fun j => x (j + 2))

theorem treeReduce_singleton (f : Word → Word → Word) (n : Nat) (w : Word) : treeReduce f n [w] = [w] := by
  induction n with
  | zero => rfl
  | succ n ih => exact ih

/-- Reducing 2^n values leaves the root of their tree, and further levels leave it (R206). -/
theorem treeReduce_map_range (f : Word → Word → Word) (x : Nat → Word) (n extra : Nat) :
    treeReduce f (n + extra) ((List.range (2 ^ n)).map x) = [treeAt f x n 0] := by
  induction n generalizing x with
  | zero => exact treeReduce_singleton f (0 + extra) (x 0)
  | succ n ih => rw [Nat.succ_add, treeReduce, Nat.pow_succ', pairUp_map_range, ih, treeAt_pairs]

/-! ### FREDUX (R228) -/

/-- The levels of the tree over a group's lanes. -/
def Group.treeLevels (g : Group) : Nat := if g.width = 64 then 6 else 5

/-- What a lane puts into the reduction: its operand, the neutral element where it is inactive (R206). -/
def freduxLeaf (g : Group) (act : Mask) (va : BitVec 6) (op : FReduxOp) (l : Nat) : Word :=
  if act.getLsbD l then (g.src0 va l).1 else freduxNeutral op

/-- The levels of the reduction end at the root of the tree over the group's lanes. -/
theorem treeReduce_lanes (g : Group) (f : Word → Word → Word) (x : Nat → Word) :
    treeReduce f 6 ((List.range g.w).map x) = [treeAt f x g.treeLevels 0] := by
  unfold Group.w Group.treeLevels
  split
  · exact treeReduce_map_range f x 6 0
  · exact treeReduce_map_range f x 5 1

theorem exec_fredux (h : Hdr) (vd va : BitVec 6) (op : FReduxOp) (s : State) :
    exec (.fredux h vd va op) s = issue (.fredux h vd va op) s fun c => c.runEff (.fredux h vd va op) fun g act => effFredux g act vd va op := rfl

/-- FREDUX writes the root of the tree in every lane. -/
theorem effFredux_root (g : Group) (act : Mask) (vd va : BitVec 6) (op : FReduxOp) : effFredux g act vd va op =
    .ok (sameEff g vd (treeAt (freduxOp op) (freduxLeaf g act va op) g.treeLevels 0) (act.lanes.any fun i => (g.src0 va i).2)) := by
  have hroot := treeReduce_lanes g (freduxOp op) (freduxLeaf g act va op)
  unfold freduxLeaf at hroot ⊢
  rw [effFredux, hroot]
  rfl

/-- Settles O7: FREDUX is one write of the tree's root, made in the active lanes alone. -/
theorem floatReductionResults : Obligations.FloatReductionResults := by
  intro c h vd va op i hq
  have hunder := Ctx.under_plain (Ctx.plain_of_quiet hq)
  have hwidth := Group.width_le hunder.width
  refine ⟨_, (exec_fredux ..).trans (issue_write hq (effFredux_root ..) rfl), ?_, fun l hl hact => ?_⟩
  · exact Group.sameBut_apply hunder rfl ((Foot.v1_getLsbD vd.isLt).mpr rfl)
  · rw [Group.rdp_apply hunder rfl, if_pos ⟨rfl, hl, hact⟩]
    exact congrArg Prod.fst ((Tbl.get_map_range (0, false) _ c.g.w l).trans (if_pos (by omega)))

end Sys2Proof.Machine
end

section
/-! Settles O4: the floating and dot-product instructions (R213 to R221, R40). -/

namespace Sys2Proof.Machine

/-! ### Encodings fit their format (R191, R195) -/

/-- A magnitude below 2^(k+1) units rounds to at most 2^(k+1) of them. -/
theorem roundAt_le (mode : Rnd) (x : Word) {m : Nat} {e q : Int} {k : Nat} (sticky : Bool) (hlog : magLog m e ≤ q + k) :
    roundAt mode x m e sticky q ≤ 2 ^ (k + 1) := by
  have hm : m < 2 ^ (m.log2 + 1) := Nat.lt_log2_self
  unfold magLog at hlog
  unfold roundAt pow2
  split
  · calc m * 2 ^ (e - q).toNat
      _ ≤ 2 ^ (m.log2 + 1) * 2 ^ (e - q).toNat := Nat.mul_le_mul_right _ hm.le
      _ = 2 ^ (m.log2 + 1 + (e - q).toNat) := (Nat.pow_add ..).symm
      _ ≤ 2 ^ (k + 1) := Nat.pow_le_pow_right Nat.two_pos (by omega)
  · have hlo : m / 2 ^ (q - e).toNat < 2 ^ (k + 1) := Nat.div_lt_of_lt_mul <| by
      rw [← Nat.pow_add]
      exact hm.trans_le (Nat.pow_le_pow_right Nat.two_pos (by omega))
    dsimp only
    split
    · exact hlo.le
    · cases mode with
      | rz => exact hlo.le
      | rne | sr =>
        dsimp only
        split <;> omega

/-- A magnitude is above another that has fewer of its units. -/
theorem magGt_of_lt {n n' : Nat} {q q' : Int} (j : Nat) (hn : n' < n * 2 ^ j) (hq : q' + j ≤ q) : magGt n q n' q' = true := by
  have hunit : pow2 (q' - q') = 1 := by simp [pow2]
  have hpow : 2 ^ j ≤ pow2 (q - q') := Nat.pow_le_pow_right Nat.two_pos (by omega)
  rw [magGt, min_eq_right (by omega), hunit, Nat.mul_one, decide_eq_true_eq]
  exact hn.trans_le (Nat.mul_le_mul_left n hpow)

section
variable (f : BinFmt) (neg : Bool)

theorem BinFmt.zero_le : f.zero neg ≤ 2 ^ (f.mbits + f.ebits) := by
  unfold BinFmt.zero
  split <;> simp

/-- The exponent and fraction fields lie below the sign. -/
theorem BinFmt.fields_lt {k m : Nat} (hk : k < 2 ^ f.ebits) (hm : m < 2 ^ f.mbits) : k * 2 ^ f.mbits + m < 2 ^ (f.mbits + f.ebits) :=
  calc k * 2 ^ f.mbits + m
    _ < (k + 1) * 2 ^ f.mbits := by rw [Nat.succ_mul]; omega
    _ ≤ 2 ^ f.ebits * 2 ^ f.mbits := Nat.mul_le_mul_right _ hk
    _ = 2 ^ (f.mbits + f.ebits) := by rw [Nat.mul_comm, ← Nat.pow_add]

/-- The encoding of a magnitude that the format's largest does not fall below is one of the format's. -/
theorem BinFmt.pack_lt {n : Nat} {q : Int} (hn : n ≤ 2 ^ (f.mbits + 1))
    (hmax : magGt n q (2 ^ (f.mbits + 1) - 1) ((2 ^ f.ebits - 2 : Nat) - f.bias - f.mbits) = false) :
    f.pack neg n q < 2 ^ (f.mbits + f.ebits + 1) := by
  have hsign := f.zero_le neg
  have hone : 0 < 2 ^ f.mbits := Nat.two_pow_pos _
  have hexps : 0 < 2 ^ f.ebits := Nat.two_pow_pos _
  suffices hbody : f.pack neg n q - f.zero neg < 2 ^ (f.mbits + f.ebits) by omega
  rw [BinFmt.pack, Nat.add_sub_cancel_left]
  have hhigh (j : Nat) (hj : 2 ^ (f.mbits + 1) - 1 < n * 2 ^ j) : q < (2 ^ f.ebits - 2 : Nat) - f.bias - f.mbits + j := by
    by_contra hq
    rw [magGt_of_lt j hj (by omega)] at hmax
    cases hmax
  by_cases hsub : n < 2 ^ f.mbits
  · rw [if_pos hsub]
    simpa using f.fields_lt hexps hsub
  · rw [if_neg hsub]
    by_cases hcarry : n = 2 ^ (f.mbits + 1)
    · have hq := hhigh 0 (by omega)
      simp only [hcarry, beq_self_eq_true, if_true]
      refine f.fields_lt ?_ ?_ <;> omega
    · have hq := hhigh 1 (by omega)
      simp only [beq_iff_eq, hcarry, if_false]
      refine f.fields_lt ?_ ?_ <;> omega

theorem BinFmt.infinity_lt : f.infinity neg < 2 ^ (f.mbits + f.ebits + 1) := by
  have hsign := f.zero_le neg
  have hone : 0 < 2 ^ f.mbits := Nat.two_pow_pos _
  have hbody := f.fields_lt (Nat.sub_one_lt (Nat.two_pow_pos _).ne') hone
  rw [BinFmt.infinity, ← BinFmt.zero]
  omega

theorem BinFmt.qnan_lt : f.qnan < 2 ^ (f.mbits + f.ebits + 1) := by
  have hquiet : 2 ^ (f.mbits - 1) ≤ 2 ^ f.mbits := Nat.pow_le_pow_right Nat.two_pos (Nat.sub_le ..)
  have hbody : (2 ^ f.ebits - 1) * 2 ^ f.mbits + 2 ^ f.mbits = 2 ^ (f.mbits + f.ebits) := by
    rw [← Nat.succ_mul, Nat.succ_eq_add_one, Nat.sub_add_cancel Nat.one_le_two_pow, ← Nat.pow_add, Nat.add_comm]
  have := Nat.two_pow_pos (f.mbits + f.ebits)
  rw [BinFmt.qnan]
  omega

/-- Rounding gives one of the format's encodings, whatever the value and the mode. -/
theorem BinFmt.round_lt (mode : Rnd) (x : Word) (sticky : Bool) (v : Val) : (f.round mode x sticky v).1 < 2 ^ (f.mbits + f.ebits + 1) := by
  cases v with
  | nan => exact f.qnan_lt
  | inf neg => exact f.infinity_lt neg
  | fin neg m e =>
    unfold BinFmt.round
    dsimp only
    split
    · have hsign := f.zero_le neg
      have := Nat.two_pow_pos (f.mbits + f.ebits)
      dsimp only
      omega
    · split
      · have hinf := f.infinity_lt neg
        dsimp only [BinFmt.largest]
        split <;> omega
      · next hmax =>
        exact f.pack_lt neg (roundAt_le mode x sticky (by unfold spacing; omega)) (by simpa using hmax)

end

/-! ### Packed BF16 (R214) -/

theorem rne_bf16_lt (v : Val) : bf16.rne v < 2 ^ 16 := bf16.round_lt .rne 0 false v

/-- Two elements side by side make up the packed word. -/
theorem bfWord_eq (lo hi : Val) : BitVec.ofNat 32 (bf16.rne hi * 65536 + bf16.rne lo) = bfWord lo hi := by
  have hlo := rne_bf16_lt lo
  refine BitVec.eq_of_getLsbD_eq fun k hk => ?_
  rw [bfWord, BitVec.getLsbD_or, BitVec.getLsbD_shiftLeft, BitVec.getLsbD_ofNat, BitVec.getLsbD_ofNat, BitVec.getLsbD_ofNat,
    Nat.mul_comm, Nat.testBit_two_pow_mul_add (i := 16) _ hlo]
  by_cases hlow : k < 16
  · simp [hlow, hk]
  · have hhigh : (bf16.rne lo).testBit k = false := Nat.testBit_lt_two_pow (hlo.trans_le (Nat.pow_le_pow_right Nat.two_pos (by omega)))
    have hk' : k - 16 < 32 := by omega
    simp [hlow, hk, hk', hhigh]

/-- A packed operation makes each element of its operands' elements. -/
theorem packed_eq_bfWord (f : Val → Val → Val → Val) (a b c : Word) :
    packed f a b c = bfWord (f (bfPair a).1 (bfPair b).1 (bfPair c).1) (f (bfPair a).2 (bfPair b).2 (bfPair c).2) := by
  have hhigh (w : Word) : w.toNat / 2 ^ 16 % 65536 = w.toNat / 65536 := Nat.mod_eq_of_lt (by omega)
  rw [← bfWord_eq, packed]
  simp only [hhigh, Nat.pow_zero, Nat.div_one]
  rfl

theorem hAdd2_eq_rule : hAdd2 = fun a b => bfWord ((bfPair a).1.add (bfPair b).1) ((bfPair a).2.add (bfPair b).2) := by
  funext a b
  exact packed_eq_bfWord ..

theorem hMul2_eq_rule : hMul2 = fun a b => bfWord ((bfPair a).1.mul (bfPair b).1) ((bfPair a).2.mul (bfPair b).2) := by
  funext a b
  exact packed_eq_bfWord ..

theorem hMad2_eq_rule : hMad2 = ruleFloat.ruleBfMad := by
  funext a b c
  exact packed_eq_bfWord ..

/-! ### Dot products (R215) -/

theorem ubyte_eq_byteOf (a : Word) (k : Nat) : (ubyte a k : Int) = byteOf false a k := by
  simp [ubyte, byteOf, Nat.shiftRight_eq_div_pow, Nat.pow_mul]

theorem sbyte_eq_byteOf (a : Word) (k : Nat) : sbyte a k = byteOf true a k := by
  rw [sbyte, BitVec.toInt_eq_toNat_cond]
  have hbyte : (a.extractLsb' (8 * k) 8).toNat = a.toNat / 256 ^ k % 256 := by
    simp [Nat.shiftRight_eq_div_pow, Nat.pow_mul]
  simp only [hbyte, byteOf, Bool.true_and, decide_eq_true_eq]
  split <;> split <;> omega

theorem foldl_range_four (p : Nat → Int) : ((List.range 4).map p).foldl (· + ·) 0 = p 0 + p 1 + p 2 + p 3 := by
  simp [List.range_succ]

theorem dot4s_eq_rule : dot4s = ruleDot true := by
  funext a b d
  rw [ruleDot, foldl_range_four, BitVec.ofInt_add, BitVec.ofInt_toInt]
  simp only [← sbyte_eq_byteOf]
  rfl

theorem dot4u_eq_rule : dot4u = ruleDot false := by
  funext a b d
  rw [ruleDot, foldl_range_four, BitVec.ofInt_add, BitVec.ofInt_toInt]
  simp only [← ubyte_eq_byteOf, dot4u]
  rw [← BitVec.ofInt_natCast]
  push_cast
  rfl

/-! ### What the instructions write -/

/-- Where no select is reserved no pattern traps (R35). -/
theorem Group.patternTrap_eq_none {g : Group} (act : Mask) {sels : List (BitVec 2)}
    (h : (sels.all fun sel => (patternLane (g.pattern sel) g.w 0).isSome) = true) : g.patternTrap act sels = none := by
  induction sels with
  | nil => rfl
  | cons sel sels ih =>
    obtain ⟨hsel, hsels⟩ := (Bool.and_eq_true ..).mp ((List.all_cons ..).symm.trans h)
    rw [Group.patternTrap, Option.isNone_eq_false_iff.mpr hsel, Bool.and_false]
    exact ih hsels

section
variable {g : Group} {act : Mask} {pa pb : BitVec 2} (hclean : g.patternTrap act [pa, pb] = none) (h : Hdr) (vd va vb : BitVec 6)
include hclean

/-- An R-format instruction without a reserved pattern computes from its two sources. -/
theorem effR_of_clean (f : Word → Word → Word) :
    effR g act h vd va pa vb pb f = .ok (lanesEff h g act vd fun i => lift2 f (g.srcP va pa i) (g.srcP vb pb i)) := by
  rw [effR, hclean]

/-- One that reads its destination computes from that too. -/
theorem effRd_of_clean (f : Word → Word → Word → Word) :
    effRd g act h vd va pa vb pb f = .ok (lanesEff h g act vd fun i => lift3 f (g.srcP va pa i) (g.srcP vb pb i) (g.src0 vd i)) := by
  rw [effRd, hclean]

end

/-- Each of them writes one vector register, in every lane with the rule's word. -/
theorem exec_float_write {c : Ctx} {i : Instr} (hpat : c.patternsOk i = true) (hrule : (ruleFloat c.g 0 i).isSome = true) :
    ∃ (eff : Group → Mask → Except Trap Eff) (vd : BitVec 6) (f : Nat → Word × Bool),
      exec i c.s = issue i c.s (fun c => c.runEff i eff) ∧ eff c.g c.act = .ok (lanesEff i.hdr c.g c.act vd f) ∧
      writes i = Foot.v1 vd ∧ ∀ l, ruleFloat c.g l i = some (vd.toNat, f l) := by
  have hclean := Group.patternTrap_eq_none c.act hpat
  cases i with
  | fadd h vd va pa vb pb | fsub h vd va pa vb pb | fmul h vd va pa vb pb | fscale h vd va pa vb pb =>
    exact ⟨_, vd, _, rfl, effR_of_clean hclean h vd va vb _, rfl, fun l => rfl⟩
  | hadd2 h vd va pa vb pb => exact ⟨_, vd, _, rfl, effR_of_clean hclean h vd va vb hAdd2, rfl, fun l => by rw [hAdd2_eq_rule]; rfl⟩
  | hmul2 h vd va pa vb pb => exact ⟨_, vd, _, rfl, effR_of_clean hclean h vd va vb hMul2, rfl, fun l => by rw [hMul2_eq_rule]; rfl⟩
  | fmac h vd va pa vb pb => exact ⟨_, vd, _, rfl, effRd_of_clean hclean h vd va vb fMad, rfl, fun l => rfl⟩
  | hfmac2 h vd va pa vb pb => exact ⟨_, vd, _, rfl, effRd_of_clean hclean h vd va vb hMad2, rfl, fun l => by rw [hMad2_eq_rule]; rfl⟩
  | dot4s h vd va pa vb pb => exact ⟨_, vd, _, rfl, effRd_of_clean hclean h vd va vb dot4s, rfl, fun l => by rw [dot4s_eq_rule]; rfl⟩
  | dot4u h vd va pa vb pb => exact ⟨_, vd, _, rfl, effRd_of_clean hclean h vd va vb dot4u, rfl, fun l => by rw [dot4u_eq_rule]; rfl⟩
  | fma h vd va vb vc => exact ⟨_, vd, _, rfl, rfl, rfl, fun l => rfl⟩
  | hfma2 h vd va vb vc => exact ⟨_, vd, _, rfl, rfl, rfl, fun l => by rw [hMad2_eq_rule]; rfl⟩
  | fminmax h vd va vb op => exact ⟨_, vd, _, rfl, rfl, rfl, fun l => rfl⟩
  | func h vd va op => exact ⟨_, vd, _, rfl, rfl, rfl, fun l => rfl⟩
  | _ => cases hrule

/-- Settles O4: each is one write of the rule's words, made in the active lanes, from the lowest one's operands under U. -/
theorem floatLaneResults : Obligations.FloatLaneResults := by
  intro c i hq _ hpat hrule
  obtain ⟨eff, vd, f, hexec, heff, hwrites, hf⟩ := exec_float_write hpat hrule
  have hunder := Ctx.under_plain (Ctx.plain_of_quiet hq)
  refine ⟨c.g.applyAll c.act c.full (lanesEff i.hdr c.g c.act vd f).writes, ?_, ?_, fun l x hl hact hx => ?_⟩
  · rw [hexec, runReg_ok hq heff, lanesEff_counts, State.count_nil]
    rfl
  · rw [hwrites]
    exact Group.sameBut_lanesEff hunder i.hdr vd f
  · obtain rfl := Option.some.inj ((hf _).symm.trans hx)
    exact Group.rdp_lanesEff hunder i.hdr vd f hl hact

end Sys2Proof.Machine
end
